-- ==== Sys2Proof/Word.lean ====
section
/-!
DEFINITION. The word types of the FL6200: a register, a byte, the 64-bit accumulator of an engine and a 16-bit address.
-/

namespace Sys2Proof

/-- A register of the part, or a word of shared RAM (R43, R342). -/
abbrev Word := BitVec 32

/-- A byte (R6). -/
abbrev Byte := BitVec 8

/-- The 64-bit accumulator `acc` of an engine (R342). -/
abbrev DWord := BitVec 64

/-- The 16 bits of `pc`, EPC and BADADDR (R342). -/
abbrev Half := BitVec 16

end Sys2Proof
end

