-- ==== Sys2Proof/Syntax.lean ====
section
/-!
DEFINITION. The commands of the FL6200: one constructor per row of the table of operations and events, with the
measured values, bytes or fields that the row's rule reads from outside the part. Units are in the names' comments:
mV and mA are thousandths, a temperature is in 0.125 °C, a time in µs unless its comment says otherwise.
-/

namespace Sys2Proof

/-- The engines (R21). -/
inductive EngId where
  | csq | hsq | pe0 | pe1
  deriving DecidableEq, Repr

/-- Fast-path samples of one microsecond (R147): pack voltage, HBUS and the converter-side pack voltage V_CS in mV, and the
voltages across RSNS_PK and RSNS_HB in µV, positive into the pack and into the converter side. -/
structure FastObs where
  vPk : Nat
  vHb : Nat
  vCs : Nat
  sPk : Int
  sHb : Int
  deriving DecidableEq, Repr

/-- What the sense resistor of a phase shows over one interval (R129): the voltage across RSNS_PHk at its start in µV, and its slope
in µV per µs. -/
structure SenseObs where
  uv : Int
  slope : Int
  deriving DecidableEq, Repr

/-- What one switching cycle of a phase meets (R135, R137): the fast-path samples (V_PK, V_HB) in mV in force in each of its
microseconds, and what RSNS_PHk shows in its UP and its DOWN interval. -/
structure CycleObs where
  vs : List (Nat × Nat)
  up : SenseObs
  down : SenseObs
  deriving DecidableEq, Repr

/-- The averages of an ended frame (R26, R83): pack voltage in 10 µV, the voltage across RSNS_PK in 0.1 µV, HBUS in 10 mV, the
voltage across RSNS_HB in µV, the VDS of S1's switch pair in µV, the voltages across RSNS_PHk in µV, the port voltages
S0-S3 in 10 mV, the converter-side pack voltage V_CS in mV, and the 32 samples of the 1.6 MS/s stream (R283): pack voltage in
10 µV and the voltage across RSNS_PK in 0.1 µV. At the tick itself, bits [3:0] of `tio` are the filtered levels of TIO0-TIO3 and bits
[7:4] the unfiltered ones (R548, R566). -/
structure FrameObs where
  vPk : Int
  sPk : Int
  hb : Nat
  sHb : Int
  vds1 : Int
  ph : List Int
  ports : List Nat
  vCs : Nat
  imp : List (Int × Int)
  tio : BitVec 8
  deriving DecidableEq, Repr

/-- What may carry the AO rail (R103, R62, R80), in mV: VCCIN_H, VCCIN_P, the lower of the levels of HSCL and HSDA, and PKD as a pack
drives it. -/
structure AoFeeds where
  vh : Nat
  vp : Nat
  bus : Nat
  pkd : Nat
  deriving DecidableEq, Repr

/-- VCC in mV (R78) and the feeds of the AO rail as it is lost (R112). -/
structure LossObs where
  vcc : Nat
  feeds : AoFeeds
  deriving DecidableEq, Repr

/-- Readings at power-on: VCC in mV (R78), the feeds of the AO rail with VCCIN_H and VCCIN_P, VDRV and the HADDR voltage in mV, whether
XI is valid, and the orientation of a source attached to S3 (R226). -/
structure PowerObs where
  vcc : Nat
  feeds : AoFeeds
  vdrv : Nat
  haddr : Nat
  xi : Bool
  att : Option Bool
  deriving DecidableEq, Repr

/-- What a remote input TRn measures (R505) in µV: its voltage under the NTC bias, and its forward voltages at 10 and 100 µA. -/
structure RemObs where
  ntc : Nat
  lo : Nat
  hi : Nat
  deriving DecidableEq, Repr

/-- One thermal update (R504, R507): the die sensors D0-D6 in 0.125 °C, the remote inputs TR0-TR3, and the HFO correction. -/
structure ThermObs where
  die : List Int
  tr : List RemObs
  osc : Int
  deriving DecidableEq, Repr

/-- One measurement of the four ports (R181, R184): voltage and VDS in mV (VDS in 0.01 mV), HBUS in mV, and the
fast-path samples. -/
structure PortObs where
  mv : List Nat
  vds : List Int
  fast : FastObs
  deriving DecidableEq, Repr

/-- What the pack bus did in one transaction of PKB (R328-R331): every byte acknowledged, with the bytes read from the wire;
a byte not acknowledged; arbitration lost in a bit of a byte, or in a STOP or repeated START; a START in an acknowledge
slot; or a recovery that failed. `free`: no transaction, but a STOP of another controller and the bus-free time after it. -/
inductive PkbEv where
  | done (rx : List Byte)
  | nack (idx : Nat)
  | arb (idx bit : Nat)
  | arbStop (idx : Nat)
  | srack (idx : Nat)
  | hang
  | free
  deriving DecidableEq, Repr

/-- The action of a received EPR_Mode message (R228, R236). -/
inductive EprAct where
  | enterAck | enterSucceeded | enterFailed | exit
  deriving DecidableEq, Repr

/-- How one attempt at a Host Notify goes on the bus (R487-R489): every byte acknowledged; a byte not acknowledged; arbitration
lost in a bit of a byte, or while sending STOP; or the recovery before its START failed. `free`: no attempt, but a STOP of another
controller and the bus-free time after it, or both lines high for 50 µs (R486). -/
inductive NotifyEv where
  | done
  | nack
  | arb (idx : Fin 4) (bit : Fin 8)
  | arbStop
  | hang
  | free
  deriving DecidableEq, Repr

/-- What the part does when a START falls in an acknowledge slot (R488): it sends as a target, receives as a target (with the code
of a write command in progress, if any), or sends a Host Notify, before whose START SDA had been low for 35 ms where `recov` holds
(R489). -/
inductive SrackCase where
  | sending
  | receiving (code : Option (BitVec 8))
  | controller (recov : Bool)
  deriving DecidableEq, Repr


/-- The commands of the FL6200: one constructor per row of the table. They stand in its order, but from the ring unit on
those with operands come first: a compiled constructor with operands must be among the first 244. -/
inductive Instr where
  /-- FRAME_TICK (R26). The frame timer opens a frame: FRM and the frame index advance, marked shadows go live, ADC averages latch
  and every engine stalls. -/
  | frameTick (o : FrameObs)
  /-- ENGINE_RELEASE (R26). At sub-frame tick 200 every engine that is not halted or fenced is released, and engines waiting to
  start begin at their entry point. -/
  | engineRelease
  /-- SUPERFRAME_BOUNDARY (R32). Every 50th frame tick closes the superframe: timers add their counts, averages close, graze level
  and cadence are chosen. -/
  | superframeBoundary
  /-- IDLE_FRAMES_FAWN (R31). 500 frames without a YIELD by CSQ or HSQ enter Fawn mode with cause 0x6. -/
  | idleFramesFawn
  /-- THERMAL_UPDATE (R507). Every 80 µs the sensors are read, die and group maxima formed, thresholds compared, HFO correction
  and thermal derating bound updated. -/
  | thermalUpdate (o : ThermObs)
  /-- CLOCK_MONITOR_CHECK (R41). Every 32 LFO cycles the HFO count is compared with 195,313 and CLK_MON raised beyond ±3 %. -/
  | clockMonitorCheck (count : Nat)
  /-- HFO_FAILED (R42). An HFO deviation beyond ±5 % or 1 µs without an edge moves timing to the backup oscillator and enters Fawn
  mode. -/
  | hfoFailed
  /-- RECEIVE_LOCK_LOSS (R429). 4 µs without a decodable symbol declares loss of receive lock; the node runs its HFO free and
  clears TALIGN. -/
  | receiveLockLoss
  /-- XI_STATUS_CHANGE (R86). XIOK is set when a valid XI source has been present and cleared within 10 µs of XI stopping. -/
  | xiStatusChange (present : Bool)
  /-- AO_POWER_ON (R105). The AO rail rising to 1.7 V from below 1.5 V resets RT registers and the ship flag and reads HADDR. -/
  | aoPowerOn (feeds : AoFeeds) (haddr : Nat)
  /-- VCC_POWER_ON (R106). VCC crossing its rising threshold runs the start-up sequence from reset to the first frame tick. -/
  | vccPowerOn (o : PowerObs)
  /-- VDRV_RESENSE (R100). Every 10 ms after an invalid VDRV reading the FL6200 senses VDRV again until a valid case is found. -/
  | vdrvResense (mv : Nat)
  /-- BOOT_TICK (R107). Every 20 µs before the first frame the power path applies type changes, computes ilim and steps V_REF and
  automatic HBUS_HOLD. -/
  | bootTick (o : FrameObs)
  /-- VCC_LOSS (R112). VCC below its falling threshold pulls all drivers low, opens every switch, stops engines and closes the
  link bypass. -/
  | vccLoss (o : LossObs)
  /-- VCC_PATH_CHANGE (R97). VCCIN_H crossing 9.0 V or 8.5 V makes the VCC path change its selected input make-before-break. -/
  | vccPathChange (vh : Nat) (vp : Nat)
  /-- BOOTSTRAP_UV (R79). A floating supply below its undervoltage threshold holds its high-side driver low, raising PH_DRV after
  20 cycles. -/
  | bootstrapUv (k : Fin 6) (pack : Bool) (mv : Nat)
  /-- VDRV_OUT_OF_BAND (R102). External VDRV out of band for 20 switching cycles raises PH_DRV and holds all drivers low until 1
  ms back in band. -/
  | vdrvOutOfBand
  /-- SHIP_REQUEST (R119). A host write of 0x5A to GLB_SHIP.CMD requests ship mode, refused or accepted and entered. -/
  | shipRequest (presence : Bool) (feeds : AoFeeds)
  /-- SHIP_EXIT_WAKE (R122). An accepted WAKE press in ship mode clears the ship flag, sets SHIPWAKE and turns the VCC path on. -/
  | shipExitWake (ms : Nat) (vcc : Nat)
  /-- SHIP_EXIT_SOURCE (R122). A source present for 10 ms in ship mode clears the ship flag, sets SHIPSRC and turns the VCC path on. -/
  | shipExitSource (vcc : Nat)
  /-- WAKE_PRESS (R124). WAKE low for 20 ms is accepted as a press, merged if within 250 ms of the previous one, and counted in
  EVCNT. -/
  | wakePress (ms : Nat)
  /-- WAKE_STUCK (R126). WAKE low for 10 s after a press raises STUCK_IN, sets STUCK and masks WAKE. -/
  | wakeStuck
  /-- ENGINE_RESET (R375). A host write of 1 to ENG_CTLe.RESET resets the engine, its rings and its pending marks and restarts it
  at its entry point. -/
  | engineReset (e : EngId)
  /-- ENGINE_HALT (R375). A host write of 1 to ENG_CTLe.HALT halts the engine at its next instruction boundary with cause 0x0A. -/
  | engineHalt (e : EngId)
  /-- SELECTOR_UPDATE (R149). Every 1 µs the outer loops update and the minimum-selector forms i_sel from all bounds. -/
  | selectorUpdate (o : FastObs)
  /-- SWITCHING_CYCLE (R137). At each cycle origin a phase derives its peak command, runs its state order and ends the controlled
  interval at the peak. -/
  | switchingCycle (k : Fin 6) (o : CycleObs)
  /-- LIGHT_LOAD_ENTRY (R140). A single active phase enters light-load mode once |i_sel| has stayed below 1.0 A for 16 µs. -/
  | lightLoadEntry
  /-- PHASE_ADD (R153). Mean phase current above ADD for 16 µs, or repeated peak limiting, adds the lowest available phase with a
  restagger. -/
  | phaseAdd
  /-- PHASE_SHED (R153). Total current below (n − 1) × SHED for SHDLY frames sheds the highest active phase. -/
  | phaseShed
  /-- PHASE_HARD_OC (R168). Sensed current at 1.5 × PWR_IPK stops the phase for 8 cycles and sets OC, raising PH_OC at the third
  event in 1 ms. `uv` is the voltage across RSNS_PHk in µV. -/
  | phaseHardOc (k : Fin 6) (uv : Int)
  /-- PHASE_READMIT (R168). A phase idled by hard over-current is re-admitted after 8 cycles. -/
  | phaseReadmit (k : Fin 6)
  /-- GATE_FEEDBACK_FAULT (R168). A driver output differing from its command 60 ns after the edge stops the phase, sets DRV and
  raises PH_DRV. -/
  | gateFeedbackFault (k : Fin 6)
  /-- PHASE_IMBALANCE (R168). A phase average off the mean by more than 25 % + 1 A for 50 frames sets IMB and raises PH_OC. -/
  | phaseImbalance (k : Fin 6)
  /-- PORT_MEASUREMENT (R181). Every 10 µs each port voltage is measured, in and out of window declared and the port state table
  applied. -/
  | portMeasurement (o : PortObs)
  /-- REVERSE_CURRENT_TRIP (R182). The reverse-current comparator of a carrying port trips and a source loss is declared. -/
  | reverseCurrentTrip (p : Fin 4) (drop : Int) (o : FastObs)
  /-- HBUS_FALL_TRIP (R183). HBUS below V_REF × (1 − FALL) trips the HBUS-fall comparator and declares a source loss. -/
  | hbusFallTrip (o : FastObs)
  /-- HANDOVER_HOLD_END (R199). 1 ms after reversal the hold ends: the lost port is released, selection resumes and add, shed and
  deferred changes resume. -/
  | handoverHoldEnd
  /-- LOST_PORT_TIMEOUT (R200). 1 ms after a loss that left HBUS unfed the lost port leaves LOST. -/
  | lostPortTimeout
  /-- QUALIFICATION_COMPLETE (R194). A port in window continuously for SRC_QUAL becomes READY. -/
  | qualificationComplete (p : Fin 4)
  /-- HANDBACK_CLOSE (R204). When the hold reference is reached the source gate ramps under DIDT and the hold bound ramps toward
  zero. -/
  | handbackClose
  /-- HANDBACK_COMPLETE (R204). At the end of the ramp the port carries, HBUS is source-carried and the comparators arm. -/
  | handbackComplete
  /-- LOCKOUT_END (R194). After FLOCK a locked-out port returns to ABSENT with LCNT cleared. -/
  | lockoutEnd (p : Fin 4)
  /-- HBUS_OV_TRIP (R185). HBUS above its OV threshold stops switching and opens the carrying port as a loss. -/
  | hbusOvTrip (o : FastObs)
  /-- HBUS_OV_RELEASE (R185). HBUS below VHBCEIL for 100 µs lets the converter resume. -/
  | hbusOvRelease (o : FastObs)
  /-- HBUS_UV_TRIP (R185). HBUS below 8.5 V raises HBUS_UV with no other hardware effect. -/
  | hbusUvTrip (o : FastObs)
  /-- SAG_SHED (R209). The HBUS-sag comparator trips and the node's forward draw is shed within 2 µs. -/
  | sagShed (o : FastObs)
  /-- SAG_RESTART (R210). HBUS above the sag threshold plus 1 % for 1 ms lets forward current restart under soft start. -/
  | sagRestart (o : FastObs)
  /-- PACK_START (R585). With HBUS unfed and the reserve available the carrier becomes pack-carried with a soft-started hold. -/
  | packStart
  /-- PACK_UNDERVOLTAGE (R214). The pack below its floor for 1 ms while pack-carried raises PK_UV and ends the reserve. -/
  | packUndervoltage (o : FastObs)
  /-- SID_READ (R187). Every 1 ms SID is read and binned, with a new bin accepted after five reads. -/
  | sidRead (tenthmv : Nat)
  /-- SID_RATE_WINDOW_END (R188). When the 100 ms event-rate window ends a merged SID change is re-evaluated. -/
  | sidRateWindowEnd
  /-- SID_STUCK (R188). A derate request held 60 s raises STUCK_IN and is ignored until SID leaves bin 0x0. -/
  | sidStuck
  /-- S1_OVERCURRENT (R217). S1 output current above its limit for 100 µs or above twice it opens S1 and sets OCP. `vds`: the
  VDS of S1's pair in 0.01 mV (R184). -/
  | s1Overcurrent (vds : Int)
  /-- S1_BACKFEED (R217). A back-feed trip of S1's reverse-current comparator opens S1 and sets BACKF. -/
  | s1Backfeed (drop : Int)
  /-- S1_REENTRY (R217). 1 s after an opening S1 re-enters OUTPUT, up to three times in 10 s. -/
  | s1Reentry
  /-- TYPEC_ATTACH (R221). CC at 0.20 V or more for 120 ms with VBUS present attaches the port and sets orientation. -/
  | typecAttach (cc2 : Bool)
  /-- TYPEC_DETACH (R222). VBUS or CC low for 15 ms detaches the port and clears contract and EPR state. -/
  | typecDetach (vbus : Bool)
  /-- RP_LEVEL_READ (R223). Every 1 ms the Rp level is read and accepted after 10 reads, releasing held sink-initiated commands. -/
  | rpLevelRead (mv : Nat)
  /-- SOURCE_CAPABILITIES_RX (R228). Received Source_Capabilities or EPR_Source_Capabilities start SenderResponseTimer and are
  passed to HSQ or answered by the fixed policy. -/
  | sourceCapabilitiesRx (epr : Bool) (hdr : BitVec 16) (objs : List Word)
  /-- ACCEPT_RX (R233). Accept starts PSTransitionTimer and the transition with the lower of old and new currents. -/
  | acceptRx (id : BitVec 3)
  /-- REJECT_RX (R228). Reject leaves the contract unchanged and is reported to HSQ. -/
  | rejectRx (id : BitVec 3)
  /-- WAIT_RX (R228). Wait leaves the contract unchanged and is reported to HSQ. -/
  | waitRx (id : BitVec 3)
  /-- PS_RDY_RX (R232). PS_RDY records the new contract and sets S3's type from the next tick. -/
  | psRdyRx (id : BitVec 3)
  /-- EPR_MODE_RX (R236). A received EPR_Mode message updates the EPR state. -/
  | eprModeRx (act : EprAct) (hdr : BitVec 16) (objs : List Word)
  /-- SOFT_RESET_RX (R239). A received Soft_Reset is accepted, keeping contract and type, and Source_Capabilities are awaited. -/
  | softResetRx (hdr : BitVec 16)
  /-- HARD_RESET_RX (R240). Hard_Reset signalling sets S3's type to 0x0 at once and clears contract, EPR and MessageIDs. -/
  | hardResetRx
  /-- PING_RX (R228). A received Ping is discarded without reply. -/
  | pingRx (id : BitVec 3)
  /-- EPR_KEEPALIVE_ACK_RX (R237). EPR_KeepAlive_Ack satisfies the keep-alive response timer. -/
  | eprKeepaliveAckRx (id : BitVec 3)
  /-- UNSUPPORTED_MESSAGE_RX (R228). Any other received message is answered with Not_Supported and counted. -/
  | unsupportedMessageRx (id : BitVec 3)
  /-- SINK_WAIT_CAP_TIMER (R229). No Source_Capabilities within SinkWaitCapTimer sends Hard_Reset, and after two raises TCP_ERR. -/
  | sinkWaitCapTimer
  /-- RETRANSMISSION_TIMER (R227). An unacknowledged message is retransmitted, and after its retries Soft_Reset then Hard_Reset
  are sent. -/
  | retransmissionTimer
  /-- SENDER_RESPONSE_TIMER (R230). Expiry of SenderResponseTimer sends Hard_Reset and raises TCP_ERR. -/
  | senderResponseTimer
  /-- PS_TRANSITION_TIMER (R230). Expiry of PSTransitionTimer sends Hard_Reset and raises TCP_ERR. -/
  | psTransitionTimer
  /-- EPR_KEEPALIVE_TIMER (R237). Every 250 ms in EPR the hardware sends EPR_KeepAlive. -/
  | eprKeepaliveTimer
  /-- EPR_ENTRY_TIMEOUT (R236). No Enter Succeeded within 500 ms of Enter Acknowledged leaves the SPR contract in force. -/
  | eprEntryTimeout
  /-- PD_REQUEST (R231). TCP_TXCMD 0x01 checks and sends a Request, releasing S3 first for a lower voltage. -/
  | pdRequest
  /-- PD_REQUEST_AFTER_RELEASE (R234). A deferred lower-voltage Request is sent once S3 has left CARRY. -/
  | pdRequestAfterRelease
  /-- EPR_REQUEST (R231). TCP_TXCMD 0x02 checks and sends an EPR_Request. -/
  | eprRequest
  /-- GET_SOURCE_CAP (R228). TCP_TXCMD 0x03 sends Get_Source_Cap. -/
  | getSourceCap
  /-- EPR_MODE_ENTER (R235). TCP_TXCMD 0x04 sends EPR_Mode (Enter) with the sink PDP, or is refused. -/
  | eprModeEnter
  /-- EPR_MODE_EXIT (R236). TCP_TXCMD 0x05 sends EPR_Mode (Exit) and clears EPR. -/
  | eprModeExit
  /-- SOFT_RESET_CMD (R239). TCP_TXCMD 0x06 sends Soft_Reset. -/
  | softResetCmd
  /-- HARD_RESET_CMD (R240). TCP_TXCMD 0x07 sends Hard_Reset with the effects of a hard reset on S3. -/
  | hardResetCmd
  /-- DESCRIPTOR_LATCH (R248). A write of 0x4C to CHG_CMD requests a latch of the Pack Descriptor. -/
  | descriptorLatch
  /-- LATCH_COMPLETE (R248). Within 100 µs the descriptor is checked and CHG_DLATn filled with DVALID, or LATFAIL set. -/
  | latchComplete
  /-- PACK_OV_TRIP (R262). Pack voltage above V_OV stops pack-side switching, opens PK_DG and declares removal. -/
  | packOvTrip (o : FastObs)
  /-- PACK_OC_TRIP (R263). Pack current beyond its threshold stops all switching and moves the charge state to FAULT. -/
  | packOcTrip (o : FastObs)
  /-- PRESENCE_OPEN_DETECT (R275). The presence pin open for 50 µs with PK_DG closed declares a pack removal. -/
  | presenceOpenDetect
  /-- CURRENT_COLLAPSE_DETECT (R275). A forward current collapse with a pack-voltage rise within 10 µs declares a pack removal. -/
  | currentCollapseDetect (o : FastObs)
  /-- PACK_ABSENT (R253). Presence lost for 100 ms makes the pack absent and moves the charge state to IDLE. -/
  | packAbsent
  /-- PACK_PRESENCE (R254). Presence for 100 ms in IDLE moves the charge state to DETECT. -/
  | packPresence
  /-- IDENTIFY_BACKSTOP (R254). 30 s in IDENTIFY moves the state to FAULT with cause 0x1. -/
  | identifyBackstop
  /-- RECOVER_ATTEMPT_END (R254). The 2 s recovery attempt timer returns the state to IDENTIFY or, after 5 attempts, to FAULT. -/
  | recoverAttemptEnd
  /-- TAPER_END_BACKSTOP (R254). 1 s in TAPER_END without a request moves the state to MAINTAIN. -/
  | taperEndBackstop
  /-- TEMPERATURE_BAND_CHANGE (R266). A band change toward a less restrictive band after 1 s inside it takes effect. -/
  | temperatureBandChange
  /-- SUSPEND_TEMP_EXIT (R266). A non-suspend band held 2 °C inside for 10 s ends SUSPEND_TEMP to the resume state. -/
  | suspendTempExit
  /-- TEMPERATURE_STALE (R265). A pack-reported temperature not refreshed for 1 s sets TSTALE and the band becomes unknown. -/
  | temperatureStale
  /-- RECHARGE_THRESHOLD (R274). In MAINTAIN the pack below V_RCH for 1 s sets RECHG. -/
  | rechargeThreshold
  /-- PK_DG_CLOSE_COMPLETE (R259). After pre-charge and the 1 ms gate ramp PK_DG is closed, DGCL set and the effective current
  released. -/
  | pkDgCloseComplete
  /-- PACK_CURRENT_RAMP_END (R260). After pack current has ramped to zero PK_DG is driven open and DGCL cleared. -/
  | packCurrentRampEnd
  /-- LAMP_PATTERN_STEP (R279). A lamp pattern interval ends and the output moves to its next interval. -/
  | lampPatternStep (lamp : Fin 2)
  /-- IMP_GROUP_LEAD_IN_END (R295). At the end of the lead-in the probe tones reach full amplitude and integration starts. -/
  | impGroupLeadInEnd
  /-- IMP_GROUP_INTEGRATION_END (R295). A group's integration ends: records are written and the next group, a retry or the job end
  follows. -/
  | impGroupIntegrationEnd
  /-- IMP_CANCEL (R302). A write of 1 to IMP_CTL.CANCEL ends the running job at the next tick with outcome 0x08. -/
  | impCancel
  /-- PKT_READ (R312). Every 80 µs PKT is read and banded. -/
  | pktRead (tenthmv : Nat)
  /-- PKI_READ (R315). Every 1 ms PKI is read, banded and a bin accepted after five reads. -/
  | pkiRead (tenthmv : Nat)
  /-- PRESENCE_CHANGE (R316). An open-comparator state held 1 ms is accepted as a presence change, or merged. -/
  | presenceChange (pki : Bool) (opened : Bool)
  /-- PRESENCE_RATE_WINDOW_END (R316). When the 10 ms event-rate window ends presence is re-evaluated. -/
  | presenceRateWindowEnd (pki : Bool)
  /-- PRESENCE_STUCK (R316). A pin short for 10 s raises STUCK_IN and stops its short counting as presence. -/
  | presenceStuck (pki : Bool)
  /-- PKP_OWN_WRITE (R320). A write to PKP_OWN changes the owners of PKD and PKC or is refused with OWNREF. -/
  | pkpOwnWrite (who : Option EngId) (v : BitVec 8)
  /-- PKP_RTEMP_WRITE (R265). A write to PKP_RTEMP sets the pack-reported temperature and restarts its 1 s freshness timer. -/
  | pkpRtempWrite (v : BitVec 16)
  /-- SEQUENCER_PUSH (R325). A write to PKP_SEQTXe pushes a cell, or sets TXOVF when the FIFO is full. -/
  | sequencerPush (e : Fin 2) (cell : Word)
  /-- SEQUENCER_POP (R325). An engine read of PKP_SEQRXe pops the head result word. -/
  | sequencerPop (e : Fin 2)
  /-- SEQUENCER_CELL_END (R323). A pin-sequencer cell ends at its length or edge, pushes any result and the next cell starts. -/
  | sequencerCellEnd (e : Fin 2) (edge : Bool) (lvl : Bool) (time : Nat)
  /-- SEQUENCER_FLUSH (R340). A write of 1 to PKP_SEQCTLe.FLUSH empties both FIFOs and releases the pins. -/
  | sequencerFlush (e : Fin 2)
  /-- SEQUENCER_DISABLE (R326). Clearing PKP_SEQCTLe.EN ends the running cell, releases the pin and holds the FIFO. -/
  | sequencerDisable (e : Fin 2)
  /-- PKB_ARB_RETRY (R330). After a lost arbitration and the back-off PKB retries the transaction. -/
  | pkbArbRetry (low : Bool) (ev : PkbEv)
  /-- PKB_CLOCK_TIMEOUT (R330). A target holding SCL low beyond the SMBus timeout ends the transaction with 0x07. -/
  | pkbClockTimeout (idx : Nat)
  /-- ALU (R357). The ALU instruction computes the function selected by fn on two registers. -/
  | alu (e : EngId) (b : BitVec 26)
  /-- ADDI (R356). Adds a sign-extended immediate to a register. -/
  | addi (e : EngId) (b : BitVec 26)
  /-- ANDI (R356). ANDs a register with a zero-extended immediate. -/
  | andi (e : EngId) (b : BitVec 26)
  /-- ORI (R356). ORs a register with a zero-extended immediate. -/
  | ori (e : EngId) (b : BitVec 26)
  /-- XORI (R356). XORs a register with a zero-extended immediate. -/
  | xori (e : EngId) (b : BitVec 26)
  /-- SHI (R356). Shifts a register by an immediate amount, left, logical right or arithmetic right. -/
  | shi (e : EngId) (b : BitVec 26)
  /-- SLTI (R356). Sets rd to 1 when rs1 is below the immediate, signed. -/
  | slti (e : EngId) (b : BitVec 26)
  /-- SLTIU (R356). Sets rd to 1 when rs1 is below the sign-extended immediate, unsigned. -/
  | sltiu (e : EngId) (b : BitVec 26)
  /-- LUI (R356). Loads an 18-bit immediate shifted left by 14. -/
  | lui (e : EngId) (b : BitVec 26)
  /-- LI (R356). Loads a sign-extended 18-bit immediate. -/
  | li (e : EngId) (b : BitVec 26)
  /-- MULG (R359). Multiplies two registers giving the low or a high product word. -/
  | mulg (e : EngId) (b : BitVec 26)
  /-- DIVG (R359). Divides or takes the remainder, signed or unsigned, with defined edge cases. -/
  | divg (e : EngId) (b : BitVec 26)
  /-- LDB (R347). Loads a sign-extended byte. -/
  | ldb (e : EngId) (b : BitVec 26)
  /-- LDBU (R347). Loads a zero-extended byte. -/
  | ldbu (e : EngId) (b : BitVec 26)
  /-- LDH (R349). Loads a sign-extended halfword from an even address. -/
  | ldh (e : EngId) (b : BitVec 26)
  /-- LDHU (R349). Loads a zero-extended halfword from an even address. -/
  | ldhu (e : EngId) (b : BitVec 26)
  /-- LDW (R347). Loads a word from a word-aligned address. -/
  | ldw (e : EngId) (b : BitVec 26)
  /-- STB (R348). Stores a byte subject to write rights and the width rule. -/
  | stb (e : EngId) (b : BitVec 26)
  /-- STH (R348). Stores a halfword subject to write rights and the width rule. -/
  | sth (e : EngId) (b : BitVec 26)
  /-- STW (R348). Stores a word, posted through the store buffer. -/
  | stw (e : EngId) (b : BitVec 26)
  /-- STORE_LANDS (R350). A posted store leaves the store buffer and lands in its register or shared-RAM bank. -/
  | storeLands (e : EngId)
  /-- AMO (R356). Atomically reads a shared-RAM word and writes SWAP, ADD, AND or OR of it. -/
  | amo (e : EngId) (b : BitVec 26)
  /-- LDP (R346). Reads a word of the active bank independently of GLB_PSWIN. -/
  | ldp (e : EngId) (b : BitVec 26)
  /-- BR (R358). Branches on a comparison of two registers. -/
  | br (e : EngId) (b : BitVec 26)
  /-- BF (R358). Branches on a test of the flags. -/
  | bf (e : EngId) (b : BitVec 26)
  /-- JAL (R356). Jumps relative and links the return address. -/
  | jal (e : EngId) (b : BitVec 26)
  /-- JALR (R356). Jumps to a register plus offset and links the return address. -/
  | jalr (e : EngId) (b : BitVec 26)
  /-- J (R356). Jumps relative by a 22-bit offset. -/
  | j (e : EngId) (b : BitVec 26)
  /-- YIELD (R366). Drains the store buffer, counts for the frame and stalls the engine until the next release. -/
  | yield (e : EngId) (b : BitVec 26)
  /-- HALT (R356). Drains the store buffer and halts the engine with cause 0x09. -/
  | halt (e : EngId) (b : BitVec 26)
  /-- TRAP (R370). Raises an exception with cause 0x08 and the immediate in BADADDR. -/
  | trap (e : EngId) (b : BitVec 26)
  /-- ERET (R372). Returns from an exception handler to EPC and clears EXH. -/
  | eret (e : EngId) (b : BitVec 26)
  /-- MFS (R360). Reads a special register. -/
  | mfs (e : EngId) (b : BitVec 26)
  /-- MTS (R360). Writes a special register. -/
  | mts (e : EngId) (b : BitVec 26)
  /-- POST (R361). Drains stores and posts a request from shared RAM into an owned ring under a new tag. -/
  | post (e : EngId) (b : BitVec 26)
  /-- TAKE (R361). Moves the oldest completion of an owned ring into shared RAM and frees its tag. -/
  | take (e : EngId) (b : BitVec 26)
  /-- MACG (R362). CSQ multiply-accumulate into the 64-bit accumulator. -/
  | macg (e : EngId) (b : BitVec 26)
  /-- ACCG (R363). CSQ reads, sets or adds to the accumulator with shift, rounding and saturation. -/
  | accg (e : EngId) (b : BitVec 26)
  /-- QG (R363). CSQ saturating add, subtract, absolute value or negation. -/
  | qg (e : EngId) (b : BitVec 26)
  /-- CG (R363). CSQ complex multiply, accumulate, magnitude, add or subtract. -/
  | cg (e : EngId) (b : BitVec 26)
  /-- FNG (R364). CSQ computes EXP2 or LOG2 in Q16.16. -/
  | fng (e : EngId) (b : BitVec 26)
  /-- SQG (R362). CSQ integer square root of a register or of the accumulator. -/
  | sqg (e : EngId) (b : BitVec 26)
  /-- DIVAG (R363). CSQ divides the accumulator by a register with saturation. -/
  | divag (e : EngId) (b : BitVec 26)
  /-- CPUSH (R365). A pin engine pushes a cell into its own sequencer, C set when full. -/
  | cpush (e : EngId) (b : BitVec 26)
  /-- CPOP (R365). A pin engine pops the head result of its own receive FIFO. -/
  | cpop (e : EngId) (b : BitVec 26)
  /-- CBIT (R365). Selects cell template CT1 or CT0 from a bit of a register. -/
  | cbit (e : EngId) (b : BitVec 26)
  /-- WCLS (R365). Classifies a result word's time against TH0 and TH1. -/
  | wcls (e : EngId) (b : BitVec 26)
  /-- CRC8 (R365). Advances a CRC-8 by one byte. -/
  | crc8 (e : EngId) (b : BitVec 26)
  /-- PINR (R365). Reads the filtered level of PKD or PKC. `lvl` is the filtered level at which the rest of the line leaves it. -/
  | pinr (e : EngId) (b : BitVec 26) (lvl : Bool)
  /-- LINE_BUFFER_FILL (R345). A program-store line enters a line buffer by prefetch or demand fetch and is checked. `word` is the
  word that the engine then fetches where it names no instruction, which has no row of its own (R353). -/
  | lineBufferFill (e : EngId) (line : Fin 1024) (word : Option Word)
  /-- OPERATION_DISPATCH (R388). An operation at the head of its unit's queue is checked and handed to the idle unit or completed
  with an error code. -/
  | operationDispatch (u : Fin 15)
  /-- ADC_CONV (R387). The SAR converter makes CNT conversions of a channel and completes with their average. -/
  | adcConv (vals : List Int)
  /-- PKB_XFER (R328). PKB runs one pack-bus transaction and completes with its detail code. -/
  | pkbXfer (low : Bool) (ev : PkbEv)
  /-- PS_WRITE (R402). Lines of the inactive bank are programmed from shared RAM and verified. -/
  | psWrite (bad : Option (Fin 16))
  /-- SHIP (R386). The SHIP operation requests ship mode as a host write would, completing at acceptance. -/
  | ship (presence : Bool) (feeds : AoFeeds)
  /-- RING_CONFIG_WRITE (R380). A write to RNG_CFGn is accepted or ignored with CFGREF. -/
  | ringConfigWrite (who : Option EngId) (n : Fin 32) (v : Word)
  /-- QUOTA_WRITE (R391). A host write of the tag quotas is accepted or ignored with QREF. -/
  | quotaWrite (second : Bool) (v : Word)
  /-- ARM (R415). Writing 0xA7 to GLB_PSARM arms the inactive bank and starts verification, or is refused. -/
  | arm (via : Option (List Byte))
  /-- DISARM (R416). Writing 0x5D to GLB_PSARM withdraws an arm that is verifying or in force. -/
  | disarm (via : Option (List Byte))
  /-- BEACON_RECEIVED (R432). A received beacon is checked, forwarded with updated hop fields and used for training, alignment or
  claims. `arr` is the arrival of its SOB after the node's own frame tick, in taps. -/
  | beaconReceived (bytes : List Byte) (err : Bool) (lead : BitVec 12) (arr : Int) (recs : List (List Byte × Bool))
  /-- COMMAND_SLOT_RECEIVED (R433). A received command slot gives levels, shed, cadence and orders, and the node computes its ring
  term. -/
  | commandSlotReceived (bytes : List Byte) (err : Bool)
  /-- MESSAGE_RECEIVED (R456). A filled message slot is checked, delivered if addressed to the node with ACK or NAK, and forwarded. -/
  | messageReceived (bytes : List Byte) (err : Bool) (pre : Bool)
  /-- MESSAGE_RETURN_LEAD (R457). A message returning to the lead is delivered, stripped, dropped or queued for relay. -/
  | messageReturnLead (bytes : List Byte) (err : Bool)
  /-- MESSAGE_RETURN_SOURCE (R458). A source seeing its relayed message return frees the slot and writes its final STATUS. -/
  | messageReturnSource (bytes : List Byte) (err : Bool)
  /-- MESSAGE_SEND (R456). A node fills the first FREE slot reaching its transmitter, message slot `slot`, with its oldest
  queued message; `cut` says that SOB or SOC reached the node before its EOM. -/
  | messageSend (slot : Nat) (cut : Bool)
  /-- LINK_TRAINING (R438). A valid stream reaching a training node locks its HFO and starts hop measurement. -/
  | linkTraining (lat : Nat)
  /-- LINK_ENABLE_WRITE (R426). A write of LNK_CTL.EN enables the link or makes the node stand-alone with its bypass closed. -/
  | linkEnableWrite (en : Bool)
  /-- POINTER_WRITE (R471). A pointer-mode write sets the pointer and may write GLB_PAGE; other data bytes are refused. -/
  | pointerWrite (addr : BitVec 7) (fast : Bool) (bytes : List Byte)
  /-- POINTER_READ (R472). A pointer-mode read returns bytes of the selected page from the pointer onward. -/
  | pointerRead (addr : BitVec 7) (fast : Bool) (n : Nat)
  /-- READ8 (R477). Command READ8 returns one byte at ADDR. -/
  | read8 (args : List Byte) (sr : Bool) (n : Nat)
  /-- READ16 (R477). Command READ16 returns two bytes at ADDR. -/
  | read16 (args : List Byte) (sr : Bool) (n : Nat)
  /-- READ32 (R477). Command READ32 returns four bytes at ADDR. -/
  | read32 (args : List Byte) (sr : Bool) (n : Nat)
  /-- READBLK (R477). Command READBLK returns CNT bytes from ADDR. -/
  | readblk (args : List Byte) (sr : Bool) (n : Nat)
  /-- WRITE8 (R478). Command WRITE8 writes one byte under the command-mode access rules. -/
  | write8 (args : List Byte)
  /-- WRITE16 (R478). Command WRITE16 writes two bytes under the command-mode access rules. -/
  | write16 (args : List Byte)
  /-- WRITE32 (R478). Command WRITE32 writes four bytes under the command-mode access rules. -/
  | write32 (args : List Byte)
  /-- WRITEBLK (R477). Command WRITEBLK writes CNT bytes into shared RAM. -/
  | writeblk (args : List Byte)
  /-- STATUS (R481). Command STATUS returns HST_RES and HST_VAL. -/
  | status (args : List Byte) (sr : Bool) (n : Nat)
  /-- HOST_POST (R482). Command POST posts an entry into a host ring and leaves the tag in HST_VAL. -/
  | hostPost (args : List Byte)
  /-- HOST_TAKE (R482). Command TAKE moves the oldest completion of a host ring into HST_TAKEBUF. -/
  | hostTake (args : List Byte)
  /-- RINGRST (R482). Command RINGRST resets the host rings named in MASK. -/
  | ringrst (args : List Byte)
  /-- FUSEWR (R483). Command FUSEWR starts the write of an option fuse field after checking its conditions. -/
  | fusewr (args : List Byte) (mv : Nat)
  /-- FUSE_WRITE_COMPLETE (R483). The fuse write and read-back end, setting RES, HST_VAL and HST_NPEND.CMD. -/
  | fuseWriteComplete (back : Nat)
  /-- FAWN (R531). A write of 0xF4 to FLT_CMD, or the host command FAWN, enters Fawn mode with cause 0x5. -/
  | fawn (via : Option (List Byte))
  /-- FAWNEXIT (R534). A host write of 0x4F to FLT_CMD requests exit from Fawn mode under the cause's condition. -/
  | fawnexit (args : List Byte)
  /-- HOST_NOTIFY (R487). The FL6200 as controller sends a Host Notify with the pending enabled causes. -/
  | hostNotify (recov : Bool) (ev : NotifyEv)
  /-- NOTIFY_ARB_RETRY (R488). After a lost arbitration and the back-off the Host Notify is retried. -/
  | notifyArbRetry (recov : Bool) (ev : NotifyEv)
  /-- START_IN_ACK_SLOT (R488). A START in an acknowledge slot ends the transaction and raises HST_SRACK. -/
  | startInAckSlot (c : SrackCase)
  /-- TARGET_TIMEOUT (R488). SCL held low 25–35 ms releases both lines and discards a write in progress. -/
  | targetTimeout (code : Option Byte)
  /-- HST_NSET_WRITE (R485). HSQ writing 1s to HST_NSET sets program notify causes. -/
  | hstNsetWrite (v : BitVec 16)
  /-- WATCHDOG_KEY_WRITE (R496). The first write of WDG_KEY sets KEY and KEYLK; later writes set KEYREF. -/
  | watchdogKeyWrite (v : Word)
  /-- WATCHDOG_SERVICE (R497). A 32-bit write of a token to WDG_ANS is checked and is a valid or a bad service. -/
  | watchdogService (v : Word)
  /-- WATCHDOG_CHECKIN (R499). A write of a task number to WDG_CHKIN checks the task in or is a bad service. -/
  | watchdogCheckin (who : Option EngId) (k : BitVec 3)
  /-- WATCHDOG_CONFIG_WRITE (R500). A write to WDG_PER or WDG_TASK is accepted while stopped or in the open window, else CFGREF. -/
  | watchdogConfigWrite (task : Bool) (v : Word)
  /-- ESCALATION_WINDOW_CLOSE (R523). A source's escalation window closes W after its opening event and the counter returns to 0. -/
  | escalationWindowClose (src : Fin 37)
  /-- FENCE_RELEASE (R528). A write of 1 to a unit's bit in FLT_FREL releases its fence. -/
  | fenceRelease (who : Option EngId) (v : BitVec 16)
  /-- FAULT_CONFIG_WRITE (R526). A write to FLT_CFGs is accepted or refused whole with CFGREF. -/
  | faultConfigWrite (src : Fin 64) (v : Word)
  /-- FAULT_INJECTION_ARM (R542). A write to FLT_INJ with ARM = 1 arms one checker to see inverted check bits at its next check. -/
  | faultInjectionArm (v : BitVec 16)
  /-- LOG_SELECT (R540). A write to LOG_SEL copies the entry of that slot into LOG_ENT. -/
  | logSelect (slot : BitVec 8)
  /-- LOG_PUT (R538). A write to LOG_PUT writes a program or host entry to the log. -/
  | logPut (who : Option EngId) (v : Word)
  /-- TIMER_RELOAD (R547). A count edge at or above PER reloads the counter to 0 and applies reload actions and staged compares. -/
  | timerReload (n : Fin 8)
  /-- TIMER_MATCH (R554). A count edge reaching the compare value sets MATCH and applies the output action. -/
  | timerMatch (n : Fin 8)
  /-- TIMER_CAPTURE (R551). An accepted capture edge or frame tick copies the counter to TMR_CAPn. -/
  | timerCapture (n : Fin 8) (rising : Bool) (gap : Nat)
  /-- TIO_STUCK (R552). A capture pin held at ACT for the stuck time raises STUCK_IN and masks captures. -/
  | tioStuck (n : Fin 8)
  /-- TIMER_COUNTER_WRITE (R550). A write to TMR_CNTn loads the counter, discarding a same-clock count edge. -/
  | timerCounterWrite (n : Fin 8) (v : Word)
  /-- TIMER_COMPARE_WRITE (R554). A write to TMR_CMPn takes effect live or goes to the staged shadow. -/
  | timerCompareWrite (n : Fin 8) (v : Word)
  /-- TIMER_PERIOD_WRITE (R547). A write to TMR_PERn takes effect from the next count edge. -/
  | timerPeriodWrite (n : Fin 8) (v : Word)
  /-- TIMER_CAPTURE_READ (R551). An engine load including the low byte of TMR_CAPn clears NEW. -/
  | timerCaptureRead (n : Fin 8)
  /-- TIMER_STAGGER_LOAD (R557). A write of 1 to TMR_STAG.GO loads member channels with evenly spaced counts, or is refused. -/
  | timerStaggerLoad (mask : BitVec 8)
  /-- REGISTER_WRITE (R348). A write to a register without behaviour of its own updates its writable fields under rights, width
  and lock rules. -/
  | registerWrite (who : Option EngId) (a : BitVec 16) (size : Fin 3) (v : Word)
  /-- COUNT_EDGE (R546). A source edge through the prescaler gives a count edge that advances the timer counter. -/
  | countEdge (n : Fin 8) (gate : Bool) (gap : Nat)
  /-- TH_HARD_TRIP (R510). A die sensor at HARD, at `die` eighths of a degree, trips its analogue comparator and stops all switching. -/
  | thHardTrip (die : Int)
  /-- NOTIFY_CLOCK_TIMEOUT (R488). As Host Notify controller, another device holding SCL low beyond the SMBus timeout fails the
  transfer and sets BUS unknown; `recov`: SDA had been low for 35 ms before its START (R489). -/
  | notifyClockTimeout (recov : Bool)
  /-- NOP (R385). A NOP operation completes at the ring unit, optionally as a fence barrier. -/
  | nop
  /-- IMP_SWEEP (R295). The impedance unit checks a sweep descriptor and runs its groups, completing with the outcome. -/
  | impSweep
  /-- CRC_SCAN (R562). The scan engine computes CRC-32C over a range, optionally storing it. -/
  | crcScan
  /-- LNK_SEND (R460). A message is copied into the class transmit ring, or sent as an APP order on the lead. -/
  | lnkSend
  /-- LNK_RECV (R460). The oldest received message of a class is copied to a buffer and its slot freed. -/
  | lnkRecv
  /-- SCRUB_LINE (R407). Every 4 ms the scrub reads the next line, rewriting a corrected line and acting on an uncorrectable one. -/
  | scrubLine
  /-- ARM_VERIFY_DONE (R415). Verification of the armed bank ends, setting VALID and PEND or a refusal code. -/
  | armVerifyDone
  /-- BANK_SWAP (R417). At the superframe boundary after verification the engines reset and restart in the armed bank with TRIAL
  set. -/
  | bankSwap
  /-- CHECK_WINDOW_CLOSE (R420). The superframe after a swap closes: the pass words decide commit or rollback. -/
  | checkWindowClose
  /-- IMAGE_RECOVERY (R423). In Fawn mode with cause 0x1 or 0x8 a verified arm starts the new bank and leaves Fawn mode. -/
  | imageRecovery
  /-- BUDGET_RECORD (R446). A node places its budget or roll-call record in the header as its position passes. -/
  | budgetRecord
  /-- ROLLCALL (R444). The lead sends a ROLLCALL order and builds its table of index, address and UID. -/
  | rollcall
  /-- MESSAGE_TIMEOUT (R458). A message not returned within 4 frames gets STATUS 0x13. -/
  | messageTimeout
  /-- CLAIM_START (R442). An eligible node with no stream for 10 ms opens its bypass and sends claim beacons. -/
  | claimStart
  /-- BEACON_LOSS (R461). No valid beacon for 3 frames raises LNK_LOST and puts the node on its static share. -/
  | beaconLoss
  /-- CLAIM_AFTER_LOSS (R461). 100 µs after beacon loss an eligible node starts claiming unless a beacon has returned. -/
  | claimAfterLoss
  /-- LEAD_HEADER_LOSS (R462). A lead receiving no intact header for 3 frames raises LNK_LOST and sends BUDV = 0. -/
  | leadHeaderLoss
  /-- LINK_ROLL_REQUEST (R444). A write of 1 to LNK_CTL.ROLL makes the lead run a roll call. -/
  | linkRollRequest
  /-- FAWN_EXIT (R535). At the tick after an accepted exit Fawn mode ends, fences release and engines start. -/
  | fawnExit
  /-- HOST_NOTIFY_REPEAT (R486). Every NRPT × 10 ms with causes still pending another Host Notify is due. -/
  | hostNotifyRepeat
  /-- WATCHDOG_START (R493). A write of 1 to WDG_CTL.RUN starts the software-started watchdog. -/
  | watchdogStart
  /-- OPEN_WINDOW_CLOSE (R492). The open window of the running period closes. -/
  | openWindowClose
  /-- WATCHDOG_EXPIRY (R501). A period without valid service, or a third bad service, raises WDG_EXP and resets all engines. -/
  | watchdogExpiry
  /-- TH_STOP_RELEASE (R508). The maximum below STOP less 10 °C for 1 s releases TH_STOP. -/
  | thStopRelease
  /-- TH_HARD_RELEASE (R508). The die maximum below HARD less 20 °C for 1 s releases TH_HARD. -/
  | thHardRelease
  /-- LOG_CLEAR (R539). A write of 1 to LOG_CTL.CLR empties the log and clears its counts. -/
  | logClear
  /-- WAKE_PRESS_END (R124). WAKE high continuously for 20 ms ends a press and lifts the stuck mask of R126. -/
  | wakePressEnd
  /-- ERR_TOGGLE (R541). In ERRMODE 0b10 with no ERR condition the ERR pair swaps every 500 µs. -/
  | errToggle
  /-- VDRV_BACK_IN_BAND (R102). External VDRV back in band for 1 ms releases the drivers held low after VDRV_OUT_OF_BAND. -/
  | vdrvBackInBand
  /-- AO_RETENTION_LOSS (R103). Every AO source falling below the 1.5 V retention level loses the AO island, its RT registers and
  ship flag, leaving the device unpowered. -/
  | aoRetentionLoss
  /-- GOODCRC_RECEIVED (R227). A GoodCRC received for a message the port sent ends its retransmission and marks the command sent. -/
  | goodcrcReceived
  deriving DecidableEq, Repr

end Sys2Proof
end

