-- ==== Sys2Proof/Decode.lean ====
section
/-!
DEFINITION. Words and commands. No row of the table has bits, so no word spells a command (`decodeTableWord`). The words that
the Raura engines fetch do have an encoding (R352, R353, R356, R362, R365): `decodeRaura` names the operation of a word,
`encodeRaura` writes the word of an operation. A command of an engine carries the 26 bits below the opcode; that of PINR a level of the
line too, which no word holds and which a decoded one gives as high, its pull-up's.
-/

namespace Sys2Proof

/-- No row of the table of operations and events has bits: a word spells no command. -/
def decodeTableWord (_nbits _w : Nat) : Option Instr := none

/-- The operation of each opcode (R356, R362, R365); a code that is not listed is illegal (R353). -/
def rauraOp (e : EngId) (b : BitVec 26) : Nat → Option Instr
  | 0x01 => some (.alu e b)
  | 0x02 => some (.addi e b)
  | 0x03 => some (.andi e b)
  | 0x04 => some (.ori e b)
  | 0x05 => some (.xori e b)
  | 0x06 => some (.shi e b)
  | 0x07 => some (.slti e b)
  | 0x08 => some (.sltiu e b)
  | 0x09 => some (.lui e b)
  | 0x0A => some (.li e b)
  | 0x0B => some (.mulg e b)
  | 0x0C => some (.divg e b)
  | 0x10 => some (.ldb e b)
  | 0x11 => some (.ldbu e b)
  | 0x12 => some (.ldh e b)
  | 0x13 => some (.ldhu e b)
  | 0x14 => some (.ldw e b)
  | 0x18 => some (.stb e b)
  | 0x19 => some (.sth e b)
  | 0x1A => some (.stw e b)
  | 0x1B => some (.amo e b)
  | 0x1C => some (.ldp e b)
  | 0x20 => some (.br e b)
  | 0x21 => some (.bf e b)
  | 0x22 => some (.jal e b)
  | 0x23 => some (.jalr e b)
  | 0x24 => some (.j e b)
  | 0x28 => some (.yield e b)
  | 0x29 => some (.halt e b)
  | 0x2A => some (.trap e b)
  | 0x2B => some (.eret e b)
  | 0x2C => some (.mfs e b)
  | 0x2D => some (.mts e b)
  | 0x2E => some (.post e b)
  | 0x2F => some (.take e b)
  | 0x30 => some (.macg e b)
  | 0x31 => some (.accg e b)
  | 0x32 => some (.qg e b)
  | 0x33 => some (.cg e b)
  | 0x34 => some (.fng e b)
  | 0x35 => some (.sqg e b)
  | 0x36 => some (.divag e b)
  | 0x38 => some (.cpush e b)
  | 0x39 => some (.cpop e b)
  | 0x3A => some (.cbit e b)
  | 0x3B => some (.wcls e b)
  | 0x3C => some (.crc8 e b)
  | 0x3D => some (.pinr e b true)
  | _ => none

/-- The operation that a fetched word names for engine `e`: its opcode is bits [31:26] (R352). -/
def decodeRaura (e : EngId) (w : Word) : Option Instr := rauraOp e (w.setWidth 26) (w.toNat / 2 ^ 26)

/-- The opcode of an engine's instruction, with its engine and its 26 bits; none for the commands of the other blocks. -/
def rauraCode (i : Instr) : Option (Nat × EngId × BitVec 26) :=
  match i with
  | .alu e b => some (0x01, e, b)
  | .addi e b => some (0x02, e, b)
  | .andi e b => some (0x03, e, b)
  | .ori e b => some (0x04, e, b)
  | .xori e b => some (0x05, e, b)
  | .shi e b => some (0x06, e, b)
  | .slti e b => some (0x07, e, b)
  | .sltiu e b => some (0x08, e, b)
  | .lui e b => some (0x09, e, b)
  | .li e b => some (0x0A, e, b)
  | .mulg e b => some (0x0B, e, b)
  | .divg e b => some (0x0C, e, b)
  | .ldb e b => some (0x10, e, b)
  | .ldbu e b => some (0x11, e, b)
  | .ldh e b => some (0x12, e, b)
  | .ldhu e b => some (0x13, e, b)
  | .ldw e b => some (0x14, e, b)
  | .stb e b => some (0x18, e, b)
  | .sth e b => some (0x19, e, b)
  | .stw e b => some (0x1A, e, b)
  | .amo e b => some (0x1B, e, b)
  | .ldp e b => some (0x1C, e, b)
  | .br e b => some (0x20, e, b)
  | .bf e b => some (0x21, e, b)
  | .jal e b => some (0x22, e, b)
  | .jalr e b => some (0x23, e, b)
  | .j e b => some (0x24, e, b)
  | .yield e b => some (0x28, e, b)
  | .halt e b => some (0x29, e, b)
  | .trap e b => some (0x2A, e, b)
  | .eret e b => some (0x2B, e, b)
  | .mfs e b => some (0x2C, e, b)
  | .mts e b => some (0x2D, e, b)
  | .post e b => some (0x2E, e, b)
  | .take e b => some (0x2F, e, b)
  | .macg e b => some (0x30, e, b)
  | .accg e b => some (0x31, e, b)
  | .qg e b => some (0x32, e, b)
  | .cg e b => some (0x33, e, b)
  | .fng e b => some (0x34, e, b)
  | .sqg e b => some (0x35, e, b)
  | .divag e b => some (0x36, e, b)
  | .cpush e b => some (0x38, e, b)
  | .cpop e b => some (0x39, e, b)
  | .cbit e b => some (0x3A, e, b)
  | .wcls e b => some (0x3B, e, b)
  | .crc8 e b => some (0x3C, e, b)
  | .pinr e b true => some (0x3D, e, b)
  | _ => none

/-- The word of an engine's instruction (R352). -/
def encodeRaura (i : Instr) : Option (EngId × Word) :=
  (rauraCode i).map (fun c => (c.2.1, BitVec.ofNat 32 (c.1 * 2 ^ 26 + c.2.2.toNat)))

end Sys2Proof
end

