-- ==== Sys2Proof/Config.lean ====
section
/-!
DEFINITION. What the manual leaves open. Each constant here is opaque: no value of it can be computed
or proved, so what is stated of the machine holds whatever it is. A function of a counter gives a fresh
value at each use: the counter is the field `seed` of `State` and the step advances it.
-/

namespace Sys2Proof.Config

/-- The wait of one engine access to shared RAM (R48 bounds it by 4 cycles; the bank order is open): the
model takes it modulo 5. -/
opaque ramWait : Nat → Nat

/-- The correction of EXP2 inside the accuracy R364 allows; see `FNG`. -/
opaque exp2 : Word → Word

/-- LOG2 inside the accuracy R364 allows; see `FNG`. -/
opaque log2 : Word → Word

/-- A value the manual leaves open that is not tied to operands (a conversion inside its tolerance, the
wrong data of a multi-bit error, R351). -/
opaque freeWord : Nat → Word

/-- The pre-charge bound of R259 in mA from V_CS and PK_VS in mV: the manual bounds it and gives no law. -/
opaque preBound : Nat → Nat → Nat

/-- A temperature whose formula (R314, R505) has no value that its register can hold, by what was measured and the setting. -/
opaque tempCorner : Nat → Nat → Nat

/-- The skew of the two ΣΔ channels in ps (R84 bounds it by 5 ns): the model limits it to that. -/
opaque impSkew : Int

/-- The level of the micropower regulator of the AO rail in mV (R103 gives none). The rail runs from 1.7 V, so the model takes at least
that. -/
opaque aoMicro : Nat

/-- How a line with three or more changed bits in one lane decodes, by the line and its changed bits: the manual gives no guarantee
(R400). The model takes it modulo 3. -/
opaque eccLevel : Nat → List Nat → Nat

/-- A byte of such a line as it is delivered, by its key and the changed bits. -/
opaque eccByte : Nat → List Nat → BitVec 8

end Sys2Proof.Config
end

