-- ==== Sys2Proof/Machine/Bits.lean ====
section
/-!
DEFINITION. Number and byte helpers shared by every block: bit fields of numbers, two's-complement
reading, saturation and clamping, little-endian byte strings (R6), the CRC-32C of the check unit
(R560), the CRC-8 of the two-wire check byte (R365, R479), and one stable sort.
-/

namespace Sys2Proof.Machine

/-- Bits `[hi:lo]` of a number. -/
def bitsOf (v hi lo : Nat) : Nat := (v / 2 ^ lo) % 2 ^ (hi + 1 - lo)

/-- Bit `i` of a number. -/
def bitOf (v i : Nat) : Bool := (v / 2 ^ i) % 2 == 1

/-- The number with bit `i` set to `b`. -/
def putBit (v i : Nat) (b : Bool) : Nat :=
  if bitOf v i = b then v else if b then v + 2 ^ i else v - 2 ^ i

/-- A Bool as a one-bit number. -/
def b2n (b : Bool) : Nat := if b then 1 else 0

/-- A `w`-bit number read as two's complement. -/
def sgn (w v : Nat) : Int := if v % 2 ^ w < 2 ^ (w - 1) then (v % 2 ^ w : Nat) else (v % 2 ^ w : Nat) - (2 ^ w : Nat)

/-- An integer as a `w`-bit two's-complement number. -/
def unsgn (w : Nat) (i : Int) : Nat := (i % (2 ^ w : Nat)).toNat

/-- An integer limited to the range of a `w`-bit two's-complement number. -/
def satS (w : Nat) (i : Int) : Int := max (-(2 ^ (w - 1) : Nat)) (min i ((2 ^ (w - 1) : Nat) - 1))

/-- A number limited to `lo` to `hi`. -/
def clampN (lo hi v : Nat) : Nat := max lo (min v hi)

/-- An integer limited to `lo` to `hi`. -/
def clampI (lo hi v : Int) : Int := max lo (min v hi)

/-- A negative integer counts as 0. -/
def posPart (i : Int) : Nat := i.toNat

/-- Division rounding a half up; 0 when the divisor is 0. -/
def divRound (a b : Nat) : Nat := if b = 0 then 0 else (2 * a + b) / (2 * b)

/-- Integer division rounding a half up; 0 when the divisor is 0. -/
def idivRound (a : Int) (b : Nat) : Int := if b = 0 then 0 else (2 * a + b) / (2 * b)

/-- Replace element `k` of a list (nothing where the list is shorter). -/
def lput {α : Type} (l : List α) (k : Nat) (x : α) : List α := l.set k x

/-- Element `k` of a vector, the index taken modulo its length. -/
def vAt {α : Type} {n : Nat} (v : Vector α (n + 1)) (k : Nat) : α := v[k % (n + 1)]'(Nat.mod_lt _ (Nat.succ_pos n))

/-- The vector with element `k`, taken modulo its length, replaced. -/
def vPut {α : Type} {n : Nat} (v : Vector α (n + 1)) (k : Nat) (x : α) : Vector α (n + 1) :=
  v.set (k % (n + 1)) x (Nat.mod_lt _ (Nat.succ_pos n))

/-- The number of `true` bits of a `w`-bit mask. -/
def popCount : Nat → Nat → Nat
  | 0, _ => 0
  | w + 1, v => b2n (bitOf v w) + popCount w v

/-- The value of a little-endian byte string (R6). -/
def leNat : List Byte → Nat
  | [] => 0
  | b :: t => b.toNat + 256 * leNat t

/-- The little-endian bytes of a number, `n` of them (R6). -/
def leBytes : Nat → Nat → List Byte
  | 0, _ => []
  | n + 1, v => BitVec.ofNat 8 v :: leBytes n (v / 256)

/-- One bit step of the reflected CRC-32C register, polynomial 0x1EDC_6F41 reflected (R560). -/
def crc32cBit (c : Word) : Word :=
  if c.getLsbD 0 then (c >>> 1) ^^^ 0x82F63B78#32 else c >>> 1

/-- One byte of CRC-32C (R560). -/
def crc32cByte (c : Word) (b : Byte) : Word :=
  let c := c ^^^ b.setWidth 32
  crc32cBit (crc32cBit (crc32cBit (crc32cBit (crc32cBit (crc32cBit (crc32cBit (crc32cBit c)))))))

/-- CRC-32C of a byte string: initial value and final XOR 0xFFFF_FFFF (R560). A folded prefix is
fed before the covered bytes, so it is simply put in front. -/
def crc32c (bs : List Byte) : Word := (bs.foldl crc32cByte 0xFFFFFFFF#32) ^^^ 0xFFFFFFFF#32

/-- One bit step of CRC-8, polynomial 0x07, not reflected (R365). -/
def crc8Bit (c : Byte) : Byte := if c.getLsbD 7 then (c <<< 1) ^^^ 0x07#8 else c <<< 1

/-- One byte of CRC-8 (R365, the SMBus check byte of R479 and R328). -/
def crc8Byte (c b : Byte) : Byte :=
  crc8Bit (crc8Bit (crc8Bit (crc8Bit (crc8Bit (crc8Bit (crc8Bit (crc8Bit (c ^^^ b))))))))

/-- CRC-8 of a byte string from 0. -/
def crc8 (bs : List Byte) : Byte := bs.foldl crc8Byte 0

/-- Insert `x` after every element whose key does not exceed its own (stable). -/
def insertBy {α : Type} (key : α → Nat) (x : α) : List α → List α
  | [] => [x]
  | y :: t => if key y ≤ key x then y :: insertBy key x t else x :: y :: t

/-- A stable sort by a numeric key. -/
def sortBy {α : Type} (key : α → Nat) (l : List α) : List α := l.foldl (fun acc x => insertBy key x acc) []

/-- Fold a state over the numbers `0 … n-1`. -/
def forN {σ : Type} (n : Nat) (f : Nat → σ → σ) (s : σ) : σ := (List.range n).foldl (fun s k => f k s) s

/-- Apply `f` when `c` holds. -/
def when' {σ : Type} (c : Bool) (f : σ → σ) (s : σ) : σ := if c then f s else s

/-- The largest `k` with `k * k ≤ n`, by bisection over `fuel` bits. -/
def isqrtBits : Nat → Nat → Nat → Nat
  | 0, _, r => r
  | b + 1, n, r =>
    let c := r + 2 ^ b
    isqrtBits b n (if c * c ≤ n then c else r)

/-- The integer square root of a 64-bit number (R362). -/
def isqrt64 (n : Nat) : Nat := isqrtBits 32 n 0

end Sys2Proof.Machine
end

