-- ==== Sys2Proof/Machine/Regs.lean ====
section
/-!
DEFINITION. The register map of the FL6200 (R568): one address per register of the index,
one field description per field of its table, the row that says which bits of each register
a write may change (R8), and the values the tables give at reset.

A register is named as the manual names it. A register that the manual indexes (`HUB_PSTATk`)
is a function of its index. A field is `<register>_<field>`.
-/

namespace Sys2Proof.Machine

/-- A field of a register: the register's address and the bit range `[hi:lo]`. -/
structure Fld where
  addr : Nat
  hi : Nat
  lo : Nat
  deriving DecidableEq, Repr

/-- The width of a field in bits. -/
def fldWidth (f : Fld) : Nat := f.hi + 1 - f.lo


/-! ## GLB (R51) -/

abbrev GLB_PAGE : Nat := 0x0000
abbrev GLB_PAGE_PAGE : Fld := ⟨0x0000, 7, 0⟩
abbrev GLB_DEVID : Nat := 0x0004
abbrev GLB_DEVID_PART : Fld := ⟨0x0004, 31, 16⟩
abbrev GLB_DEVID_STEP : Fld := ⟨0x0004, 3, 0⟩
abbrev GLB_FRM : Nat := 0x0008
abbrev GLB_FRM_FRM : Fld := ⟨0x0008, 31, 0⟩
abbrev GLB_FPOS : Nat := 0x000C
abbrev GLB_FPOS_FIDX : Fld := ⟨0x000C, 21, 16⟩
abbrev GLB_FPOS_SFT : Fld := ⟨0x000C, 10, 0⟩
abbrev GLB_IDLEFR : Nat := 0x0010
abbrev GLB_IDLEFR_COUNT : Fld := ⟨0x0010, 15, 0⟩
abbrev GLB_CLKSTAT : Nat := 0x0014
abbrev GLB_CLKSTAT_LOCKLOST : Fld := ⟨0x0014, 10, 10⟩
abbrev GLB_CLKSTAT_CLKFAIL : Fld := ⟨0x0014, 9, 9⟩
abbrev GLB_CLKSTAT_SHORTSF : Fld := ⟨0x0014, 8, 8⟩
abbrev GLB_CLKSTAT_XIOK : Fld := ⟨0x0014, 3, 3⟩
abbrev GLB_CLKSTAT_TALIGN : Fld := ⟨0x0014, 2, 2⟩
abbrev GLB_CLKSTAT_CLKSRC : Fld := ⟨0x0014, 1, 0⟩
abbrev GLB_OSCCOR : Nat := 0x0018
abbrev GLB_OSCCOR_COR : Fld := ⟨0x0018, 11, 0⟩
abbrev GLB_PSWIN : Nat := 0x001C
abbrev GLB_PSWIN_WIN : Fld := ⟨0x001C, 1, 0⟩
abbrev GLB_SUPSTAT : Nat := 0x0040
abbrev GLB_SUPSTAT_VDRVOK : Fld := ⟨0x0040, 11, 11⟩
abbrev GLB_SUPSTAT_VDRVLVL : Fld := ⟨0x0040, 10, 10⟩
abbrev GLB_SUPSTAT_VDRVEXT : Fld := ⟨0x0040, 9, 9⟩
abbrev GLB_SUPSTAT_VIOOK : Fld := ⟨0x0040, 8, 8⟩
abbrev GLB_SUPSTAT_AOSRC : Fld := ⟨0x0040, 5, 4⟩
abbrev GLB_SUPSTAT_VCCSRC : Fld := ⟨0x0040, 1, 0⟩
abbrev GLB_RSTCAUSE : Nat := 0x0044
abbrev GLB_RSTCAUSE_AOPOR : Fld := ⟨0x0044, 8, 8⟩
abbrev GLB_RSTCAUSE_ROLLBK : Fld := ⟨0x0044, 7, 7⟩
abbrev GLB_RSTCAUSE_SWAP : Fld := ⟨0x0044, 6, 6⟩
abbrev GLB_RSTCAUSE_ENGRST : Fld := ⟨0x0044, 5, 5⟩
abbrev GLB_RSTCAUSE_WDG : Fld := ⟨0x0044, 4, 4⟩
abbrev GLB_RSTCAUSE_SHIPSRC : Fld := ⟨0x0044, 3, 3⟩
abbrev GLB_RSTCAUSE_SHIPWAKE : Fld := ⟨0x0044, 2, 2⟩
abbrev GLB_RSTCAUSE_VCCPOR : Fld := ⟨0x0044, 0, 0⟩
abbrev GLB_SHIP : Nat := 0x0048
abbrev GLB_SHIP_CMD : Fld := ⟨0x0048, 15, 8⟩
abbrev GLB_SHIP_RESULT : Fld := ⟨0x0048, 2, 0⟩
abbrev GLB_WAKESTAT : Nat := 0x004C
abbrev GLB_WAKESTAT_MERGED : Fld := ⟨0x004C, 15, 8⟩
abbrev GLB_WAKESTAT_EVCNT : Fld := ⟨0x004C, 7, 1⟩
abbrev GLB_WAKESTAT_STUCK : Fld := ⟨0x004C, 0, 0⟩
abbrev GLB_FUSE0 : Nat := 0x0050
abbrev GLB_FUSE0_WDGST : Fld := ⟨0x0050, 31, 31⟩
abbrev GLB_FUSE0_FHOLD : Fld := ⟨0x0050, 30, 24⟩
abbrev GLB_FUSE0_VHBCEIL : Fld := ⟨0x0050, 23, 17⟩
abbrev GLB_FUSE0_IPKCEIL : Fld := ⟨0x0050, 16, 10⟩
abbrev GLB_FUSE0_VPKCEIL : Fld := ⟨0x0050, 9, 0⟩
abbrev GLB_FUSE1 : Nat := 0x0054
abbrev GLB_FUSE1_OFS : Fld := ⟨0x0054, 28, 26⟩
abbrev GLB_FUSE1_ERRMODE : Fld := ⟨0x0054, 25, 24⟩
abbrev GLB_FUSE1_LEADEL : Fld := ⟨0x0054, 23, 23⟩
abbrev GLB_FUSE1_SHARE : Fld := ⟨0x0054, 22, 15⟩
abbrev GLB_FUSE1_SRCPRIO : Fld := ⟨0x0054, 14, 7⟩
abbrev GLB_FUSE1_FILIM : Fld := ⟨0x0054, 6, 0⟩
abbrev GLB_FUSESTAT : Nat := 0x0058
abbrev GLB_FUSESTAT_ERR : Fld := ⟨0x0058, 26, 16⟩
abbrev GLB_FUSESTAT_PROG : Fld := ⟨0x0058, 10, 0⟩
abbrev GLB_PSSTAT : Nat := 0x0080
abbrev GLB_PSSTAT_CHKFAIL : Fld := ⟨0x0080, 23, 20⟩
abbrev GLB_PSSTAT_CMTEVT : Fld := ⟨0x0080, 19, 19⟩
abbrev GLB_PSSTAT_RBEVT : Fld := ⟨0x0080, 18, 18⟩
abbrev GLB_PSSTAT_SWEVT : Fld := ⟨0x0080, 17, 17⟩
abbrev GLB_PSSTAT_TRIAL : Fld := ⟨0x0080, 15, 15⟩
abbrev GLB_PSSTAT_PEND : Fld := ⟨0x0080, 14, 14⟩
abbrev GLB_PSSTAT_FAIL : Fld := ⟨0x0080, 13, 12⟩
abbrev GLB_PSSTAT_VALID : Fld := ⟨0x0080, 11, 10⟩
abbrev GLB_PSSTAT_WBUSY : Fld := ⟨0x0080, 9, 9⟩
abbrev GLB_PSSTAT_ACTIVE : Fld := ⟨0x0080, 8, 8⟩
abbrev GLB_PSSTAT_ARMRES : Fld := ⟨0x0080, 2, 0⟩
abbrev GLB_PSARM : Nat := 0x0084
abbrev GLB_PSARM_CMD : Fld := ⟨0x0084, 7, 0⟩
abbrev GLB_PSECC : Nat := 0x0088
abbrev GLB_PSECC_LBANK : Fld := ⟨0x0088, 31, 31⟩
abbrev GLB_PSECC_LMARK : Fld := ⟨0x0088, 30, 30⟩
abbrev GLB_PSECC_LINE : Fld := ⟨0x0088, 25, 16⟩
abbrev GLB_PSECC_UNCOR : Fld := ⟨0x0088, 15, 8⟩
abbrev GLB_PSECC_CORR : Fld := ⟨0x0088, 7, 0⟩
abbrev GLB_PSSCRUB : Nat := 0x008C
abbrev GLB_PSSCRUB_PASSES : Fld := ⟨0x008C, 31, 16⟩
abbrev GLB_PSSCRUB_MARK : Fld := ⟨0x008C, 11, 11⟩
abbrev GLB_PSSCRUB_BANK : Fld := ⟨0x008C, 10, 10⟩
abbrev GLB_PSSCRUB_LINE : Fld := ⟨0x008C, 9, 0⟩
abbrev GLB_PSIVER : Nat := 0x0090
abbrev GLB_PSIVER_IVER : Fld := ⟨0x0090, 31, 0⟩
/-! ## PWR (R177) -/

abbrev PWR_CTL : Nat := 0x0400
abbrev PWR_CTL_HBR : Fld := ⟨0x0400, 15, 12⟩
abbrev PWR_CTL_SSR : Fld := ⟨0x0400, 11, 8⟩
abbrev PWR_CTL_LLM : Fld := ⟨0x0400, 1, 1⟩
abbrev PWR_CTL_EN : Fld := ⟨0x0400, 0, 0⟩
abbrev PWR_STAT : Nat := 0x0404
abbrev PWR_STAT_NACT : Fld := ⟨0x0404, 29, 27⟩
abbrev PWR_STAT_NAV : Fld := ⟨0x0404, 26, 24⟩
abbrev PWR_STAT_GOV : Fld := ⟨0x0404, 23, 21⟩
abbrev PWR_STAT_LEG : Fld := ⟨0x0404, 20, 19⟩
abbrev PWR_STAT_DIR : Fld := ⟨0x0404, 18, 17⟩
abbrev PWR_STAT_CARRIER : Fld := ⟨0x0404, 16, 16⟩
abbrev PWR_STAT_HOHOLD : Fld := ⟨0x0404, 15, 15⟩
abbrev PWR_STAT_RESTAG : Fld := ⟨0x0404, 14, 14⟩
abbrev PWR_STAT_LL : Fld := ⟨0x0404, 13, 13⟩
abbrev PWR_STAT_BKOSC : Fld := ⟨0x0404, 12, 12⟩
abbrev PWR_STAT_CAPGOV : Fld := ⟨0x0404, 11, 11⟩
abbrev PWR_STAT_SSGOV : Fld := ⟨0x0404, 10, 10⟩
abbrev PWR_STAT_SHGOV : Fld := ⟨0x0404, 9, 9⟩
abbrev PWR_STAT_CLP : Fld := ⟨0x0404, 7, 0⟩
abbrev PWR_FSW : Nat := 0x0408
abbrev PWR_FSW_M : Fld := ⟨0x0408, 3, 0⟩
abbrev PWR_DT : Nat := 0x040C
abbrev PWR_DT_DTB : Fld := ⟨0x040C, 15, 8⟩
abbrev PWR_DT_DTA : Fld := ⟨0x040C, 7, 0⟩
abbrev PWR_BRD : Nat := 0x0410
abbrev PWR_BRD_LPH : Fld := ⟨0x0410, 15, 6⟩
abbrev PWR_BRD_RPH : Fld := ⟨0x0410, 5, 0⟩
abbrev PWR_PHEN : Nat := 0x0414
abbrev PWR_PHEN_EN : Fld := ⟨0x0414, 5, 0⟩
abbrev PWR_PHTH : Nat := 0x0418
abbrev PWR_PHTH_NMIN : Fld := ⟨0x0418, 26, 24⟩
abbrev PWR_PHTH_SHDLY : Fld := ⟨0x0418, 23, 16⟩
abbrev PWR_PHTH_SHED : Fld := ⟨0x0418, 15, 8⟩
abbrev PWR_PHTH_ADD : Fld := ⟨0x0418, 7, 0⟩
abbrev PWR_IPK : Nat := 0x041C
abbrev PWR_IPK_IPK : Fld := ⟨0x041C, 6, 0⟩
abbrev PWR_GOFS : Nat := 0x0420
abbrev PWR_GOFS_OFS : Fld := ⟨0x0420, 13, 0⟩
abbrev PWR_IINLIM : Nat := 0x0424
abbrev PWR_IINLIM_VAL : Fld := ⟨0x0424, 12, 0⟩
abbrev PWR_VINMIN : Nat := 0x0428
abbrev PWR_VINMIN_VAL : Fld := ⟨0x0428, 12, 0⟩
abbrev PWR_VHOLD : Nat := 0x042C
abbrev PWR_VHOLD_VAL : Fld := ⟨0x042C, 12, 0⟩
abbrev PWR_IDSLIM : Nat := 0x0430
abbrev PWR_IDSLIM_VAL : Fld := ⟨0x0430, 12, 0⟩
abbrev PWR_THDR : Nat := 0x0434
abbrev PWR_THDR_VAL : Fld := ⟨0x0434, 12, 0⟩
abbrev PWR_LIMIT : Nat := 0x0438
abbrev PWR_LIMIT_ICAP : Fld := ⟨0x0438, 28, 16⟩
abbrev PWR_LIMIT_PMAX : Fld := ⟨0x0438, 11, 0⟩
abbrev PWR_LOCK : Nat := 0x043C
abbrev PWR_LOCK_LOCK : Fld := ⟨0x043C, 0, 0⟩
abbrev PWR_KCC : Nat := 0x0440
abbrev PWR_KCC_KPE : Fld := ⟨0x0440, 15, 12⟩
abbrev PWR_KCC_KPM : Fld := ⟨0x0440, 11, 8⟩
abbrev PWR_KCC_KIE : Fld := ⟨0x0440, 7, 4⟩
abbrev PWR_KCC_KIM : Fld := ⟨0x0440, 3, 0⟩
abbrev PWR_KCV : Nat := 0x0444
abbrev PWR_KCV_KPE : Fld := ⟨0x0444, 15, 12⟩
abbrev PWR_KCV_KPM : Fld := ⟨0x0444, 11, 8⟩
abbrev PWR_KCV_KIE : Fld := ⟨0x0444, 7, 4⟩
abbrev PWR_KCV_KIM : Fld := ⟨0x0444, 3, 0⟩
abbrev PWR_KIDS : Nat := 0x0448
abbrev PWR_KIDS_KPE : Fld := ⟨0x0448, 15, 12⟩
abbrev PWR_KIDS_KPM : Fld := ⟨0x0448, 11, 8⟩
abbrev PWR_KIDS_KIE : Fld := ⟨0x0448, 7, 4⟩
abbrev PWR_KIDS_KIM : Fld := ⟨0x0448, 3, 0⟩
abbrev PWR_KIIN : Nat := 0x044C
abbrev PWR_KIIN_KPE : Fld := ⟨0x044C, 15, 12⟩
abbrev PWR_KIIN_KPM : Fld := ⟨0x044C, 11, 8⟩
abbrev PWR_KIIN_KIE : Fld := ⟨0x044C, 7, 4⟩
abbrev PWR_KIIN_KIM : Fld := ⟨0x044C, 3, 0⟩
abbrev PWR_KVMIN : Nat := 0x0450
abbrev PWR_KVMIN_KPE : Fld := ⟨0x0450, 15, 12⟩
abbrev PWR_KVMIN_KPM : Fld := ⟨0x0450, 11, 8⟩
abbrev PWR_KVMIN_KIE : Fld := ⟨0x0450, 7, 4⟩
abbrev PWR_KVMIN_KIM : Fld := ⟨0x0450, 3, 0⟩
abbrev PWR_KHOLD : Nat := 0x0454
abbrev PWR_KHOLD_KPE : Fld := ⟨0x0454, 15, 12⟩
abbrev PWR_KHOLD_KPM : Fld := ⟨0x0454, 11, 8⟩
abbrev PWR_KHOLD_KIE : Fld := ⟨0x0454, 7, 4⟩
abbrev PWR_KHOLD_KIM : Fld := ⟨0x0454, 3, 0⟩
abbrev PWR_SNS : Nat := 0x0458
abbrev PWR_SNS_RPK : Fld := ⟨0x0458, 15, 8⟩
abbrev PWR_SNS_RHB : Fld := ⟨0x0458, 7, 0⟩
abbrev PWR_PHSTAT : Nat := 0x0460
abbrev PWR_PHSTAT_FENCED (k : Nat) : Fld := ⟨PWR_PHSTAT, 5 * k + 4, 5 * k + 4⟩
abbrev PWR_PHSTAT_DRV (k : Nat) : Fld := ⟨PWR_PHSTAT, 5 * k + 3, 5 * k + 3⟩
abbrev PWR_PHSTAT_OC (k : Nat) : Fld := ⟨PWR_PHSTAT, 5 * k + 2, 5 * k + 2⟩
abbrev PWR_PHSTAT_EMU (k : Nat) : Fld := ⟨PWR_PHSTAT, 5 * k + 1, 5 * k + 1⟩
abbrev PWR_PHSTAT_IMB (k : Nat) : Fld := ⟨PWR_PHSTAT, 5 * k + 0, 5 * k + 0⟩
abbrev PWR_PLCNT : Nat := 0x0464
abbrev PWR_PLCNT_COUNT : Fld := ⟨0x0464, 31, 0⟩
abbrev PWR_PHAVG (k : Nat) : Nat := 0x0470 + 4 * k
abbrev PWR_PHAVG_AVG (k : Nat) : Fld := ⟨PWR_PHAVG k, 15, 0⟩
/-! ## HUB (R219) -/

abbrev HUB_CTL : Nat := 0x0800
abbrev HUB_CTL_PEN : Fld := ⟨0x0800, 11, 8⟩
abbrev HUB_CTL_S2KIND : Fld := ⟨0x0800, 5, 5⟩
abbrev HUB_CTL_PKRSV : Fld := ⟨0x0800, 4, 4⟩
abbrev HUB_CTL_SEL : Fld := ⟨0x0800, 2, 0⟩
abbrev HUB_STAT : Nat := 0x0804
abbrev HUB_STAT_CLP : Fld := ⟨0x0804, 23, 23⟩
abbrev HUB_STAT_UVEVT : Fld := ⟨0x0804, 22, 22⟩
abbrev HUB_STAT_OVEVT : Fld := ⟨0x0804, 21, 21⟩
abbrev HUB_STAT_RSVLOST : Fld := ⟨0x0804, 20, 20⟩
abbrev HUB_STAT_DIRECT : Fld := ⟨0x0804, 19, 19⟩
abbrev HUB_STAT_SAGEVT : Fld := ⟨0x0804, 18, 18⟩
abbrev HUB_STAT_HBEVT : Fld := ⟨0x0804, 17, 17⟩
abbrev HUB_STAT_HOEVT : Fld := ⟨0x0804, 16, 16⟩
abbrev HUB_STAT_UNFED : Fld := ⟨0x0804, 7, 7⟩
abbrev HUB_STAT_RSV : Fld := ⟨0x0804, 6, 6⟩
abbrev HUB_STAT_HB : Fld := ⟨0x0804, 5, 5⟩
abbrev HUB_STAT_HO : Fld := ⟨0x0804, 4, 4⟩
abbrev HUB_STAT_PACKC : Fld := ⟨0x0804, 3, 3⟩
abbrev HUB_STAT_CPORT : Fld := ⟨0x0804, 2, 0⟩
abbrev HUB_PRIO : Nat := 0x0808
abbrev HUB_PRIO_P0 : Fld := ⟨0x0808, 7, 6⟩
abbrev HUB_PRIO_P1 : Fld := ⟨0x0808, 5, 4⟩
abbrev HUB_PRIO_P2 : Fld := ⟨0x0808, 3, 2⟩
abbrev HUB_PRIO_P3 : Fld := ⟨0x0808, 1, 0⟩
abbrev HUB_QUAL : Nat := 0x080C
abbrev HUB_QUAL_QUAL : Fld := ⟨0x080C, 7, 0⟩
abbrev HUB_FLAPCFG : Nat := 0x0810
abbrev HUB_FLAPCFG_FLOCK : Fld := ⟨0x0810, 19, 12⟩
abbrev HUB_FLAPCFG_FWIN : Fld := ⟨0x0810, 11, 4⟩
abbrev HUB_FLAPCFG_FCOUNT : Fld := ⟨0x0810, 3, 0⟩
abbrev HUB_DETCFG : Nat := 0x0814
abbrev HUB_DETCFG_RCTH : Fld := ⟨0x0814, 28, 24⟩
abbrev HUB_DETCFG_FALL : Fld := ⟨0x0814, 13, 8⟩
abbrev HUB_DETCFG_SAG : Fld := ⟨0x0814, 5, 0⟩
abbrev HUB_HBCFG : Nat := 0x0818
abbrev HUB_HBCFG_DDIDT : Fld := ⟨0x0818, 15, 12⟩
abbrev HUB_HBCFG_DIDT : Fld := ⟨0x0818, 11, 8⟩
abbrev HUB_HBCFG_SLEW : Fld := ⟨0x0818, 7, 0⟩
abbrev HUB_PKFLOOR : Nat := 0x081C
abbrev HUB_PKFLOOR_FLOOR : Fld := ⟨0x081C, 13, 0⟩
abbrev HUB_WIN (k : Nat) : Nat := 0x0820 + 4 * k
abbrev HUB_WIN_VMAX (k : Nat) : Fld := ⟨HUB_WIN k, 28, 16⟩
abbrev HUB_WIN_VMIN (k : Nat) : Fld := ⟨HUB_WIN k, 12, 0⟩
abbrev HUB_PLIM (k : Nat) : Nat := 0x0830 + 4 * k
abbrev HUB_PLIM_RDS (k : Nat) : Fld := ⟨HUB_PLIM k, 31, 24⟩
abbrev HUB_PLIM_LIM (k : Nat) : Fld := ⟨HUB_PLIM k, 12, 0⟩
abbrev HUB_PSTAT (k : Nat) : Nat := 0x0840 + 4 * k
abbrev HUB_PSTAT_REFUSE (k : Nat) : Fld := ⟨HUB_PSTAT k, 21, 21⟩
abbrev HUB_PSTAT_BACKF (k : Nat) : Fld := ⟨HUB_PSTAT k, 20, 20⟩
abbrev HUB_PSTAT_OCP (k : Nat) : Fld := ⟨HUB_PSTAT k, 19, 19⟩
abbrev HUB_PSTAT_CLP (k : Nat) : Fld := ⟨HUB_PSTAT k, 18, 18⟩
abbrev HUB_PSTAT_FLAP (k : Nat) : Fld := ⟨HUB_PSTAT k, 17, 17⟩
abbrev HUB_PSTAT_LOSS (k : Nat) : Fld := ⟨HUB_PSTAT k, 16, 16⟩
abbrev HUB_PSTAT_LCNT (k : Nat) : Fld := ⟨HUB_PSTAT k, 11, 8⟩
abbrev HUB_PSTAT_TYPE (k : Nat) : Fld := ⟨HUB_PSTAT k, 7, 4⟩
abbrev HUB_PSTAT_INWIN (k : Nat) : Fld := ⟨HUB_PSTAT k, 3, 3⟩
abbrev HUB_PSTAT_STATE (k : Nat) : Fld := ⟨HUB_PSTAT k, 2, 0⟩
abbrev HUB_PMEAS (k : Nat) : Nat := 0x0850 + 4 * k
abbrev HUB_PMEAS_I (k : Nat) : Fld := ⟨HUB_PMEAS k, 31, 16⟩
abbrev HUB_PMEAS_V (k : Nat) : Fld := ⟨HUB_PMEAS k, 15, 0⟩
abbrev HUB_ILIVE : Nat := 0x0860
abbrev HUB_ILIVE_GOV : Fld := ⟨0x0860, 15, 13⟩
abbrev HUB_ILIVE_VAL : Fld := ⟨0x0860, 12, 0⟩
abbrev HUB_ISRC : Nat := 0x0864
abbrev HUB_ISRC_VAL : Fld := ⟨0x0864, 15, 0⟩
abbrev HUB_HBAVG : Nat := 0x0868
abbrev HUB_HBAVG_VAL : Fld := ⟨0x0868, 15, 0⟩
abbrev HUB_VREF : Nat := 0x086C
abbrev HUB_VREF_VAL : Fld := ⟨0x086C, 15, 0⟩
abbrev HUB_S1OUT : Nat := 0x0870
abbrev HUB_S1OUT_EN : Fld := ⟨0x0870, 15, 15⟩
abbrev HUB_S1OUT_ILIM : Fld := ⟨0x0870, 7, 0⟩
abbrev HUB_SID : Nat := 0x0874
abbrev HUB_SID_MERGED : Fld := ⟨0x0874, 15, 8⟩
abbrev HUB_SID_STUCK : Fld := ⟨0x0874, 6, 6⟩
abbrev HUB_SID_DERATE : Fld := ⟨0x0874, 5, 5⟩
abbrev HUB_SID_CHG : Fld := ⟨0x0874, 4, 4⟩
abbrev HUB_SID_BIN : Fld := ⟨0x0874, 3, 0⟩
abbrev HUB_HOCNT : Nat := 0x0878
abbrev HUB_HOCNT_HB : Fld := ⟨0x0878, 31, 16⟩
abbrev HUB_HOCNT_HO : Fld := ⟨0x0878, 15, 0⟩
abbrev HUB_SAGCNT : Nat := 0x087C
abbrev HUB_SAGCNT_COUNT : Fld := ⟨0x087C, 15, 0⟩
abbrev HUB_PSRC : Nat := 0x0880
abbrev HUB_PSRC_VAL : Fld := ⟨0x0880, 15, 0⟩
/-! ## CHG (R282) -/

abbrev CHG_CTL : Nat := 0x0C00
abbrev CHG_CTL_DGEN : Fld := ⟨0x0C00, 0, 0⟩
abbrev CHG_SREQ : Nat := 0x0C04
abbrev CHG_SREQ_REQ : Fld := ⟨0x0C04, 3, 0⟩
abbrev CHG_STATE : Nat := 0x0C08
abbrev CHG_STATE_PREV : Fld := ⟨0x0C08, 11, 8⟩
abbrev CHG_STATE_RESUME : Fld := ⟨0x0C08, 7, 4⟩
abbrev CHG_STATE_STATE : Fld := ⟨0x0C08, 3, 0⟩
abbrev CHG_STAT : Nat := 0x0C0C
abbrev CHG_STAT_SREF : Fld := ⟨0x0C0C, 23, 23⟩
abbrev CHG_STAT_CLPI : Fld := ⟨0x0C0C, 22, 22⟩
abbrev CHG_STAT_CLPV : Fld := ⟨0x0C0C, 21, 21⟩
abbrev CHG_STAT_LATFAIL : Fld := ⟨0x0C0C, 20, 20⟩
abbrev CHG_STAT_LOSTEVT : Fld := ⟨0x0C0C, 19, 19⟩
abbrev CHG_STAT_TMREXP : Fld := ⟨0x0C0C, 18, 18⟩
abbrev CHG_STAT_LATERR : Fld := ⟨0x0C0C, 15, 13⟩
abbrev CHG_STAT_LOSTBY : Fld := ⟨0x0C0C, 12, 11⟩
abbrev CHG_STAT_HALF : Fld := ⟨0x0C0C, 10, 10⟩
abbrev CHG_STAT_RECHG : Fld := ⟨0x0C0C, 9, 9⟩
abbrev CHG_STAT_TSTALE : Fld := ⟨0x0C0C, 8, 8⟩
abbrev CHG_STAT_BAND : Fld := ⟨0x0C0C, 7, 5⟩
abbrev CHG_STAT_PRES : Fld := ⟨0x0C0C, 4, 4⟩
abbrev CHG_STAT_DGCL : Fld := ⟨0x0C0C, 3, 3⟩
abbrev CHG_STAT_DVALID : Fld := ⟨0x0C0C, 2, 2⟩
abbrev CHG_STAT_RED : Fld := ⟨0x0C0C, 1, 1⟩
abbrev CHG_ISET : Nat := 0x0C10
abbrev CHG_ISET_VAL : Fld := ⟨0x0C10, 15, 0⟩
abbrev CHG_VSET : Nat := 0x0C14
abbrev CHG_VSET_VAL : Fld := ⟨0x0C14, 16, 0⟩
abbrev CHG_ILIVE : Nat := 0x0C18
abbrev CHG_ILIVE_VAL : Fld := ⟨0x0C18, 15, 0⟩
abbrev CHG_VLIVE : Nat := 0x0C1C
abbrev CHG_VLIVE_VAL : Fld := ⟨0x0C1C, 16, 0⟩
abbrev CHG_CMD : Nat := 0x0C20
abbrev CHG_CMD_CMD : Fld := ⟨0x0C20, 7, 0⟩
abbrev CHG_FCAUSE : Nat := 0x0C24
abbrev CHG_FCAUSE_CAUSE : Fld := ⟨0x0C24, 3, 0⟩
abbrev CHG_PKTEMP : Nat := 0x0C28
abbrev CHG_PKTEMP_TEMP : Fld := ⟨0x0C28, 15, 0⟩
abbrev CHG_SFAVG : Nat := 0x0C2C
abbrev CHG_SFAVG_IPROG : Fld := ⟨0x0C2C, 31, 16⟩
abbrev CHG_SFAVG_IDEL : Fld := ⟨0x0C2C, 15, 0⟩
abbrev CHG_DLAT (i : Nat) : Nat := 0x0C30 + 4 * i
abbrev CHG_DLAT0_MODEL : Fld := ⟨0x0C30, 31, 31⟩
abbrev CHG_DLAT0_TSRC : Fld := ⟨0x0C30, 30, 30⟩
abbrev CHG_DLAT0_GEN : Fld := ⟨0x0C30, 29, 28⟩
abbrev CHG_DLAT0_PRES : Fld := ⟨0x0C30, 27, 26⟩
abbrev CHG_DLAT0_CLASS : Fld := ⟨0x0C30, 23, 16⟩
abbrev CHG_DLAT0_PAR : Fld := ⟨0x0C30, 15, 8⟩
abbrev CHG_DLAT0_SER : Fld := ⟨0x0C30, 4, 0⟩
abbrev CHG_DLAT1_VAL : Fld := ⟨0x0C34, 16, 0⟩
abbrev CHG_DLAT2_IDSMAX : Fld := ⟨0x0C38, 31, 16⟩
abbrev CHG_DLAT2_ICHMAX : Fld := ⟨0x0C38, 15, 0⟩
abbrev CHG_DLAT3_T4 : Fld := ⟨0x0C3C, 31, 24⟩
abbrev CHG_DLAT3_T3 : Fld := ⟨0x0C3C, 23, 16⟩
abbrev CHG_DLAT3_T2 : Fld := ⟨0x0C3C, 15, 8⟩
abbrev CHG_DLAT3_T1 : Fld := ⟨0x0C3C, 7, 0⟩
abbrev CHG_DLAT4_IPRE : Fld := ⟨0x0C40, 31, 16⟩
abbrev CHG_DLAT4_CAP : Fld := ⟨0x0C40, 15, 0⟩
abbrev CHG_DLAT5_VAL : Fld := ⟨0x0C44, 16, 0⟩
abbrev CHG_TMRCFG : Nat := 0x0C48
abbrev CHG_TMRCFG_TOP : Fld := ⟨0x0C48, 29, 20⟩
abbrev CHG_TMRCFG_FAST : Fld := ⟨0x0C48, 19, 10⟩
abbrev CHG_TMRCFG_PRE : Fld := ⟨0x0C48, 9, 0⟩
abbrev CHG_TPRE : Nat := 0x0C4C
abbrev CHG_TPRE_COUNT : Fld := ⟨0x0C4C, 31, 0⟩
abbrev CHG_TFAST : Nat := 0x0C50
abbrev CHG_TFAST_COUNT : Fld := ⟨0x0C50, 31, 0⟩
abbrev CHG_TTOP : Nat := 0x0C54
abbrev CHG_TTOP_COUNT : Fld := ⟨0x0C54, 31, 0⟩
abbrev CHG_REC : Nat := 0x0C58
abbrev CHG_REC_ATT : Fld := ⟨0x0C58, 15, 12⟩
abbrev CHG_REC_ILIM : Fld := ⟨0x0C58, 8, 0⟩
abbrev CHG_CYCCFG : Nat := 0x0C5C
abbrev CHG_CYCCFG_RDELTA : Fld := ⟨0x0C5C, 15, 8⟩
abbrev CHG_CYCCFG_ITOP : Fld := ⟨0x0C5C, 7, 0⟩
abbrev CHG_LAMP : Nat := 0x0C60
abbrev CHG_LAMP_S1MODE : Fld := ⟨0x0C60, 15, 14⟩
abbrev CHG_LAMP_S1PAT : Fld := ⟨0x0C60, 13, 11⟩
abbrev CHG_LAMP_S1N : Fld := ⟨0x0C60, 10, 8⟩
abbrev CHG_LAMP_S0MODE : Fld := ⟨0x0C60, 7, 6⟩
abbrev CHG_LAMP_S0PAT : Fld := ⟨0x0C60, 5, 3⟩
abbrev CHG_LAMP_S0N : Fld := ⟨0x0C60, 2, 0⟩
abbrev CHG_LOCK : Nat := 0x0C64
abbrev CHG_LOCK_LOCK : Fld := ⟨0x0C64, 0, 0⟩
/-! ## PKP (R340) -/

abbrev PKP_OWN : Nat := 0x0D00
abbrev PKP_OWN_PKC : Fld := ⟨0x0D00, 3, 2⟩
abbrev PKP_OWN_PKD : Fld := ⟨0x0D00, 1, 0⟩
abbrev PKP_STAT : Nat := 0x0D04
abbrev PKP_STAT_MERGED : Fld := ⟨0x0D04, 31, 24⟩
abbrev PKP_STAT_OWNREF : Fld := ⟨0x0D04, 20, 20⟩
abbrev PKP_STAT_BINCHG : Fld := ⟨0x0D04, 19, 19⟩
abbrev PKP_STAT_STUCKEVT : Fld := ⟨0x0D04, 18, 18⟩
abbrev PKP_STAT_BIN : Fld := ⟨0x0D04, 15, 12⟩
abbrev PKP_STAT_STUCKI : Fld := ⟨0x0D04, 11, 11⟩
abbrev PKP_STAT_STUCKT : Fld := ⟨0x0D04, 10, 10⟩
abbrev PKP_STAT_PRESI : Fld := ⟨0x0D04, 9, 9⟩
abbrev PKP_STAT_PREST : Fld := ⟨0x0D04, 8, 8⟩
abbrev PKP_STAT_IBAND : Fld := ⟨0x0D04, 5, 4⟩
abbrev PKP_STAT_TBAND : Fld := ⟨0x0D04, 1, 0⟩
abbrev PKP_PKT : Nat := 0x0D08
abbrev PKP_PKT_VAL : Fld := ⟨0x0D08, 15, 0⟩
abbrev PKP_PKI : Nat := 0x0D0C
abbrev PKP_PKI_VAL : Fld := ⟨0x0D0C, 15, 0⟩
abbrev PKP_RTEMP : Nat := 0x0D10
abbrev PKP_RTEMP_TEMP : Fld := ⟨0x0D10, 15, 0⟩
abbrev PKP_SEQCTL (e : Nat) : Nat := 0x0D20 + 0x20 * e
abbrev PKP_SEQCTL_FLUSH (e : Nat) : Fld := ⟨PKP_SEQCTL e, 1, 1⟩
abbrev PKP_SEQCTL_EN (e : Nat) : Fld := ⟨PKP_SEQCTL e, 0, 0⟩
abbrev PKP_SEQTX (e : Nat) : Nat := 0x0D24 + 0x20 * e
abbrev PKP_SEQTX_CELL (e : Nat) : Fld := ⟨PKP_SEQTX e, 31, 0⟩
abbrev PKP_SEQRX (e : Nat) : Nat := 0x0D28 + 0x20 * e
abbrev PKP_SEQRX_RESULT (e : Nat) : Fld := ⟨PKP_SEQRX e, 31, 0⟩
abbrev PKP_SEQSTAT (e : Nat) : Nat := 0x0D2C + 0x20 * e
abbrev PKP_SEQSTAT_NOWN (e : Nat) : Fld := ⟨PKP_SEQSTAT e, 26, 26⟩
abbrev PKP_SEQSTAT_BADOP (e : Nat) : Fld := ⟨PKP_SEQSTAT e, 25, 25⟩
abbrev PKP_SEQSTAT_ABRT (e : Nat) : Fld := ⟨PKP_SEQSTAT e, 24, 24⟩
abbrev PKP_SEQSTAT_RXOVF (e : Nat) : Fld := ⟨PKP_SEQSTAT e, 23, 23⟩
abbrev PKP_SEQSTAT_TXOVF (e : Nat) : Fld := ⟨PKP_SEQSTAT e, 22, 22⟩
abbrev PKP_SEQSTAT_RXCNT (e : Nat) : Fld := ⟨PKP_SEQSTAT e, 12, 8⟩
abbrev PKP_SEQSTAT_RUN (e : Nat) : Fld := ⟨PKP_SEQSTAT e, 7, 7⟩
abbrev PKP_SEQSTAT_TXCNT (e : Nat) : Fld := ⟨PKP_SEQSTAT e, 5, 0⟩
/-! ## ADC (R311) -/

abbrev ADC_VPK : Nat := 0x1000
abbrev ADC_VPK_VAL : Fld := ⟨0x1000, 23, 0⟩
abbrev ADC_IPK : Nat := 0x1004
abbrev ADC_IPK_VAL : Fld := ⟨0x1004, 23, 0⟩
abbrev ADC_AVGFRM : Nat := 0x1008
abbrev ADC_AVGFRM_FRM : Fld := ⟨0x1008, 31, 0⟩
abbrev ADC_STAT : Nat := 0x100C
abbrev ADC_STAT_IOVREV : Fld := ⟨0x100C, 3, 3⟩
abbrev ADC_STAT_VOVREV : Fld := ⟨0x100C, 2, 2⟩
abbrev ADC_STAT_IOVR : Fld := ⟨0x100C, 1, 1⟩
abbrev ADC_STAT_VOVR : Fld := ⟨0x100C, 0, 0⟩
/-! ## IMP (R311) -/

abbrev IMP_CTL : Nat := 0x1100
abbrev IMP_CTL_CANCEL : Fld := ⟨0x1100, 1, 1⟩
abbrev IMP_CTL_EN : Fld := ⟨0x1100, 0, 0⟩
abbrev IMP_STAT : Nat := 0x1104
abbrev IMP_STAT_OUTCOME : Fld := ⟨0x1104, 31, 24⟩
abbrev IMP_STAT_RNGEVT : Fld := ⟨0x1104, 18, 18⟩
abbrev IMP_STAT_ABEVT : Fld := ⟨0x1104, 17, 17⟩
abbrev IMP_STAT_DONEEVT : Fld := ⟨0x1104, 16, 16⟩
abbrev IMP_STAT_GRPPT : Fld := ⟨0x1104, 11, 8⟩
abbrev IMP_STAT_RETRY : Fld := ⟨0x1104, 4, 4⟩
abbrev IMP_STAT_HOLD : Fld := ⟨0x1104, 3, 3⟩
abbrev IMP_STAT_INTEG : Fld := ⟨0x1104, 2, 2⟩
abbrev IMP_STAT_LEADIN : Fld := ⟨0x1104, 1, 1⟩
abbrev IMP_STAT_BUSY : Fld := ⟨0x1104, 0, 0⟩
abbrev IMP_JADDR : Nat := 0x1108
abbrev IMP_JADDR_ADDR : Fld := ⟨0x1108, 15, 0⟩
abbrev IMP_IC : Nat := 0x110C
abbrev IMP_IC_VAL : Fld := ⟨0x110C, 15, 0⟩
abbrev IMP_APK : Nat := 0x1110
abbrev IMP_APK_VAL : Fld := ⟨0x1110, 15, 0⟩
abbrev IMP_ELAP : Nat := 0x1114
abbrev IMP_ELAP_FRAMES : Fld := ⟨0x1114, 31, 0⟩
abbrev IMP_CNT : Nat := 0x1118
abbrev IMP_CNT_BADPT : Fld := ⟨0x1118, 31, 16⟩
abbrev IMP_CNT_JOBS : Fld := ⟨0x1118, 15, 0⟩
/-! ## THM (R517) -/

abbrev THM_STAT : Nat := 0x1400
abbrev THM_STAT_HARDEVT : Fld := ⟨0x1400, 27, 27⟩
abbrev THM_STAT_STOPEVT : Fld := ⟨0x1400, 26, 26⟩
abbrev THM_STAT_WARNEVT : Fld := ⟨0x1400, 25, 25⟩
abbrev THM_STAT_INVEVT : Fld := ⟨0x1400, 24, 24⟩
abbrev THM_STAT_HARD : Fld := ⟨0x1400, 19, 19⟩
abbrev THM_STAT_GSTP : Fld := ⟨0x1400, 18, 18⟩
abbrev THM_STAT_STOP : Fld := ⟨0x1400, 17, 17⟩
abbrev THM_STAT_WARN : Fld := ⟨0x1400, 16, 16⟩
abbrev THM_STAT_INV : Fld := ⟨0x1400, 11, 0⟩
abbrev THM_DIE : Nat := 0x1404
abbrev THM_DIE_TEMP : Fld := ⟨0x1404, 15, 0⟩
abbrev THM_GMAX : Nat := 0x1408
abbrev THM_GMAX_TEMP : Fld := ⟨0x1408, 15, 0⟩
abbrev THM_JTH : Nat := 0x140C
abbrev THM_JTH_HARD : Fld := ⟨0x140C, 23, 16⟩
abbrev THM_JTH_STOP : Fld := ⟨0x140C, 15, 8⟩
abbrev THM_JTH_WARN : Fld := ⟨0x140C, 7, 0⟩
abbrev THM_GCFG : Nat := 0x1410
abbrev THM_GCFG_GSTOP : Fld := ⟨0x1410, 31, 24⟩
abbrev THM_GCFG_MASK : Fld := ⟨0x1410, 11, 0⟩
abbrev THM_GRAZE : Nat := 0x1414
abbrev THM_GRAZE_TGS : Fld := ⟨0x1414, 31, 24⟩
abbrev THM_GRAZE_GSTEP : Fld := ⟨0x1414, 23, 16⟩
abbrev THM_GRAZE_GDEC : Fld := ⟨0x1414, 15, 8⟩
abbrev THM_GRAZE_GMIN : Fld := ⟨0x1414, 5, 0⟩
abbrev THM_GLVL : Nat := 0x1418
abbrev THM_GLVL_TARGET : Fld := ⟨0x1418, 29, 24⟩
abbrev THM_GLVL_STAG : Fld := ⟨0x1418, 21, 16⟩
abbrev THM_GLVL_G : Fld := ⟨0x1418, 5, 0⟩
abbrev THM_DRATE : Nat := 0x141C
abbrev THM_DRATE_START : Fld := ⟨0x141C, 15, 8⟩
abbrev THM_DRATE_SLOPE : Fld := ⟨0x141C, 7, 0⟩
abbrev THM_TRCFG (n : Nat) : Nat := 0x1420 + 4 * n
abbrev THM_TRCFG_MODE (n : Nat) : Fld := ⟨THM_TRCFG n, 31, 30⟩
abbrev THM_TRCFG_BIAS (n : Nat) : Fld := ⟨THM_TRCFG n, 29, 28⟩
abbrev THM_TRCFG_BETA (n : Nat) : Fld := ⟨THM_TRCFG n, 25, 13⟩
abbrev THM_TRCFG_R25 (n : Nat) : Fld := ⟨THM_TRCFG n, 12, 0⟩
abbrev THM_SENS (n : Nat) : Nat := 0x1440 + 4 * n
abbrev THM_SENS_TEMP (n : Nat) : Fld := ⟨THM_SENS n, 15, 0⟩
abbrev THM_LOCK : Nat := 0x1480
abbrev THM_LOCK_LOCK : Fld := ⟨0x1480, 0, 0⟩
/-! ## TMR (R566) -/

abbrev TMR_CFG (n : Nat) : Nat := 0x1600 + 0x20 * n
abbrev TMR_CFG_EN (n : Nat) : Fld := ⟨TMR_CFG n, 31, 31⟩
abbrev TMR_CFG_STAGE (n : Nat) : Fld := ⟨TMR_CFG n, 30, 30⟩
abbrev TMR_CFG_RSTF (n : Nat) : Fld := ⟨TMR_CFG n, 29, 29⟩
abbrev TMR_CFG_GATE (n : Nat) : Fld := ⟨TMR_CFG n, 28, 28⟩
abbrev TMR_CFG_GLVL (n : Nat) : Fld := ⟨TMR_CFG n, 27, 27⟩
abbrev TMR_CFG_GSRC (n : Nat) : Fld := ⟨TMR_CFG n, 26, 25⟩
abbrev TMR_CFG_CLK (n : Nat) : Fld := ⟨TMR_CFG n, 24, 23⟩
abbrev TMR_CFG_CPIN (n : Nat) : Fld := ⟨TMR_CFG n, 22, 21⟩
abbrev TMR_CFG_OE (n : Nat) : Fld := ⟨TMR_CFG n, 20, 20⟩
abbrev TMR_CFG_OPIN (n : Nat) : Fld := ⟨TMR_CFG n, 19, 18⟩
abbrev TMR_CFG_OACT (n : Nat) : Fld := ⟨TMR_CFG n, 17, 16⟩
abbrev TMR_CFG_CAPEN (n : Nat) : Fld := ⟨TMR_CFG n, 15, 15⟩
abbrev TMR_CFG_IPIN (n : Nat) : Fld := ⟨TMR_CFG n, 14, 13⟩
abbrev TMR_CFG_EDGE (n : Nat) : Fld := ⟨TMR_CFG n, 12, 11⟩
abbrev TMR_CFG_FILT (n : Nat) : Fld := ⟨TMR_CFG n, 10, 7⟩
abbrev TMR_CFG_STUCK (n : Nat) : Fld := ⟨TMR_CFG n, 6, 4⟩
abbrev TMR_CFG_ACT (n : Nat) : Fld := ⟨TMR_CFG n, 3, 3⟩
abbrev TMR_PRE (n : Nat) : Nat := 0x1604 + 0x20 * n
abbrev TMR_PRE_DIV (n : Nat) : Fld := ⟨TMR_PRE n, 23, 0⟩
abbrev TMR_PER (n : Nat) : Nat := 0x1608 + 0x20 * n
abbrev TMR_PER_VAL (n : Nat) : Fld := ⟨TMR_PER n, 31, 0⟩
abbrev TMR_CNT (n : Nat) : Nat := 0x160C + 0x20 * n
abbrev TMR_CNT_VAL (n : Nat) : Fld := ⟨TMR_CNT n, 31, 0⟩
abbrev TMR_CMP (n : Nat) : Nat := 0x1610 + 0x20 * n
abbrev TMR_CMP_VAL (n : Nat) : Fld := ⟨TMR_CMP n, 31, 0⟩
abbrev TMR_CAP (n : Nat) : Nat := 0x1614 + 0x20 * n
abbrev TMR_CAP_VAL (n : Nat) : Fld := ⟨TMR_CAP n, 31, 0⟩
abbrev TMR_CAPSTAT (n : Nat) : Nat := 0x1618 + 0x20 * n
abbrev TMR_CAPSTAT_EDGOVF (n : Nat) : Fld := ⟨TMR_CAPSTAT n, 23, 16⟩
abbrev TMR_CAPSTAT_STUCK (n : Nat) : Fld := ⟨TMR_CAPSTAT n, 15, 15⟩
abbrev TMR_CAPSTAT_SPEND (n : Nat) : Fld := ⟨TMR_CAPSTAT n, 14, 14⟩
abbrev TMR_CAPSTAT_OUTLVL (n : Nat) : Fld := ⟨TMR_CAPSTAT n, 13, 13⟩
abbrev TMR_CAPSTAT_STUCKEVT (n : Nat) : Fld := ⟨TMR_CAPSTAT n, 4, 4⟩
abbrev TMR_CAPSTAT_RLDEVT (n : Nat) : Fld := ⟨TMR_CAPSTAT n, 3, 3⟩
abbrev TMR_CAPSTAT_MATCH (n : Nat) : Fld := ⟨TMR_CAPSTAT n, 2, 2⟩
abbrev TMR_CAPSTAT_OVR (n : Nat) : Fld := ⟨TMR_CAPSTAT n, 1, 1⟩
abbrev TMR_CAPSTAT_NEW (n : Nat) : Fld := ⟨TMR_CAPSTAT n, 0, 0⟩
abbrev TMR_STAG : Nat := 0x1700
abbrev TMR_STAG_GO : Fld := ⟨0x1700, 15, 15⟩
abbrev TMR_STAG_MASK : Fld := ⟨0x1700, 7, 0⟩
abbrev TMR_STAT : Nat := 0x1704
abbrev TMR_STAT_STAGREF : Fld := ⟨0x1704, 17, 17⟩
abbrev TMR_STAT_OUTREF : Fld := ⟨0x1704, 16, 16⟩
abbrev TMR_STAT_BKOSC : Fld := ⟨0x1704, 8, 8⟩
abbrev TMR_STAT_RUN : Fld := ⟨0x1704, 7, 0⟩
abbrev TMR_TIO : Nat := 0x1708
abbrev TMR_TIO_DRV : Fld := ⟨0x1708, 7, 4⟩
abbrev TMR_TIO_LVL : Fld := ⟨0x1708, 3, 0⟩
/-! ## WDG (R516) -/

abbrev WDG_CTL : Nat := 0x1800
abbrev WDG_CTL_HWST : Fld := ⟨0x1800, 1, 1⟩
abbrev WDG_CTL_RUN : Fld := ⟨0x1800, 0, 0⟩
abbrev WDG_STAT : Nat := 0x1804
abbrev WDG_STAT_EXPEVT : Fld := ⟨0x1804, 23, 23⟩
abbrev WDG_STAT_BADEVT : Fld := ⟨0x1804, 22, 22⟩
abbrev WDG_STAT_SVCEVT : Fld := ⟨0x1804, 21, 21⟩
abbrev WDG_STAT_EXP10 : Fld := ⟨0x1804, 17, 16⟩
abbrev WDG_STAT_BADCNT : Fld := ⟨0x1804, 9, 8⟩
abbrev WDG_STAT_KEYLK : Fld := ⟨0x1804, 2, 2⟩
abbrev WDG_STAT_OPEN : Fld := ⟨0x1804, 1, 1⟩
abbrev WDG_STAT_RUN : Fld := ⟨0x1804, 0, 0⟩
abbrev WDG_KEY : Nat := 0x1808
abbrev WDG_KEY_VAL : Fld := ⟨0x1808, 31, 0⟩
abbrev WDG_PER : Nat := 0x180C
abbrev WDG_PER_PER : Fld := ⟨0x180C, 12, 0⟩
abbrev WDG_Q : Nat := 0x1810
abbrev WDG_Q_Q : Fld := ⟨0x1810, 7, 0⟩
abbrev WDG_ANS : Nat := 0x1814
abbrev WDG_ANS_VAL : Fld := ⟨0x1814, 31, 0⟩
abbrev WDG_TASK : Nat := 0x1818
abbrev WDG_TASK_EN (k : Nat) : Fld := ⟨WDG_TASK, 4 * k + 3, 4 * k + 3⟩
abbrev WDG_TASK_OWN (k : Nat) : Fld := ⟨WDG_TASK, 4 * k + 2, 4 * k⟩
abbrev WDG_CHKIN : Nat := 0x181C
abbrev WDG_CHKIN_TASK : Fld := ⟨0x181C, 2, 0⟩
abbrev WDG_CHKD : Nat := 0x1820
abbrev WDG_CHKD_MASK : Fld := ⟨0x1820, 7, 0⟩
abbrev WDG_ERR : Nat := 0x1824
abbrev WDG_ERR_LASTMISS : Fld := ⟨0x1824, 31, 24⟩
abbrev WDG_ERR_DUP : Fld := ⟨0x1824, 23, 16⟩
abbrev WDG_ERR_MISS : Fld := ⟨0x1824, 15, 8⟩
abbrev WDG_ERR_FOREIGN : Fld := ⟨0x1824, 4, 4⟩
abbrev WDG_ERR_CFGREF : Fld := ⟨0x1824, 3, 3⟩
abbrev WDG_ERR_KEYREF : Fld := ⟨0x1824, 2, 2⟩
abbrev WDG_ERR_WRONG : Fld := ⟨0x1824, 1, 1⟩
abbrev WDG_RCNT : Nat := 0x1828
abbrev WDG_RCNT_COUNT : Fld := ⟨0x1828, 7, 0⟩
abbrev WDG_LEFT : Nat := 0x182C
abbrev WDG_LEFT_CYC : Fld := ⟨0x182C, 17, 0⟩
/-! ## CRC (R567) -/

abbrev CRC_STAT : Nat := 0x1900
abbrev CRC_STAT_STOPEVT : Fld := ⟨0x1900, 17, 17⟩
abbrev CRC_STAT_DONEEVT : Fld := ⟨0x1900, 16, 16⟩
abbrev CRC_STAT_DBUSY : Fld := ⟨0x1900, 1, 1⟩
abbrev CRC_STAT_SBUSY : Fld := ⟨0x1900, 0, 0⟩
abbrev CRC_CNT : Nat := 0x1904
abbrev CRC_CNT_JOBS : Fld := ⟨0x1904, 31, 16⟩
abbrev CRC_CNT_STOPS : Fld := ⟨0x1904, 15, 0⟩
/-! ## SCAN (R567) -/

abbrev SCAN_POS : Nat := 0x1980
abbrev SCAN_POS_VAL : Fld := ⟨0x1980, 15, 0⟩
abbrev SCAN_TAG : Nat := 0x1984
abbrev SCAN_TAG_VAL : Fld := ⟨0x1984, 7, 0⟩
abbrev SCAN_LAST : Nat := 0x1988
abbrev SCAN_LAST_VAL : Fld := ⟨0x1988, 31, 0⟩
/-! ## FLT (R544) -/

abbrev FLT_CMD : Nat := 0x1A00
abbrev FLT_CMD_CMD : Fld := ⟨0x1A00, 7, 0⟩
abbrev FLT_STAT : Nat := 0x1A04
abbrev FLT_STAT_MERGED : Fld := ⟨0x1A04, 31, 24⟩
abbrev FLT_STAT_CFGREF : Fld := ⟨0x1A04, 19, 19⟩
abbrev FLT_STAT_NOTEVT : Fld := ⟨0x1A04, 18, 18⟩
abbrev FLT_STAT_SEVEVT : Fld := ⟨0x1A04, 17, 17⟩
abbrev FLT_STAT_FAWN : Fld := ⟨0x1A04, 2, 2⟩
abbrev FLT_STAT_SSTOP : Fld := ⟨0x1A04, 1, 1⟩
abbrev FLT_STAT_ERRC : Fld := ⟨0x1A04, 0, 0⟩
abbrev FLT_PEND0 : Nat := 0x1A08
abbrev FLT_PEND0_SRC : Fld := ⟨0x1A08, 31, 0⟩
abbrev FLT_PEND1 : Nat := 0x1A0C
abbrev FLT_PEND1_SRC : Fld := ⟨0x1A0C, 31, 0⟩
abbrev FLT_SEV0 : Nat := 0x1A10
abbrev FLT_SEV0_SRC : Fld := ⟨0x1A10, 31, 0⟩
abbrev FLT_SEV1 : Nat := 0x1A14
abbrev FLT_SEV1_SRC : Fld := ⟨0x1A14, 31, 0⟩
abbrev FLT_FENCE : Nat := 0x1A18
abbrev FLT_FENCE_PH : Fld := ⟨0x1A18, 14, 9⟩
abbrev FLT_FENCE_LNK : Fld := ⟨0x1A18, 8, 8⟩
abbrev FLT_FENCE_TMR : Fld := ⟨0x1A18, 7, 7⟩
abbrev FLT_FENCE_IMP : Fld := ⟨0x1A18, 6, 6⟩
abbrev FLT_FENCE_TCP : Fld := ⟨0x1A18, 5, 5⟩
abbrev FLT_FENCE_PKB : Fld := ⟨0x1A18, 4, 4⟩
abbrev FLT_FENCE_ENG : Fld := ⟨0x1A18, 3, 0⟩
abbrev FLT_FREL : Nat := 0x1A1C
abbrev FLT_FREL_PH : Fld := ⟨0x1A1C, 14, 9⟩
abbrev FLT_FREL_LNK : Fld := ⟨0x1A1C, 8, 8⟩
abbrev FLT_FREL_TMR : Fld := ⟨0x1A1C, 7, 7⟩
abbrev FLT_FREL_IMP : Fld := ⟨0x1A1C, 6, 6⟩
abbrev FLT_FREL_TCP : Fld := ⟨0x1A1C, 5, 5⟩
abbrev FLT_FREL_PKB : Fld := ⟨0x1A1C, 4, 4⟩
abbrev FLT_FREL_ENG : Fld := ⟨0x1A1C, 3, 0⟩
abbrev FLT_FAWN : Nat := 0x1A20
abbrev FLT_FAWN_SRC : Fld := ⟨0x1A20, 15, 8⟩
abbrev FLT_FAWN_CAUSE : Fld := ⟨0x1A20, 3, 0⟩
abbrev FLT_INJ : Nat := 0x1A24
abbrev FLT_INJ_ARM : Fld := ⟨0x1A24, 15, 15⟩
abbrev FLT_INJ_DONE : Fld := ⟨0x1A24, 14, 14⟩
abbrev FLT_INJ_NBIT : Fld := ⟨0x1A24, 9, 8⟩
abbrev FLT_INJ_TGT : Fld := ⟨0x1A24, 2, 0⟩
abbrev FLT_LOCK : Nat := 0x1A2C
abbrev FLT_LOCK_LOCK : Fld := ⟨0x1A2C, 0, 0⟩
abbrev FLT_SEVRT (k : Nat) : Nat := 0x1A30 + 4 * k
abbrev FLT_SEVRT_CNT (k : Nat) : Fld := ⟨FLT_SEVRT k, 31, 0⟩
/-! ## LOG (R544) -/

abbrev LOG_CTL : Nat := 0x1A50
abbrev LOG_CTL_CLR : Fld := ⟨0x1A50, 1, 1⟩
abbrev LOG_CTL_MODE : Fld := ⟨0x1A50, 0, 0⟩
abbrev LOG_STAT : Nat := 0x1A54
abbrev LOG_STAT_LOSTC : Fld := ⟨0x1A54, 31, 16⟩
abbrev LOG_STAT_FULL : Fld := ⟨0x1A54, 8, 8⟩
abbrev LOG_STAT_NEXT : Fld := ⟨0x1A54, 7, 0⟩
abbrev LOG_SEL : Nat := 0x1A58
abbrev LOG_SEL_SLOT : Fld := ⟨0x1A58, 7, 0⟩
abbrev LOG_PUT : Nat := 0x1A5C
abbrev LOG_PUT_DETAIL : Fld := ⟨0x1A5C, 31, 8⟩
abbrev LOG_PUT_CODE : Fld := ⟨0x1A5C, 7, 0⟩
abbrev LOG_WCNT : Nat := 0x1A60
abbrev LOG_WCNT_COUNT : Fld := ⟨0x1A60, 31, 0⟩
abbrev LOG_ENT (w : Nat) : Nat := 0x1A70 + 4 * w
abbrev LOG_ENT_WORD (w : Nat) : Fld := ⟨LOG_ENT w, 31, 0⟩
/-! ## FLT (R544) -/

abbrev FLT_HISTA (k : Nat) : Nat := 0x1A80 + 8 * k
abbrev FLT_HISTA_VAL (k : Nat) : Fld := ⟨FLT_HISTA k, 31, 0⟩
abbrev FLT_HISTB (k : Nat) : Nat := 0x1A84 + 8 * k
abbrev FLT_HISTB_VAL (k : Nat) : Fld := ⟨FLT_HISTB k, 31, 0⟩
abbrev FLT_CFG (s : Nat) : Nat := 0x1B00 + 4 * s
abbrev FLT_CFG_ERRM (s : Nat) : Fld := ⟨FLT_CFG s, 24, 24⟩
abbrev FLT_CFG_W (s : Nat) : Fld := ⟨FLT_CFG s, 23, 16⟩
abbrev FLT_CFG_N (s : Nat) : Fld := ⟨FLT_CFG s, 15, 8⟩
abbrev FLT_CFG_SEVR (s : Nat) : Fld := ⟨FLT_CFG s, 6, 4⟩
abbrev FLT_CFG_REACT (s : Nat) : Fld := ⟨FLT_CFG s, 2, 0⟩
/-! ## HST (R491) -/

abbrev HST_CFG : Nat := 0x1C00
abbrev HST_CFG_NRPT : Fld := ⟨0x1C00, 15, 8⟩
abbrev HST_CFG_NSPD : Fld := ⟨0x1C00, 4, 3⟩
abbrev HST_CFG_NOTEN : Fld := ⟨0x1C00, 1, 1⟩
abbrev HST_CFG_PECREQ : Fld := ⟨0x1C00, 0, 0⟩
abbrev HST_STAT : Nat := 0x1C04
abbrev HST_STAT_HANGEVT : Fld := ⟨0x1C04, 23, 23⟩
abbrev HST_STAT_TOEVT : Fld := ⟨0x1C04, 22, 22⟩
abbrev HST_STAT_REFEVT : Fld := ⟨0x1C04, 21, 21⟩
abbrev HST_STAT_NFAILEVT : Fld := ⟨0x1C04, 20, 20⟩
abbrev HST_STAT_ARBSTEVT : Fld := ⟨0x1C04, 19, 19⟩
abbrev HST_STAT_SRACKEVT : Fld := ⟨0x1C04, 18, 18⟩
abbrev HST_STAT_ARBEVT : Fld := ⟨0x1C04, 17, 17⟩
abbrev HST_STAT_PECEVT : Fld := ⟨0x1C04, 16, 16⟩
abbrev HST_STAT_NIDX : Fld := ⟨0x1C04, 13, 12⟩
abbrev HST_STAT_ARBBIT : Fld := ⟨0x1C04, 11, 9⟩
abbrev HST_STAT_BUS : Fld := ⟨0x1C04, 6, 5⟩
abbrev HST_STAT_NBUSY : Fld := ⟨0x1C04, 4, 4⟩
abbrev HST_STAT_CBUSY : Fld := ⟨0x1C04, 3, 3⟩
abbrev HST_RES : Nat := 0x1C08
abbrev HST_RES_SEQ : Fld := ⟨0x1C08, 23, 16⟩
abbrev HST_RES_CMD : Fld := ⟨0x1C08, 15, 8⟩
abbrev HST_RES_RES : Fld := ⟨0x1C08, 7, 0⟩
abbrev HST_VAL : Nat := 0x1C0C
abbrev HST_VAL_VAL : Fld := ⟨0x1C0C, 31, 0⟩
abbrev HST_NEN : Nat := 0x1C10
abbrev HST_NEN_PROG : Fld := ⟨0x1C10, 15, 8⟩
abbrev HST_NEN_CAUSE : Fld := ⟨0x1C10, 6, 0⟩
abbrev HST_NPEND : Nat := 0x1C14
abbrev HST_NPEND_PROG : Fld := ⟨0x1C14, 15, 8⟩
abbrev HST_NPEND_CAUSE : Fld := ⟨0x1C14, 6, 0⟩
abbrev HST_NSET : Nat := 0x1C18
abbrev HST_NSET_PROG : Fld := ⟨0x1C18, 15, 8⟩
abbrev HST_CNT0 : Nat := 0x1C1C
abbrev HST_CNT0_REFUSED : Fld := ⟨0x1C1C, 31, 24⟩
abbrev HST_CNT0_PEC : Fld := ⟨0x1C1C, 23, 16⟩
abbrev HST_CNT0_SRACK : Fld := ⟨0x1C1C, 15, 8⟩
abbrev HST_CNT0_TO : Fld := ⟨0x1C1C, 7, 0⟩
abbrev HST_CNT1 : Nat := 0x1C20
abbrev HST_CNT1_NFAIL : Fld := ⟨0x1C20, 31, 24⟩
abbrev HST_CNT1_NSENT : Fld := ⟨0x1C20, 23, 16⟩
abbrev HST_CNT1_ARBSTOP : Fld := ⟨0x1C20, 15, 8⟩
abbrev HST_CNT1_ARB : Fld := ⟨0x1C20, 7, 0⟩
abbrev HST_TAKEBUF (w : Nat) : Nat := 0x1C30 + 4 * w
abbrev HST_TAKEBUF_WORD (w : Nat) : Fld := ⟨HST_TAKEBUF w, 31, 0⟩
/-! ## PKB (R341) -/

abbrev PKB_CFG : Nat := 0x1D00
abbrev PKB_CFG_SPD : Fld := ⟨0x1D00, 0, 0⟩
abbrev PKB_STAT : Nat := 0x1D04
abbrev PKB_STAT_HANGEVT : Fld := ⟨0x1D04, 23, 23⟩
abbrev PKB_STAT_SRACKEVT : Fld := ⟨0x1D04, 22, 22⟩
abbrev PKB_STAT_ARBEVT : Fld := ⟨0x1D04, 21, 21⟩
abbrev PKB_STAT_PECEVT : Fld := ⟨0x1D04, 20, 20⟩
abbrev PKB_STAT_IDX : Fld := ⟨0x1D04, 15, 9⟩
abbrev PKB_STAT_ARBBIT : Fld := ⟨0x1D04, 8, 6⟩
abbrev PKB_STAT_BUS : Fld := ⟨0x1D04, 2, 1⟩
abbrev PKB_STAT_BUSY : Fld := ⟨0x1D04, 0, 0⟩
abbrev PKB_CNT : Nat := 0x1D08
abbrev PKB_CNT_HANG : Fld := ⟨0x1D08, 31, 24⟩
abbrev PKB_CNT_ARB : Fld := ⟨0x1D08, 23, 16⟩
abbrev PKB_CNT_NACK : Fld := ⟨0x1D08, 15, 8⟩
abbrev PKB_CNT_PEC : Fld := ⟨0x1D08, 7, 0⟩
/-! ## LNK (R466) -/

abbrev LNK_CTL : Nat := 0x1E00
abbrev LNK_CTL_LPRI : Fld := ⟨0x1E00, 7, 4⟩
abbrev LNK_CTL_ROLL : Fld := ⟨0x1E00, 1, 1⟩
abbrev LNK_CTL_EN : Fld := ⟨0x1E00, 0, 0⟩
abbrev LNK_STAT : Nat := 0x1E04
abbrev LNK_STAT_ORDEVT : Fld := ⟨0x1E04, 23, 23⟩
abbrev LNK_STAT_SHEDEVT : Fld := ⟨0x1E04, 22, 22⟩
abbrev LNK_STAT_ROLLEVT : Fld := ⟨0x1E04, 21, 21⟩
abbrev LNK_STAT_REFEVT : Fld := ⟨0x1E04, 20, 20⟩
abbrev LNK_STAT_CRCEVT : Fld := ⟨0x1E04, 19, 19⟩
abbrev LNK_STAT_LOSTEVT : Fld := ⟨0x1E04, 18, 18⟩
abbrev LNK_STAT_ACCT : Fld := ⟨0x1E04, 15, 15⟩
abbrev LNK_STAT_SHED : Fld := ⟨0x1E04, 14, 14⟩
abbrev LNK_STAT_BUDV : Fld := ⟨0x1E04, 13, 13⟩
abbrev LNK_STAT_STATIC : Fld := ⟨0x1E04, 12, 12⟩
abbrev LNK_STAT_DBL : Fld := ⟨0x1E04, 11, 11⟩
abbrev LNK_STAT_MEMBER : Fld := ⟨0x1E04, 10, 10⟩
abbrev LNK_STAT_LOCK : Fld := ⟨0x1E04, 9, 9⟩
abbrev LNK_STAT_BYP : Fld := ⟨0x1E04, 8, 8⟩
abbrev LNK_STAT_ROLE : Fld := ⟨0x1E04, 2, 0⟩
abbrev LNK_ADDR : Nat := 0x1E08
abbrev LNK_ADDR_ADDR : Fld := ⟨0x1E08, 11, 0⟩
abbrev LNK_UID : Nat := 0x1E0C
abbrev LNK_UID_UID : Fld := ⟨0x1E0C, 31, 0⟩
abbrev LNK_POS : Nat := 0x1E10
abbrev LNK_POS_NN : Fld := ⟨0x1E10, 24, 16⟩
abbrev LNK_POS_INDEX : Fld := ⟨0x1E10, 8, 0⟩
abbrev LNK_TIME : Nat := 0x1E14
abbrev LNK_TIME_HOPD : Fld := ⟨0x1E14, 31, 16⟩
abbrev LNK_TIME_LAT : Fld := ⟨0x1E14, 15, 8⟩
abbrev LNK_SEG : Nat := 0x1E18
abbrev LNK_SEG_SEG : Fld := ⟨0x1E18, 7, 0⟩
abbrev LNK_REQ : Nat := 0x1E1C
abbrev LNK_REQ_PRI : Fld := ⟨0x1E1C, 14, 13⟩
abbrev LNK_REQ_REQ : Fld := ⟨0x1E1C, 12, 0⟩
abbrev LNK_BUDGET : Nat := 0x1E20
abbrev LNK_BUDGET_TOTAL : Fld := ⟨0x1E20, 15, 0⟩
abbrev LNK_CMD : Nat := 0x1E24
abbrev LNK_CMD_SHED : Fld := ⟨0x1E24, 0, 0⟩
abbrev LNK_ALLOC : Nat := 0x1E28
abbrev LNK_ALLOC_SRC : Fld := ⟨0x1E28, 31, 29⟩
abbrev LNK_ALLOC_VAL : Fld := ⟨0x1E28, 12, 0⟩
abbrev LNK_LEV01 : Nat := 0x1E2C
abbrev LNK_LEV01_L1 : Fld := ⟨0x1E2C, 31, 16⟩
abbrev LNK_LEV01_L0 : Fld := ⟨0x1E2C, 15, 0⟩
abbrev LNK_LEV23 : Nat := 0x1E30
abbrev LNK_LEV23_L3 : Fld := ⟨0x1E30, 31, 16⟩
abbrev LNK_LEV23_L2 : Fld := ⟨0x1E30, 15, 0⟩
abbrev LNK_ERRCNT : Nat := 0x1E34
abbrev LNK_ERRCNT_LOST : Fld := ⟨0x1E34, 31, 24⟩
abbrev LNK_ERRCNT_REFORM : Fld := ⟨0x1E34, 23, 16⟩
abbrev LNK_ERRCNT_CRC : Fld := ⟨0x1E34, 15, 0⟩
abbrev LNK_MSGCNT : Nat := 0x1E38
abbrev LNK_MSGCNT_DROP : Fld := ⟨0x1E38, 31, 24⟩
abbrev LNK_MSGCNT_LOSTM : Fld := ⟨0x1E38, 23, 16⟩
abbrev LNK_MSGCNT_NAK : Fld := ⟨0x1E38, 15, 8⟩
abbrev LNK_MSGCNT_PRE : Fld := ⟨0x1E38, 7, 0⟩
abbrev LNK_LOCK : Nat := 0x1E3C
abbrev LNK_LOCK_LOCK : Fld := ⟨0x1E3C, 0, 0⟩
/-! ## TCP (R243) -/

abbrev TCP_CTL : Nat := 0x2000
abbrev TCP_CTL_UNFED : Fld := ⟨0x2000, 0, 0⟩
abbrev TCP_STAT : Nat := 0x2004
abbrev TCP_STAT_ERREVT : Fld := ⟨0x2004, 11, 11⟩
abbrev TCP_STAT_HRSTEVT : Fld := ⟨0x2004, 10, 10⟩
abbrev TCP_STAT_SRSTEVT : Fld := ⟨0x2004, 9, 9⟩
abbrev TCP_STAT_BUSY : Fld := ⟨0x2004, 8, 8⟩
abbrev TCP_STAT_EPR : Fld := ⟨0x2004, 7, 7⟩
abbrev TCP_STAT_PSTRANS : Fld := ⟨0x2004, 6, 6⟩
abbrev TCP_STAT_CONTRACT : Fld := ⟨0x2004, 5, 5⟩
abbrev TCP_STAT_RPLVL : Fld := ⟨0x2004, 4, 3⟩
abbrev TCP_STAT_POL : Fld := ⟨0x2004, 2, 2⟩
abbrev TCP_STAT_ATT : Fld := ⟨0x2004, 1, 1⟩
abbrev TCP_CONTRACT : Nat := 0x2008
abbrev TCP_CONTRACT_AVS : Fld := ⟨0x2008, 31, 31⟩
abbrev TCP_CONTRACT_POS : Fld := ⟨0x2008, 29, 26⟩
abbrev TCP_CONTRACT_I : Fld := ⟨0x2008, 25, 13⟩
abbrev TCP_CONTRACT_V : Fld := ⟨0x2008, 12, 0⟩
abbrev TCP_AUTO : Nat := 0x200C
abbrev TCP_AUTO_EN : Fld := ⟨0x200C, 15, 15⟩
abbrev TCP_AUTO_VMAX : Fld := ⟨0x200C, 8, 0⟩
abbrev TCP_TXCMD : Nat := 0x2010
abbrev TCP_TXCMD_CMD : Fld := ⟨0x2010, 7, 0⟩
abbrev TCP_TXRES : Nat := 0x2014
abbrev TCP_TXRES_RES : Fld := ⟨0x2014, 7, 0⟩
abbrev TCP_RXSTAT : Nat := 0x2018
abbrev TCP_RXSTAT_RDY : Fld := ⟨0x2018, 15, 15⟩
abbrev TCP_RXSTAT_OVW : Fld := ⟨0x2018, 14, 14⟩
abbrev TCP_RXSTAT_LEN : Fld := ⟨0x2018, 13, 6⟩
abbrev TCP_RXSTAT_TYPE : Fld := ⟨0x2018, 5, 0⟩
abbrev TCP_TXBUF (w : Nat) : Nat := 0x2020 + 4 * w
abbrev TCP_TXBUF_WORD (w : Nat) : Fld := ⟨TCP_TXBUF w, 31, 0⟩
abbrev TCP_RXBUF (w : Nat) : Nat := 0x2040 + 4 * w
abbrev TCP_RXBUF_WORD (w : Nat) : Fld := ⟨TCP_RXBUF w, 31, 0⟩
abbrev TCP_CNT : Nat := 0x2080
abbrev TCP_CNT_HRST : Fld := ⟨0x2080, 31, 24⟩
abbrev TCP_CNT_SRST : Fld := ⟨0x2080, 23, 16⟩
abbrev TCP_CNT_RETRY : Fld := ⟨0x2080, 15, 8⟩
abbrev TCP_CNT_NS : Fld := ⟨0x2080, 7, 0⟩
abbrev TCP_LOCK : Nat := 0x2084
abbrev TCP_LOCK_LOCK : Fld := ⟨0x2084, 0, 0⟩
/-! ## ENG (R377) -/

abbrev ENG_CTL (e : Nat) : Nat := 0x2400 + 0x20 * e
abbrev ENG_CTL_DBGSEL (e : Nat) : Fld := ⟨ENG_CTL e, 12, 8⟩
abbrev ENG_CTL_RESET (e : Nat) : Fld := ⟨ENG_CTL e, 1, 1⟩
abbrev ENG_CTL_HALT (e : Nat) : Fld := ⟨ENG_CTL e, 0, 0⟩
abbrev ENG_STAT (e : Nat) : Nat := 0x2404 + 0x20 * e
abbrev ENG_STAT_CAUSE (e : Nat) : Fld := ⟨ENG_STAT e, 23, 16⟩
abbrev ENG_STAT_NOVEC (e : Nat) : Fld := ⟨ENG_STAT e, 10, 10⟩
abbrev ENG_STAT_DOUBLE (e : Nat) : Fld := ⟨ENG_STAT e, 9, 9⟩
abbrev ENG_STAT_EXH (e : Nat) : Fld := ⟨ENG_STAT e, 8, 8⟩
abbrev ENG_STAT_EXCEVT (e : Nat) : Fld := ⟨ENG_STAT e, 6, 6⟩
abbrev ENG_STAT_HALTEVT (e : Nat) : Fld := ⟨ENG_STAT e, 5, 5⟩
abbrev ENG_STAT_STATE (e : Nat) : Fld := ⟨ENG_STAT e, 2, 0⟩
abbrev ENG_PC (e : Nat) : Nat := 0x2408 + 0x20 * e
abbrev ENG_PC_VAL (e : Nat) : Fld := ⟨ENG_PC e, 15, 0⟩
abbrev ENG_EPC (e : Nat) : Nat := 0x240C + 0x20 * e
abbrev ENG_EPC_VAL (e : Nat) : Fld := ⟨ENG_EPC e, 15, 0⟩
abbrev ENG_BAD (e : Nat) : Nat := 0x2410 + 0x20 * e
abbrev ENG_BAD_VAL (e : Nat) : Fld := ⟨ENG_BAD e, 15, 0⟩
abbrev ENG_OVRCNT (e : Nat) : Nat := 0x2414 + 0x20 * e
abbrev ENG_OVRCNT_COUNT (e : Nat) : Fld := ⟨ENG_OVRCNT e, 31, 0⟩
abbrev ENG_CYC (e : Nat) : Nat := 0x2418 + 0x20 * e
abbrev ENG_CYC_MAX (e : Nat) : Fld := ⟨ENG_CYC e, 31, 16⟩
abbrev ENG_CYC_LAST (e : Nat) : Fld := ⟨ENG_CYC e, 15, 0⟩
abbrev ENG_DBG (e : Nat) : Nat := 0x241C + 0x20 * e
abbrev ENG_DBG_VAL (e : Nat) : Fld := ⟨ENG_DBG e, 31, 0⟩
/-! ## RNG (R397) -/

abbrev RNG_CFG (n : Nat) : Nat := 0x2500 + 0x10 * n
abbrev RNG_CFG_EN (n : Nat) : Fld := ⟨RNG_CFG n, 31, 31⟩
abbrev RNG_CFG_LDEPTH (n : Nat) : Fld := ⟨RNG_CFG n, 19, 16⟩
abbrev RNG_CFG_BASE (n : Nat) : Fld := ⟨RNG_CFG n, 15, 0⟩
abbrev RNG_STAT (n : Nat) : Nat := 0x2504 + 0x10 * n
abbrev RNG_STAT_CFGREF (n : Nat) : Fld := ⟨RNG_STAT n, 23, 23⟩
abbrev RNG_STAT_NOTAG (n : Nat) : Fld := ⟨RNG_STAT n, 22, 22⟩
abbrev RNG_STAT_FULL (n : Nat) : Fld := ⟨RNG_STAT n, 21, 21⟩
abbrev RNG_STAT_CPL (n : Nat) : Fld := ⟨RNG_STAT n, 17, 9⟩
abbrev RNG_STAT_OUT (n : Nat) : Fld := ⟨RNG_STAT n, 8, 0⟩
abbrev RNG_PTR (n : Nat) : Nat := 0x2508 + 0x10 * n
abbrev RNG_PTR_CWR (n : Nat) : Fld := ⟨RNG_PTR n, 15, 8⟩
abbrev RNG_PTR_CRD (n : Nat) : Fld := ⟨RNG_PTR n, 7, 0⟩
abbrev RNG_TAGSTAT : Nat := 0x2700
abbrev RNG_TAGSTAT_QREF : Fld := ⟨0x2700, 16, 16⟩
abbrev RNG_TAGSTAT_MINFREE : Fld := ⟨0x2700, 15, 8⟩
abbrev RNG_TAGSTAT_FREE : Fld := ⟨0x2700, 7, 0⟩
abbrev RNG_QUOTA0 : Nat := 0x2704
abbrev RNG_QUOTA0_PE1 : Fld := ⟨0x2704, 31, 24⟩
abbrev RNG_QUOTA0_PE0 : Fld := ⟨0x2704, 23, 16⟩
abbrev RNG_QUOTA0_HSQ : Fld := ⟨0x2704, 15, 8⟩
abbrev RNG_QUOTA0_CSQ : Fld := ⟨0x2704, 7, 0⟩
abbrev RNG_QUOTA1 : Nat := 0x2708
abbrev RNG_QUOTA1_HOST : Fld := ⟨0x2708, 7, 0⟩
abbrev RNG_TAGUSE0 : Nat := 0x270C
abbrev RNG_TAGUSE0_PE1 : Fld := ⟨0x270C, 31, 24⟩
abbrev RNG_TAGUSE0_PE0 : Fld := ⟨0x270C, 23, 16⟩
abbrev RNG_TAGUSE0_HSQ : Fld := ⟨0x270C, 15, 8⟩
abbrev RNG_TAGUSE0_CSQ : Fld := ⟨0x270C, 7, 0⟩
abbrev RNG_TAGUSE1 : Nat := 0x2710
abbrev RNG_TAGUSE1_HOST : Fld := ⟨0x2710, 7, 0⟩
abbrev RNG_LOCK : Nat := 0x2714
abbrev RNG_LOCK_LOCK : Fld := ⟨0x2714, 0, 0⟩
abbrev RNG_CNT : Nat := 0x2718
abbrev RNG_CNT_REFUSED : Fld := ⟨0x2718, 31, 16⟩
abbrev RNG_CNT_ORPH : Fld := ⟨0x2718, 15, 0⟩
abbrev RNG_TAGSEL : Nat := 0x271C
abbrev RNG_TAGSEL_TAG : Fld := ⟨0x271C, 6, 0⟩
abbrev RNG_TAGINFO : Nat := 0x2720
abbrev RNG_TAGINFO_OP : Fld := ⟨0x2720, 31, 24⟩
abbrev RNG_TAGINFO_RING : Fld := ⟨0x2720, 12, 8⟩
abbrev RNG_TAGINFO_STATE : Fld := ⟨0x2720, 2, 0⟩

/-! ## What a write may change (R8)

One row describes `count` registers at `base + stride * i`. `rw` are the bits a plain write
replaces, `w1c` the bits a write of 1 clears, `wo` the bits that only act when written, `rwl`
the bits of `rw` that the lock at address `lock` (0: none) freezes, `sh` says the register is a
double-buffered set point and `owner` its owning engine (0 CSQ, 1 HSQ) (R23, R177, R219, R282,
R466). -/

structure RegRow where
  base : Nat
  stride : Nat
  count : Nat
  width : Nat
  rw : Nat
  w1c : Nat
  wo : Nat
  rwl : Nat
  sh : Bool
  owner : Nat
  lock : Nat
  deriving DecidableEq, Repr

/-- The rows of the GLB registers. -/
def regRowsGlb : List RegRow := [
  ⟨0x0000, 0x00, 1, 8, 0xFF, 0x0, 0x0, 0x0, false, 0, 0x0⟩,
  ⟨0x0004, 0x00, 1, 32, 0x0, 0x0, 0x0, 0x0, false, 0, 0x0⟩,
  ⟨0x0008, 0x00, 1, 32, 0x0, 0x0, 0x0, 0x0, false, 0, 0x0⟩,
  ⟨0x000C, 0x00, 1, 32, 0x0, 0x0, 0x0, 0x0, false, 0, 0x0⟩,
  ⟨0x0010, 0x00, 1, 16, 0x0, 0x0, 0x0, 0x0, false, 0, 0x0⟩,
  ⟨0x0014, 0x00, 1, 16, 0x0, 0x700, 0x0, 0x0, false, 0, 0x0⟩,
  ⟨0x0018, 0x00, 1, 16, 0x0, 0x0, 0x0, 0x0, false, 0, 0x0⟩,
  ⟨0x001C, 0x00, 1, 8, 0x3, 0x0, 0x0, 0x0, false, 0, 0x0⟩,
  ⟨0x0040, 0x00, 1, 16, 0x0, 0x0, 0x0, 0x0, false, 0, 0x0⟩,
  ⟨0x0044, 0x00, 1, 16, 0x0, 0x1FD, 0x0, 0x0, false, 0, 0x0⟩,
  ⟨0x0048, 0x00, 1, 16, 0x0, 0x0, 0xFF00, 0x0, false, 0, 0x0⟩,
  ⟨0x004C, 0x00, 1, 16, 0x0, 0x0, 0x0, 0x0, false, 0, 0x0⟩,
  ⟨0x0050, 0x00, 1, 32, 0x0, 0x0, 0x0, 0x0, false, 0, 0x0⟩,
  ⟨0x0054, 0x00, 1, 32, 0x0, 0x0, 0x0, 0x0, false, 0, 0x0⟩,
  ⟨0x0058, 0x00, 1, 32, 0x0, 0x0, 0x0, 0x0, false, 0, 0x0⟩,
  ⟨0x0080, 0x00, 1, 32, 0x0, 0xE0000, 0x0, 0x0, false, 0, 0x0⟩,
  ⟨0x0084, 0x00, 1, 8, 0x0, 0x0, 0xFF, 0x0, false, 0, 0x0⟩,
  ⟨0x0088, 0x00, 1, 32, 0x0, 0x0, 0x0, 0x0, false, 0, 0x0⟩,
  ⟨0x008C, 0x00, 1, 32, 0x0, 0x0, 0x0, 0x0, false, 0, 0x0⟩,
  ⟨0x0090, 0x00, 1, 32, 0x0, 0x0, 0x0, 0x0, false, 0, 0x0⟩]

/-- The rows of the PWR registers. -/
def regRowsPwr : List RegRow := [
  ⟨0x0400, 0x00, 1, 16, 0xFF03, 0x0, 0x0, 0x0, true, 1, 0x0⟩,
  ⟨0x0404, 0x00, 1, 32, 0x0, 0xFF, 0x0, 0x0, false, 0, 0x0⟩,
  ⟨0x0408, 0x00, 1, 8, 0xF, 0x0, 0x0, 0x0, true, 1, 0x0⟩,
  ⟨0x040C, 0x00, 1, 16, 0xFFFF, 0x0, 0x0, 0xFFFF, true, 1, 0x43C⟩,
  ⟨0x0410, 0x00, 1, 16, 0xFFFF, 0x0, 0x0, 0xFFFF, true, 1, 0x43C⟩,
  ⟨0x0414, 0x00, 1, 8, 0x3F, 0x0, 0x0, 0x3F, true, 1, 0x43C⟩,
  ⟨0x0418, 0x00, 1, 32, 0x7FFFFFF, 0x0, 0x0, 0x0, true, 1, 0x0⟩,
  ⟨0x041C, 0x00, 1, 8, 0x7F, 0x0, 0x0, 0x0, true, 1, 0x0⟩,
  ⟨0x0420, 0x00, 1, 16, 0x3FFF, 0x0, 0x0, 0x0, true, 1, 0x0⟩,
  ⟨0x0424, 0x00, 1, 16, 0x1FFF, 0x0, 0x0, 0x0, true, 1, 0x0⟩,
  ⟨0x0428, 0x00, 1, 16, 0x1FFF, 0x0, 0x0, 0x0, true, 1, 0x0⟩,
  ⟨0x042C, 0x00, 1, 16, 0x1FFF, 0x0, 0x0, 0x0, true, 1, 0x0⟩,
  ⟨0x0430, 0x00, 1, 16, 0x1FFF, 0x0, 0x0, 0x0, true, 0, 0x0⟩,
  ⟨0x0434, 0x00, 1, 16, 0x0, 0x0, 0x0, 0x0, false, 0, 0x0⟩,
  ⟨0x0438, 0x00, 1, 32, 0x0, 0x0, 0x0, 0x0, false, 0, 0x0⟩,
  ⟨0x043C, 0x00, 1, 8, 0x1, 0x0, 0x0, 0x1, false, 0, 0x43C⟩,
  ⟨0x0440, 0x00, 1, 16, 0xFFFF, 0x0, 0x0, 0xFFFF, true, 0, 0x43C⟩,
  ⟨0x0444, 0x00, 1, 16, 0xFFFF, 0x0, 0x0, 0xFFFF, true, 0, 0x43C⟩,
  ⟨0x0448, 0x00, 1, 16, 0xFFFF, 0x0, 0x0, 0xFFFF, true, 0, 0x43C⟩,
  ⟨0x044C, 0x00, 1, 16, 0xFFFF, 0x0, 0x0, 0xFFFF, true, 1, 0x43C⟩,
  ⟨0x0450, 0x00, 1, 16, 0xFFFF, 0x0, 0x0, 0xFFFF, true, 1, 0x43C⟩,
  ⟨0x0454, 0x00, 1, 16, 0xFFFF, 0x0, 0x0, 0xFFFF, true, 1, 0x43C⟩,
  ⟨0x0458, 0x00, 1, 16, 0xFFFF, 0x0, 0x0, 0xFFFF, true, 1, 0x43C⟩,
  ⟨0x0460, 0x00, 1, 32, 0x0, 0x1EF7BDEF, 0x0, 0x0, false, 0, 0x0⟩,
  ⟨0x0464, 0x00, 1, 32, 0x0, 0x0, 0x0, 0x0, false, 0, 0x0⟩,
  ⟨0x0470, 0x04, 6, 16, 0x0, 0x0, 0x0, 0x0, false, 0, 0x0⟩]

/-- The rows of the HUB registers. -/
def regRowsHub : List RegRow := [
  ⟨0x0800, 0x00, 1, 16, 0xF37, 0x0, 0x0, 0x0, true, 1, 0x0⟩,
  ⟨0x0804, 0x00, 1, 32, 0x0, 0xFF0000, 0x0, 0x0, false, 0, 0x0⟩,
  ⟨0x0808, 0x00, 1, 8, 0xFF, 0x0, 0x0, 0x0, true, 1, 0x0⟩,
  ⟨0x080C, 0x00, 1, 8, 0xFF, 0x0, 0x0, 0x0, true, 1, 0x0⟩,
  ⟨0x0810, 0x00, 1, 32, 0xFFFFF, 0x0, 0x0, 0x0, true, 1, 0x0⟩,
  ⟨0x0814, 0x00, 1, 32, 0x1F003F3F, 0x0, 0x0, 0x0, true, 1, 0x0⟩,
  ⟨0x0818, 0x00, 1, 16, 0xFFFF, 0x0, 0x0, 0x0, true, 1, 0x0⟩,
  ⟨0x081C, 0x00, 1, 16, 0x3FFF, 0x0, 0x0, 0x0, true, 1, 0x0⟩,
  ⟨0x0820, 0x04, 4, 32, 0x1FFF1FFF, 0x0, 0x0, 0x0, true, 1, 0x0⟩,
  ⟨0x0830, 0x04, 4, 32, 0xFF001FFF, 0x0, 0x0, 0x0, true, 1, 0x0⟩,
  ⟨0x0840, 0x04, 4, 32, 0x0, 0x3F0000, 0x0, 0x0, false, 0, 0x0⟩,
  ⟨0x0850, 0x04, 4, 32, 0x0, 0x0, 0x0, 0x0, false, 0, 0x0⟩,
  ⟨0x0860, 0x00, 1, 16, 0x0, 0x0, 0x0, 0x0, false, 0, 0x0⟩,
  ⟨0x0864, 0x00, 1, 16, 0x0, 0x0, 0x0, 0x0, false, 0, 0x0⟩,
  ⟨0x0868, 0x00, 1, 16, 0x0, 0x0, 0x0, 0x0, false, 0, 0x0⟩,
  ⟨0x086C, 0x00, 1, 16, 0x0, 0x0, 0x0, 0x0, false, 0, 0x0⟩,
  ⟨0x0870, 0x00, 1, 16, 0x80FF, 0x0, 0x0, 0x0, true, 1, 0x0⟩,
  ⟨0x0874, 0x00, 1, 16, 0x0, 0x10, 0x0, 0x0, false, 0, 0x0⟩,
  ⟨0x0878, 0x00, 1, 32, 0x0, 0x0, 0x0, 0x0, false, 0, 0x0⟩,
  ⟨0x087C, 0x00, 1, 16, 0x0, 0x0, 0x0, 0x0, false, 0, 0x0⟩,
  ⟨0x0880, 0x00, 1, 16, 0x0, 0x0, 0x0, 0x0, false, 0, 0x0⟩]

/-- The rows of the CHG registers. -/
def regRowsChg : List RegRow := [
  ⟨0x0C00, 0x00, 1, 8, 0x1, 0x0, 0x0, 0x0, true, 0, 0x0⟩,
  ⟨0x0C04, 0x00, 1, 8, 0xF, 0x0, 0x0, 0x0, true, 0, 0x0⟩,
  ⟨0x0C08, 0x00, 1, 16, 0x0, 0x0, 0x0, 0x0, false, 0, 0x0⟩,
  ⟨0x0C0C, 0x00, 1, 32, 0x0, 0xFC0000, 0x0, 0x0, false, 0, 0x0⟩,
  ⟨0x0C10, 0x00, 1, 16, 0xFFFF, 0x0, 0x0, 0x0, true, 0, 0x0⟩,
  ⟨0x0C14, 0x00, 1, 32, 0x1FFFF, 0x0, 0x0, 0x0, true, 0, 0x0⟩,
  ⟨0x0C18, 0x00, 1, 16, 0x0, 0x0, 0x0, 0x0, false, 0, 0x0⟩,
  ⟨0x0C1C, 0x00, 1, 32, 0x0, 0x0, 0x0, 0x0, false, 0, 0x0⟩,
  ⟨0x0C20, 0x00, 1, 8, 0x0, 0x0, 0xFF, 0x0, false, 0, 0x0⟩,
  ⟨0x0C24, 0x00, 1, 8, 0x0, 0x0, 0x0, 0x0, false, 0, 0x0⟩,
  ⟨0x0C28, 0x00, 1, 16, 0x0, 0x0, 0x0, 0x0, false, 0, 0x0⟩,
  ⟨0x0C2C, 0x00, 1, 32, 0x0, 0x0, 0x0, 0x0, false, 0, 0x0⟩,
  ⟨0x0C30, 0x04, 6, 32, 0x0, 0x0, 0x0, 0x0, false, 0, 0x0⟩,
  ⟨0x0C48, 0x00, 1, 32, 0x3FFFFFFF, 0x0, 0x0, 0x3FFFFFFF, false, 0, 0xC64⟩,
  ⟨0x0C4C, 0x00, 1, 32, 0x0, 0x0, 0x0, 0x0, false, 0, 0x0⟩,
  ⟨0x0C50, 0x00, 1, 32, 0x0, 0x0, 0x0, 0x0, false, 0, 0x0⟩,
  ⟨0x0C54, 0x00, 1, 32, 0x0, 0x0, 0x0, 0x0, false, 0, 0x0⟩,
  ⟨0x0C58, 0x00, 1, 16, 0x1FF, 0x0, 0x0, 0x1FF, false, 0, 0xC64⟩,
  ⟨0x0C5C, 0x00, 1, 16, 0xFFFF, 0x0, 0x0, 0x0, false, 0, 0x0⟩,
  ⟨0x0C60, 0x00, 1, 16, 0xFFFF, 0x0, 0x0, 0x0, false, 0, 0x0⟩,
  ⟨0x0C64, 0x00, 1, 8, 0x1, 0x0, 0x0, 0x1, false, 0, 0xC64⟩]

/-- The rows of the PKP registers. -/
def regRowsPkp : List RegRow := [
  ⟨0x0D00, 0x00, 1, 8, 0xF, 0x0, 0x0, 0x0, false, 0, 0x0⟩,
  ⟨0x0D04, 0x00, 1, 32, 0x0, 0x1C0000, 0x0, 0x0, false, 0, 0x0⟩,
  ⟨0x0D08, 0x00, 1, 16, 0x0, 0x0, 0x0, 0x0, false, 0, 0x0⟩,
  ⟨0x0D0C, 0x00, 1, 16, 0x0, 0x0, 0x0, 0x0, false, 0, 0x0⟩,
  ⟨0x0D10, 0x00, 1, 16, 0xFFFF, 0x0, 0x0, 0x0, false, 0, 0x0⟩,
  ⟨0x0D20, 0x20, 2, 16, 0x1, 0x0, 0x2, 0x0, false, 0, 0x0⟩,
  ⟨0x0D24, 0x20, 2, 32, 0x0, 0x0, 0xFFFFFFFF, 0x0, false, 0, 0x0⟩,
  ⟨0x0D28, 0x20, 2, 32, 0x0, 0x0, 0x0, 0x0, false, 0, 0x0⟩,
  ⟨0x0D2C, 0x20, 2, 32, 0x0, 0x7C00000, 0x0, 0x0, false, 0, 0x0⟩]

/-- The rows of the ADC registers. -/
def regRowsAdc : List RegRow := [
  ⟨0x1000, 0x00, 1, 32, 0x0, 0x0, 0x0, 0x0, false, 0, 0x0⟩,
  ⟨0x1004, 0x00, 1, 32, 0x0, 0x0, 0x0, 0x0, false, 0, 0x0⟩,
  ⟨0x1008, 0x00, 1, 32, 0x0, 0x0, 0x0, 0x0, false, 0, 0x0⟩,
  ⟨0x100C, 0x00, 1, 16, 0x0, 0xC, 0x0, 0x0, false, 0, 0x0⟩]

/-- The rows of the IMP registers. -/
def regRowsImp : List RegRow := [
  ⟨0x1100, 0x00, 1, 8, 0x1, 0x0, 0x2, 0x0, false, 0, 0x0⟩,
  ⟨0x1104, 0x00, 1, 32, 0x0, 0x70000, 0x0, 0x0, false, 0, 0x0⟩,
  ⟨0x1108, 0x00, 1, 16, 0x0, 0x0, 0x0, 0x0, false, 0, 0x0⟩,
  ⟨0x110C, 0x00, 1, 16, 0x0, 0x0, 0x0, 0x0, false, 0, 0x0⟩,
  ⟨0x1110, 0x00, 1, 16, 0x0, 0x0, 0x0, 0x0, false, 0, 0x0⟩,
  ⟨0x1114, 0x00, 1, 32, 0x0, 0x0, 0x0, 0x0, false, 0, 0x0⟩,
  ⟨0x1118, 0x00, 1, 32, 0x0, 0x0, 0x0, 0x0, false, 0, 0x0⟩]

/-- The rows of the THM registers. -/
def regRowsThm : List RegRow := [
  ⟨0x1400, 0x00, 1, 32, 0x0, 0xF000000, 0x0, 0x0, false, 0, 0x0⟩,
  ⟨0x1404, 0x00, 1, 16, 0x0, 0x0, 0x0, 0x0, false, 0, 0x0⟩,
  ⟨0x1408, 0x00, 1, 16, 0x0, 0x0, 0x0, 0x0, false, 0, 0x0⟩,
  ⟨0x140C, 0x00, 1, 32, 0xFFFFFF, 0x0, 0x0, 0xFFFFFF, false, 0, 0x1480⟩,
  ⟨0x1410, 0x00, 1, 32, 0xFF000FFF, 0x0, 0x0, 0xFF000FFF, false, 0, 0x1480⟩,
  ⟨0x1414, 0x00, 1, 32, 0xFFFFFF3F, 0x0, 0x0, 0x0, false, 0, 0x0⟩,
  ⟨0x1418, 0x00, 1, 32, 0x0, 0x0, 0x0, 0x0, false, 0, 0x0⟩,
  ⟨0x141C, 0x00, 1, 16, 0xFFFF, 0x0, 0x0, 0x0, false, 0, 0x0⟩,
  ⟨0x1420, 0x04, 4, 32, 0xF3FFFFFF, 0x0, 0x0, 0xF3FFFFFF, false, 0, 0x1480⟩,
  ⟨0x1440, 0x04, 12, 16, 0x0, 0x0, 0x0, 0x0, false, 0, 0x0⟩,
  ⟨0x1480, 0x00, 1, 8, 0x1, 0x0, 0x0, 0x1, false, 0, 0x1480⟩]

/-- The rows of the TMR registers. -/
def regRowsTmr : List RegRow := [
  ⟨0x1600, 0x20, 8, 32, 0xFFFFFFF8, 0x0, 0x0, 0x0, false, 0, 0x0⟩,
  ⟨0x1604, 0x20, 8, 32, 0xFFFFFF, 0x0, 0x0, 0x0, false, 0, 0x0⟩,
  ⟨0x1608, 0x20, 8, 32, 0xFFFFFFFF, 0x0, 0x0, 0x0, false, 0, 0x0⟩,
  ⟨0x160C, 0x20, 8, 32, 0xFFFFFFFF, 0x0, 0x0, 0x0, false, 0, 0x0⟩,
  ⟨0x1610, 0x20, 8, 32, 0xFFFFFFFF, 0x0, 0x0, 0x0, false, 0, 0x0⟩,
  ⟨0x1614, 0x20, 8, 32, 0x0, 0x0, 0x0, 0x0, false, 0, 0x0⟩,
  ⟨0x1618, 0x20, 8, 32, 0x0, 0x1F, 0x0, 0x0, false, 0, 0x0⟩,
  ⟨0x1700, 0x00, 1, 16, 0xFF, 0x0, 0x8000, 0x0, false, 0, 0x0⟩,
  ⟨0x1704, 0x00, 1, 32, 0x0, 0x30000, 0x0, 0x0, false, 0, 0x0⟩,
  ⟨0x1708, 0x00, 1, 8, 0x0, 0x0, 0x0, 0x0, false, 0, 0x0⟩]

/-- The rows of the WDG registers. -/
def regRowsWdg : List RegRow := [
  ⟨0x1800, 0x00, 1, 8, 0x1, 0x0, 0x0, 0x0, false, 0, 0x0⟩,
  ⟨0x1804, 0x00, 1, 32, 0x0, 0xE00000, 0x0, 0x0, false, 0, 0x0⟩,
  ⟨0x1808, 0x00, 1, 32, 0x0, 0x0, 0xFFFFFFFF, 0x0, false, 0, 0x0⟩,
  ⟨0x180C, 0x00, 1, 16, 0x1FFF, 0x0, 0x0, 0x0, false, 0, 0x0⟩,
  ⟨0x1810, 0x00, 1, 8, 0x0, 0x0, 0x0, 0x0, false, 0, 0x0⟩,
  ⟨0x1814, 0x00, 1, 32, 0x0, 0x0, 0xFFFFFFFF, 0x0, false, 0, 0x0⟩,
  ⟨0x1818, 0x00, 1, 32, 0xFFFFFFFF, 0x0, 0x0, 0x0, false, 0, 0x0⟩,
  ⟨0x181C, 0x00, 1, 8, 0x0, 0x0, 0x7, 0x0, false, 0, 0x0⟩,
  ⟨0x1820, 0x00, 1, 8, 0x0, 0x0, 0x0, 0x0, false, 0, 0x0⟩,
  ⟨0x1824, 0x00, 1, 32, 0x0, 0xFFFF1E, 0x0, 0x0, false, 0, 0x0⟩,
  ⟨0x1828, 0x00, 1, 8, 0xFF, 0x0, 0x0, 0x0, false, 0, 0x0⟩,
  ⟨0x182C, 0x00, 1, 32, 0x0, 0x0, 0x0, 0x0, false, 0, 0x0⟩]

/-- The rows of the CRC registers. -/
def regRowsCrc : List RegRow := [
  ⟨0x1900, 0x00, 1, 32, 0x0, 0x30000, 0x0, 0x0, false, 0, 0x0⟩,
  ⟨0x1904, 0x00, 1, 32, 0x0, 0x0, 0x0, 0x0, false, 0, 0x0⟩]

/-- The rows of the SCAN registers. -/
def regRowsScan : List RegRow := [
  ⟨0x1980, 0x00, 1, 16, 0x0, 0x0, 0x0, 0x0, false, 0, 0x0⟩,
  ⟨0x1984, 0x00, 1, 8, 0x0, 0x0, 0x0, 0x0, false, 0, 0x0⟩,
  ⟨0x1988, 0x00, 1, 32, 0x0, 0x0, 0x0, 0x0, false, 0, 0x0⟩]

/-- The rows of the FLT registers. -/
def regRowsFlt : List RegRow := [
  ⟨0x1A00, 0x00, 1, 8, 0x0, 0x0, 0xFF, 0x0, false, 0, 0x0⟩,
  ⟨0x1A04, 0x00, 1, 32, 0x0, 0xE0000, 0x0, 0x0, false, 0, 0x0⟩,
  ⟨0x1A08, 0x00, 1, 32, 0x0, 0xFFFFFFFF, 0x0, 0x0, false, 0, 0x0⟩,
  ⟨0x1A0C, 0x00, 1, 32, 0x0, 0xFFFFFFFF, 0x0, 0x0, false, 0, 0x0⟩,
  ⟨0x1A10, 0x00, 1, 32, 0x0, 0xFFFFFFFF, 0x0, 0x0, false, 0, 0x0⟩,
  ⟨0x1A14, 0x00, 1, 32, 0x0, 0xFFFFFFFF, 0x0, 0x0, false, 0, 0x0⟩,
  ⟨0x1A18, 0x00, 1, 16, 0x0, 0x0, 0x0, 0x0, false, 0, 0x0⟩,
  ⟨0x1A1C, 0x00, 1, 16, 0x0, 0x0, 0x7FFF, 0x0, false, 0, 0x0⟩,
  ⟨0x1A20, 0x00, 1, 16, 0x0, 0x0, 0x0, 0x0, false, 0, 0x0⟩,
  ⟨0x1A24, 0x00, 1, 16, 0x8307, 0x4000, 0x0, 0x0, false, 0, 0x0⟩,
  ⟨0x1A2C, 0x00, 1, 8, 0x1, 0x0, 0x0, 0x1, false, 0, 0x1A2C⟩,
  ⟨0x1A30, 0x04, 8, 32, 0xFFFFFFFF, 0x0, 0x0, 0x0, false, 0, 0x0⟩,
  ⟨0x1A80, 0x08, 16, 32, 0x0, 0x0, 0x0, 0x0, false, 0, 0x0⟩,
  ⟨0x1A84, 0x08, 16, 32, 0x0, 0x0, 0x0, 0x0, false, 0, 0x0⟩,
  ⟨0x1B00, 0x04, 64, 32, 0x1FFFF77, 0x0, 0x0, 0x1FFFF77, false, 0, 0x1A2C⟩]

/-- The rows of the LOG registers. -/
def regRowsLog : List RegRow := [
  ⟨0x1A50, 0x00, 1, 8, 0x1, 0x0, 0x2, 0x0, false, 0, 0x0⟩,
  ⟨0x1A54, 0x00, 1, 32, 0x0, 0x0, 0x0, 0x0, false, 0, 0x0⟩,
  ⟨0x1A58, 0x00, 1, 8, 0xFF, 0x0, 0x0, 0x0, false, 0, 0x0⟩,
  ⟨0x1A5C, 0x00, 1, 32, 0x0, 0x0, 0xFFFFFFFF, 0x0, false, 0, 0x0⟩,
  ⟨0x1A60, 0x00, 1, 32, 0x0, 0x0, 0x0, 0x0, false, 0, 0x0⟩,
  ⟨0x1A70, 0x04, 4, 32, 0x0, 0x0, 0x0, 0x0, false, 0, 0x0⟩]

/-- The rows of the HST registers. -/
def regRowsHst : List RegRow := [
  ⟨0x1C00, 0x00, 1, 16, 0xFF1B, 0x0, 0x0, 0x0, false, 0, 0x0⟩,
  ⟨0x1C04, 0x00, 1, 32, 0x0, 0xFF0000, 0x0, 0x0, false, 0, 0x0⟩,
  ⟨0x1C08, 0x00, 1, 32, 0x0, 0x0, 0x0, 0x0, false, 0, 0x0⟩,
  ⟨0x1C0C, 0x00, 1, 32, 0x0, 0x0, 0x0, 0x0, false, 0, 0x0⟩,
  ⟨0x1C10, 0x00, 1, 16, 0xFF7F, 0x0, 0x0, 0x0, false, 0, 0x0⟩,
  ⟨0x1C14, 0x00, 1, 16, 0x0, 0xFF7F, 0x0, 0x0, false, 0, 0x0⟩,
  ⟨0x1C18, 0x00, 1, 16, 0x0, 0x0, 0xFF00, 0x0, false, 0, 0x0⟩,
  ⟨0x1C1C, 0x00, 1, 32, 0x0, 0x0, 0x0, 0x0, false, 0, 0x0⟩,
  ⟨0x1C20, 0x00, 1, 32, 0x0, 0x0, 0x0, 0x0, false, 0, 0x0⟩,
  ⟨0x1C30, 0x04, 4, 32, 0x0, 0x0, 0x0, 0x0, false, 0, 0x0⟩]

/-- The rows of the PKB registers. -/
def regRowsPkb : List RegRow := [
  ⟨0x1D00, 0x00, 1, 16, 0x1, 0x0, 0x0, 0x0, false, 0, 0x0⟩,
  ⟨0x1D04, 0x00, 1, 32, 0x0, 0xF00000, 0x0, 0x0, false, 0, 0x0⟩,
  ⟨0x1D08, 0x00, 1, 32, 0x0, 0x0, 0x0, 0x0, false, 0, 0x0⟩]

/-- The rows of the LNK registers. -/
def regRowsLnk : List RegRow := [
  ⟨0x1E00, 0x00, 1, 8, 0xF1, 0x0, 0x2, 0xF0, false, 0, 0x1E3C⟩,
  ⟨0x1E04, 0x00, 1, 32, 0x0, 0xFC0000, 0x0, 0x0, false, 0, 0x0⟩,
  ⟨0x1E08, 0x00, 1, 16, 0xFFF, 0x0, 0x0, 0x0, false, 0, 0x0⟩,
  ⟨0x1E0C, 0x00, 1, 32, 0x0, 0x0, 0x0, 0x0, false, 0, 0x0⟩,
  ⟨0x1E10, 0x00, 1, 32, 0x0, 0x0, 0x0, 0x0, false, 0, 0x0⟩,
  ⟨0x1E14, 0x00, 1, 32, 0x0, 0x0, 0x0, 0x0, false, 0, 0x0⟩,
  ⟨0x1E18, 0x00, 1, 8, 0xFF, 0x0, 0x0, 0xFF, false, 0, 0x1E3C⟩,
  ⟨0x1E1C, 0x00, 1, 16, 0x7FFF, 0x0, 0x0, 0x0, true, 1, 0x0⟩,
  ⟨0x1E20, 0x00, 1, 16, 0xFFFF, 0x0, 0x0, 0x0, true, 1, 0x0⟩,
  ⟨0x1E24, 0x00, 1, 8, 0x1, 0x0, 0x0, 0x0, true, 1, 0x0⟩,
  ⟨0x1E28, 0x00, 1, 32, 0x0, 0x0, 0x0, 0x0, false, 0, 0x0⟩,
  ⟨0x1E2C, 0x00, 1, 32, 0x0, 0x0, 0x0, 0x0, false, 0, 0x0⟩,
  ⟨0x1E30, 0x00, 1, 32, 0x0, 0x0, 0x0, 0x0, false, 0, 0x0⟩,
  ⟨0x1E34, 0x00, 1, 32, 0x0, 0x0, 0x0, 0x0, false, 0, 0x0⟩,
  ⟨0x1E38, 0x00, 1, 32, 0x0, 0x0, 0x0, 0x0, false, 0, 0x0⟩,
  ⟨0x1E3C, 0x00, 1, 8, 0x1, 0x0, 0x0, 0x1, false, 0, 0x1E3C⟩]

/-- The rows of the TCP registers. -/
def regRowsTcp : List RegRow := [
  ⟨0x2000, 0x00, 1, 8, 0x1, 0x0, 0x0, 0x0, false, 0, 0x0⟩,
  ⟨0x2004, 0x00, 1, 16, 0x0, 0xE00, 0x0, 0x0, false, 0, 0x0⟩,
  ⟨0x2008, 0x00, 1, 32, 0x0, 0x0, 0x0, 0x0, false, 0, 0x0⟩,
  ⟨0x200C, 0x00, 1, 16, 0x81FF, 0x0, 0x0, 0x81FF, false, 0, 0x2084⟩,
  ⟨0x2010, 0x00, 1, 8, 0xFF, 0x0, 0x0, 0x0, false, 0, 0x0⟩,
  ⟨0x2014, 0x00, 1, 8, 0x0, 0x0, 0x0, 0x0, false, 0, 0x0⟩,
  ⟨0x2018, 0x00, 1, 16, 0x0, 0xC000, 0x0, 0x0, false, 0, 0x0⟩,
  ⟨0x2020, 0x04, 4, 32, 0xFFFFFFFF, 0x0, 0x0, 0x0, false, 0, 0x0⟩,
  ⟨0x2040, 0x04, 16, 32, 0x0, 0x0, 0x0, 0x0, false, 0, 0x0⟩,
  ⟨0x2080, 0x00, 1, 32, 0x0, 0x0, 0x0, 0x0, false, 0, 0x0⟩,
  ⟨0x2084, 0x00, 1, 8, 0x1, 0x0, 0x0, 0x1, false, 0, 0x2084⟩]

/-- The rows of the ENG registers. -/
def regRowsEng : List RegRow := [
  ⟨0x2400, 0x20, 4, 16, 0x1F01, 0x0, 0x2, 0x0, false, 0, 0x0⟩,
  ⟨0x2404, 0x20, 4, 32, 0x0, 0x60, 0x0, 0x0, false, 0, 0x0⟩,
  ⟨0x2408, 0x20, 4, 16, 0x0, 0x0, 0x0, 0x0, false, 0, 0x0⟩,
  ⟨0x240C, 0x20, 4, 16, 0x0, 0x0, 0x0, 0x0, false, 0, 0x0⟩,
  ⟨0x2410, 0x20, 4, 16, 0x0, 0x0, 0x0, 0x0, false, 0, 0x0⟩,
  ⟨0x2414, 0x20, 4, 32, 0x0, 0x0, 0x0, 0x0, false, 0, 0x0⟩,
  ⟨0x2418, 0x20, 4, 32, 0x0, 0x0, 0x0, 0x0, false, 0, 0x0⟩,
  ⟨0x241C, 0x20, 4, 32, 0x0, 0x0, 0x0, 0x0, false, 0, 0x0⟩]

/-- The rows of the RNG registers. -/
def regRowsRng : List RegRow := [
  ⟨0x2500, 0x10, 32, 32, 0x800FFFFF, 0x0, 0x0, 0x0, false, 0, 0x0⟩,
  ⟨0x2504, 0x10, 32, 32, 0x0, 0xE00000, 0x0, 0x0, false, 0, 0x0⟩,
  ⟨0x2508, 0x10, 32, 32, 0x0, 0x0, 0x0, 0x0, false, 0, 0x0⟩,
  ⟨0x2700, 0x00, 1, 32, 0x0, 0x10000, 0x0, 0x0, false, 0, 0x0⟩,
  ⟨0x2704, 0x00, 1, 32, 0xFFFFFFFF, 0x0, 0x0, 0xFFFFFFFF, false, 0, 0x2714⟩,
  ⟨0x2708, 0x00, 1, 8, 0xFF, 0x0, 0x0, 0xFF, false, 0, 0x2714⟩,
  ⟨0x270C, 0x00, 1, 32, 0x0, 0x0, 0x0, 0x0, false, 0, 0x0⟩,
  ⟨0x2710, 0x00, 1, 8, 0x0, 0x0, 0x0, 0x0, false, 0, 0x0⟩,
  ⟨0x2714, 0x00, 1, 8, 0x1, 0x0, 0x0, 0x1, false, 0, 0x2714⟩,
  ⟨0x2718, 0x00, 1, 32, 0x0, 0x0, 0x0, 0x0, false, 0, 0x0⟩,
  ⟨0x271C, 0x00, 1, 8, 0x7F, 0x0, 0x0, 0x0, false, 0, 0x0⟩,
  ⟨0x2720, 0x00, 1, 32, 0x0, 0x0, 0x0, 0x0, false, 0, 0x0⟩]

/-- Every register of the index (R568). -/
def regRows : List RegRow :=
  regRowsGlb ++
  regRowsPwr ++
  regRowsHub ++
  regRowsChg ++
  regRowsPkp ++
  regRowsAdc ++
  regRowsImp ++
  regRowsThm ++
  regRowsTmr ++
  regRowsWdg ++
  regRowsCrc ++
  regRowsScan ++
  regRowsFlt ++
  regRowsLog ++
  regRowsHst ++
  regRowsPkb ++
  regRowsLnk ++
  regRowsTcp ++
  regRowsEng ++
  regRowsRng

/-- Does row `r` describe the register at word address `a`? -/
def RegRow.covers (r : RegRow) (a : Nat) : Bool :=
  if r.stride = 0 then a == r.base
  else decide (r.base ≤ a) && decide (a < r.base + r.stride * r.count)
    && ((a - r.base) % r.stride == 0)

/-- The row of the register at word address `a`; none where the index lists none (R7, R568). -/
def findRow (a : Nat) : Option RegRow := regRows.find? (fun r => r.covers a)

/-! ## Reset values

The values of the index's reset column that are not 0, in address order. GLB_PSSTAT and GLB_PSIVER are set at bank
selection, LNK_UID is a factory value that no reset changes, FLT_CFGs follow the source table of R520. -/

def resetRegs0 : List (Nat × BitVec 32) := [
  (0x0004, 0x62000001#32),
  (0x0044, 0x100#32),
  (0x0400, 0x3702#32),
  (0x0404, 0x6F80000#32),
  (0x0408, 0x4#32),
  (0x040C, 0x2828#32),
  (0x0410, 0x1488#32),
  (0x0414, 0x3F#32),
  (0x0418, 0x10A3040#32),
  (0x041C, 0x50#32),
  (0x0424, 0x1388#32),
  (0x0434, 0x1770#32),
  (0x0438, 0x177007D0#32),
  (0x0440, 0x4080#32),
  (0x0444, 0xA0B0#32),
  (0x0448, 0x4080#32),
  (0x044C, 0x4090#32),
  (0x0450, 0x90A0#32),
  (0x0454, 0xB0D0#32),
  (0x0458, 0x6464#32),
  (0x0800, 0xF10#32),
  (0x0804, 0x87#32),
  (0x0808, 0x39#32),
  (0x080C, 0x14#32)]

def resetRegs1 : List (Nat × BitVec 32) := [
  (0x0810, 0xA0A8#32),
  (0x0814, 0x5000C06#32),
  (0x0818, 0x410A#32),
  (0x0820, 0x17700384#32),
  (0x0824, 0x17700384#32),
  (0x0828, 0x17700384#32),
  (0x082C, 0x13B00384#32),
  (0x0830, 0x14000000#32),
  (0x0834, 0x14000000#32),
  (0x0838, 0x14000000#32),
  (0x083C, 0x14000000#32),
  (0x0840, 0x1#32),
  (0x0844, 0x1#32),
  (0x0848, 0x1#32),
  (0x084C, 0x1#32),
  (0x0860, 0xE000#32),
  (0x0870, 0x32#32),
  (0x0874, 0x8#32),
  (0x0C0C, 0xE0#32),
  (0x0C28, 0x8000#32),
  (0x0C48, 0x1E4B03C#32),
  (0x0C58, 0x1F4#32),
  (0x0C5C, 0x1E32#32),
  (0x0D10, 0x8000#32)]

def resetRegs2 : List (Nat × BitVec 32) := [
  (0x0D20, 0x1#32),
  (0x0D40, 0x1#32),
  (0x1100, 0x1#32),
  (0x1404, 0x8000#32),
  (0x1408, 0x8000#32),
  (0x140C, 0x968773#32),
  (0x1410, 0x7F#32),
  (0x1414, 0x64040100#32),
  (0x141C, 0x6400#32),
  (0x1420, 0x11AD6190#32),
  (0x1424, 0x11AD6190#32),
  (0x1428, 0x11AD6190#32),
  (0x142C, 0x11AD6190#32),
  (0x1440, 0x8000#32),
  (0x1444, 0x8000#32),
  (0x1448, 0x8000#32),
  (0x144C, 0x8000#32),
  (0x1450, 0x8000#32),
  (0x1454, 0x8000#32),
  (0x1458, 0x8000#32),
  (0x145C, 0x8000#32),
  (0x1460, 0x8000#32),
  (0x1464, 0x8000#32),
  (0x1468, 0x8000#32)]

def resetRegs3 : List (Nat × BitVec 32) := [
  (0x146C, 0x8000#32),
  (0x1604, 0x100#32),
  (0x1608, 0xFFFFFFFF#32),
  (0x1624, 0x100#32),
  (0x1628, 0xFFFFFFFF#32),
  (0x1644, 0x100#32),
  (0x1648, 0xFFFFFFFF#32),
  (0x1664, 0x100#32),
  (0x1668, 0xFFFFFFFF#32),
  (0x1684, 0x100#32),
  (0x1688, 0xFFFFFFFF#32),
  (0x16A4, 0x100#32),
  (0x16A8, 0xFFFFFFFF#32),
  (0x16C4, 0x100#32),
  (0x16C8, 0xFFFFFFFF#32),
  (0x16E4, 0x100#32),
  (0x16E8, 0xFFFFFFFF#32),
  (0x180C, 0x1F4#32),
  (0x1810, 0x1#32),
  (0x1A24, 0x100#32),
  (0x1B00, 0x1640841#32),
  (0x1B04, 0x1640842#32),
  (0x1B08, 0x1640341#32),
  (0x1B0C, 0xA3220#32)]

def resetRegs4 : List (Nat × BitVec 32) := [
  (0x1B10, 0xA3220#32),
  (0x1B14, 0xA3220#32),
  (0x1B18, 0xA3220#32),
  (0x1B1C, 0x640810#32),
  (0x1B20, 0x1640011#32),
  (0x1B24, 0xA6410#32),
  (0x1B28, 0x640011#32),
  (0x1B2C, 0x640810#32),
  (0x1B30, 0x640810#32),
  (0x1B34, 0x640810#32),
  (0x1B38, 0x640810#32),
  (0x1B3C, 0x640810#32),
  (0x1B40, 0x640810#32),
  (0x1B44, 0x640410#32),
  (0x1B48, 0x1640331#32),
  (0x1B4C, 0x1640331#32),
  (0x1B50, 0x640410#32),
  (0x1B54, 0x640011#32),
  (0x1B58, 0x1640331#32),
  (0x1B5C, 0x640011#32),
  (0x1B60, 0xA0320#32),
  (0x1B64, 0x1640332#32),
  (0x1B68, 0x10110#32),
  (0x1B6C, 0x1640011#32)]

def resetRegs5 : List (Nat × BitVec 32) := [
  (0x1B70, 0x1640331#32),
  (0x1B74, 0x1640341#32),
  (0x1B78, 0x640011#32),
  (0x1B7C, 0x10110#32),
  (0x1B80, 0x640410#32),
  (0x1B84, 0x640410#32),
  (0x1B88, 0x1640011#32),
  (0x1B8C, 0x1640011#32),
  (0x1B90, 0x640011#32),
  (0x1E00, 0x81#32),
  (0x1E04, 0x101#32),
  (0x1E18, 0x8#32),
  (0x1E1C, 0x3388#32),
  (0x1E28, 0x80001388#32),
  (0x200C, 0xC8#32),
  (0x2700, 0x8080#32),
  (0x2704, 0x10102820#32),
  (0x2708, 0x18#32)]

/-- The register values at reset that are not 0. -/
def resetRegs : List (Nat × BitVec 32) :=
  resetRegs0 ++ resetRegs1 ++ resetRegs2 ++ resetRegs3 ++ resetRegs4 ++ resetRegs5

/-- The addresses of the set points owned by CSQ (R177, R245). -/
def shCsq : List Nat := [0x0430, 0x0440, 0x0444, 0x0448, 0x0C00, 0x0C04, 0x0C10, 0x0C14]

/-- The addresses of the set points owned by HSQ (R177, R219, R466). -/
def shHsq : List Nat := [0x0400, 0x0408, 0x040C, 0x0410, 0x0414, 0x0418, 0x041C, 0x0420, 0x0424, 0x0428, 0x042C, 0x044C, 0x0450, 0x0454, 0x0458, 0x0800, 0x0808, 0x080C, 0x0810, 0x0814] ++
  [0x0818, 0x081C, 0x0820, 0x0824, 0x0828, 0x082C, 0x0830, 0x0834, 0x0838, 0x083C, 0x0870, 0x1E1C, 0x1E20, 0x1E24]

/-- The address of a set point (SH, R8). -/
def isSH (a : Nat) : Bool := shCsq.contains a || shHsq.contains a

/-- The reset value of the register at `a` (R568). -/
def resetValue (a : Nat) : BitVec 32 := ((resetRegs.find? (fun p => p.1 == a)).map (·.2)).getD 0

end Sys2Proof.Machine
end

