-- ==== Sys2Proof/Machine/State.lean ====
section
/-!
DEFINITION. The state of the FL6200 as plain data: every register of the index (R568) in one register file, and beside it
the state the manual gives the blocks outside their registers: the frame, the engines, the rings and tags, shared RAM, the
program store, the collector, the FIFOs and the sequences in progress. A value that a register shows stands in the register
file unless the field's comment says otherwise.
-/

namespace Sys2Proof.Machine

/-- Why a command ends in a fault. The model has one member, and no command raises it: the manual makes every error of the
part an effect on its state (safe). -/
inductive Fault where
  /-- Raised by no command (safe). -/
  | none
  deriving DecidableEq, Repr

/-- Why a command has no meaning. -/
inductive Refusal where
  /-- The command of that mnemonic has no meaning in this model yet (safe: it stops). -/
  | notModelled (mnemonic : String)
  deriving DecidableEq, Repr

/-! ## Registers -/

/-- Register contents by address, rising; a register not listed holds 0. -/
abbrev RegFile := List (Nat × Word)

/-- The content of the register at `a`. -/
def regGet : RegFile → Nat → Word
  | [], _ => 0
  | (b, v) :: t, a => if a = b then v else if a < b then 0 else regGet t a

/-- The register file with the register at `a` holding `v`. -/
def regSet : RegFile → Nat → Word → RegFile
  | [], a, v => if v = 0 then [] else [(a, v)]
  | (b, w) :: t, a, v =>
    if a = b then (b, v) :: t
    else if a < b then (if v = 0 then (b, w) :: t else (a, v) :: (b, w) :: t)
    else (b, w) :: regSet t a v

/-! ## Clock and frame (R11-R14, R26-R42) -/

/-- What the frame timer and the clocks hold. -/
structure Clk where
  /-- The frame timer runs (from R106 step 9). -/
  running : Bool
  /-- Frame number FRM (R11). -/
  frm : Word
  /-- Frame index in the superframe, kept by its own counter (R13). -/
  fidx : Nat
  /-- Sub-frame tick of now (R12). -/
  sft : Nat
  /-- Microseconds since power-up at the last frame or boot tick (R14). -/
  us : Nat
  /-- Frames since the first after start-up, for the 80 µs thermal count (R34). -/
  frames : Nat
  /-- A superframe boundary tick has opened the present frame and its own row has not run yet (R32). -/
  sfDue : Bool
  /-- The check-window close or bank swap of that boundary has still to run (R417, R420). -/
  swDue : Bool
  /-- The superframe was shortened by a frame adoption (R33). -/
  shortSf : Bool
  /-- Time has moved to the 10 MHz backup oscillator (R42). -/
  bkosc : Bool
  /-- The time (µs) from which the HFO has passed its monitor since it failed (R51 CLKFAIL). -/
  hfoOkSince : Option Nat
  /-- A valid XI source is present at the ball (R86). -/
  xi : Bool
  deriving DecidableEq, Repr

/-! ## Supplies, fuses and ship mode (R96-R127) -/

/-- Power condition of the part (R68). -/
inductive Power where
  /-- No supply at all: the AO island has lost its state (R103). -/
  | unpowered
  /-- The AO island runs and VCC is not valid (R105). -/
  | aoOnly
  /-- VCC is valid and R106 is under way. -/
  | starting
  /-- Frames run. -/
  | on
  /-- Ship mode (R119). -/
  | ship
  deriving DecidableEq, Repr

/-- A stored option fuse field: two codes, each with its programmed mark (R115). -/
structure FuseCell where
  code0 : Nat
  mark0 : Bool
  code1 : Nat
  mark1 : Bool
  deriving DecidableEq, Repr

/-- Supplies and start-up. -/
structure Sup where
  power : Power
  /-- The VCC path holds VCCIN_H by its own threshold (R97). -/
  hSel : Bool
  /-- Ship flag of the AO island (R120). -/
  shipFlag : Bool
  /-- A ship-mode entry has begun (R120). -/
  shipBegun : Bool
  /-- Boot service is in force (R107). -/
  boot : Bool
  /-- HSQ's set points have gone live since power-on or since Fawn exit, so the HUB follows HSQ (R107, R535). -/
  hsqLive : Bool
  /-- The eleven fuse fields in the order of R113. -/
  fuses : List FuseCell
  /-- HADDR strap code last read (R69). -/
  strap : Nat
  /-- Host address number n of R70. -/
  nAddr : Nat
  /-- FUSE_ERR and UPD_ROLLBACK events to be raised at the first frame (R109, R115, R414): source and detail. -/
  firstFrame : List (Nat × Nat)
  /-- No bank passed at power-on: Fawn mode with cause 0x1 at the end of step 8 (R110). -/
  noBank : Bool
  /-- Fused 1 kHz error toggle: the level swap of the pair (R541). -/
  errSwap : Bool
  /-- WAKE: time (ms of the AO island) of the last accepted press (R125). -/
  wakeLast : Option Nat
  /-- WAKE is held in a press accepted and not ended (R124). -/
  wakeHeld : Bool
  /-- The drive level of the internal generator is ramping to 6 V, or has (R101). -/
  drv6 : Bool
  /-- A fuse write in progress: field, code and sequence of the host command (R116, R483). -/
  fuseBusy : Option (Nat × Nat)
  /-- The feeds of the AO rail as last read (R103). -/
  feeds : AoFeeds
  deriving DecidableEq, Repr

/-! ## Program store (R398-R425) -/

/-- One copy of the bank marker (R413), and its physical bits (R399) that differ from its codewords. -/
structure Marker where
  active : Bool
  trial : Bool
  tbank : Bool
  flips : List Nat
  deriving DecidableEq, Repr

/-- The program store. Bank `b`, byte `a` has key `65536 * b + a`; line `l` of bank `b` has key `1024 * b + l`. -/
structure Store where
  bytes : List Host.Cell
  /-- The physical bits (R399) that differ from the codeword written: line key and bit 0-703. -/
  flips : List (Nat × Nat)
  mk0 : Marker
  mk1 : Marker
  /-- The two copies as they stood before the latest rewrite of the marker, and the time (µs) at which it began: it takes up to
  0.5 ms, copy 0 first (R413, R417). -/
  mkOld : Option (Marker × Marker × Nat)
  /-- The marker copies are to be made whole at the first frame (R413). -/
  mkFix : Bool
  /-- A check window runs (R419). -/
  winOpen : Bool
  /-- Its failed engines so far, as CHKFAIL (R420). -/
  winFail : Nat
  /-- The window follows an image recovery (R423). -/
  winRecovery : Bool
  /-- The clock in which a swap or a rollback last restarted the engines, and the one in which a window was last committed, with its
  winRecovery and the CMTEVT before: a second reset or a watchdog expiry may fall in the same clock (R118, R424). -/
  restartAt : Option Nat
  commitAt : Option (Nat × Bool × Bool)
  /-- The bank left at the swap (R422). -/
  oldBank : Bool
  /-- An arm is being verified (R415). -/
  verifying : Bool
  /-- Next position of the scrub: 0-2047 lines, 2048 and 2049 the marker copies (R407). -/
  scrubPos : Nat
  deriving DecidableEq, Repr

/-! ## Engines (R342-R377) -/

/-- STATE of ENG_STATe (R377). -/
inductive EngPhase where
  | notStarted | running | yielded | stalled | halted | fenced | waiting
  deriving DecidableEq, Repr

/-- A posted store that has not landed (R350). -/
structure SbEntry where
  addr : Nat
  size : Nat
  val : Word
  deriving DecidableEq, Repr

/-- One engine. -/
structure Eng where
  phase : EngPhase
  x : Vector Word 16
  acc : DWord
  /-- The flags register without EXH: bits [4:0] (R355). -/
  flags : Nat
  exh : Bool
  pc : Half
  epc : Half
  cause : Nat
  bad : Half
  sb : List SbEntry
  ct0 : Word
  ct1 : Word
  th0 : Word
  th1 : Word
  /-- ENG_STATe.CAUSE. -/
  statCause : Nat
  double : Bool
  novec : Bool
  excEvt : Bool
  haltEvt : Bool
  /-- The cycles used at the last exception entry, while the handler's first instruction has not executed since (R376). -/
  excAt : Option Nat
  /-- ENG_CTLe.HALT and DBGSEL. -/
  haltReq : Bool
  dbgSel : Nat
  /-- Overruns since power-on (R28). -/
  ovr : Nat
  /-- Cycles used in the present frame, and ENG_CYCe (R369). -/
  cyc : Nat
  cycLast : Nat
  cycMax : Nat
  /-- YIELD executed in the present frame (R26, R27). -/
  yielded : Bool
  /-- Released since the last engine start (R28). -/
  released : Bool
  /-- Code region, entry and vector of the header the engine started from (R344, R371). -/
  cstart : Nat
  cend : Nat
  entry : Nat
  vec : Nat
  /-- The two line buffers: line number and its mark, 0 good, 1 uncorrectable, 2 uncorrectable and reported (R345). -/
  lines : List (Nat × Nat)
  deriving DecidableEq, Repr

/-- The four engines (R21). -/
structure Engs where
  csq : Eng
  hsq : Eng
  pe0 : Eng
  pe1 : Eng
  deriving DecidableEq, Repr

/-! ## Rings and tags (R378-R397) -/

/-- State of a tag that is not FREE (R390). -/
inductive TagSt where
  | queued | running | done | orphan
  deriving DecidableEq, Repr

/-- A tag in use: its operation's record in the ring unit (R382). -/
structure TagRec where
  tag : Nat
  ring : Nat
  st : TagSt
  /-- The 16-byte request as posted. -/
  ent : List Byte
  /-- The completion slot, once DONE. -/
  slot : Nat
  deriving DecidableEq, Repr

/-- What a descriptor was before its last write (R396): the ring, the clock of the write, RNG_CFGn and CWR and CRD before it. -/
structure CfgWas where
  ring : Nat
  clk : Nat
  cfg : Nat
  ptr : Nat × Nat
  deriving DecidableEq, Repr

/-- A completion that was written (R396): its tag, the clock, whether its unit ended by itself, and the bytes its slot held. -/
structure CplWas where
  tag : Nat
  clk : Nat
  own : Bool
  old : List Byte
  deriving DecidableEq, Repr

/-- What happened in the rings last, with its clock, for the coincidences of R396. -/
structure RngSame where
  /-- The tags that a TAKE freed: tag, clock, owner. -/
  freed : List (Nat × Nat × Nat)
  /-- The last POST of a ring: ring, clock. -/
  posted : List (Nat × Nat)
  cfgs : List CfgWas
  ends : List CplWas
  deriving DecidableEq, Repr

/-- The ring unit. -/
structure Rng where
  /-- Tags that are not FREE, in the order of their POSTs. -/
  tags : List TagRec
  /-- CWR and CRD of each ring (R381). -/
  ptr : Vector (Nat × Nat) 32
  /-- The ring each unit served last (R392). -/
  last : Vector Nat 16
  /-- The coincidences of R396. -/
  same : RngSame
  deriving DecidableEq, Repr

/-! ## Faults and the log (R518-R544) -/

/-- An event waiting for the collector (R519): source, class (1 C, 2 U, 3 F), the unit it names (R528) and its detail. -/
structure FEv where
  src : Nat
  cls : Nat
  unit : Option Nat
  det : Nat
  deriving DecidableEq, Repr

/-- An entry of the event log (R537); `us` is TIME. -/
structure LogEnt where
  us : Nat
  typ : Nat
  code : Nat
  frm : Word
  det : Word
  deriving DecidableEq, Repr

/-- An open escalation window (R523): its source, the events counted in it, and the time (µs) at which it closes. -/
structure EscWin where
  src : Nat
  count : Nat
  till : Nat
  deriving DecidableEq, Repr

/-- The last events of a source, for the coincidences of R543: their clock and how many they are in it; SEVEVT and the retained count before
one of them made the source severe; and the unit that one of a severe source fences, with whether it was fenced before. -/
structure EvWas where
  src : Nat
  clk : Nat
  n : Nat
  prom : Option (Bool × Nat)
  unit : Option (Nat × Bool)
  deriving DecidableEq, Repr

/-- The collector and the log. -/
structure Flt where
  /-- Open escalation windows (R523). -/
  wins : List EscWin
  /-- Sources that have written an entry in this superframe (R539). -/
  seenSf : List Nat
  /-- The last 16 history entries, newest first: words A and B (R536). -/
  hist : List (Word × Word)
  /-- Sources whose events applied a safe stop and whose bits hold it in force (R530). -/
  stops : List Nat
  /-- Log entries held, newest first, at most 256 (R537). -/
  log : List LogEnt
  /-- The copy LOG_ENT shows (R540). -/
  logEnt : LogEnt
  /-- An exit from Fawn mode has been accepted and takes effect at the next tick (R535). -/
  exitReq : Bool
  /-- The clock of that acceptance, in ticks of the sub-frame counter since power-up (R543). -/
  exitAt : Nat
  /-- The last Fawn cause: its clock, CAUSE and SRC (R543). -/
  causeAt : Option (Nat × Nat × Nat)
  /-- The last events of each source, with their clock (R543). -/
  last : List EvWas
  /-- Fences whose release waits for the next frame (R528). -/
  relEng : List Nat
  /-- Bytes of registers whose parity bit does not agree with them: address of the byte, and whether it is the live copy's (R522). -/
  parBad : List (Nat × Bool)
  /-- Registers that raised PAR_REG in this frame (R522). -/
  parSeen : List Nat
  deriving DecidableEq, Repr

/-! ## Converter (R129-R177) -/

/-- Leg mode of the cells (R131). -/
inductive Leg where
  | none | legA | band | legB
  deriving DecidableEq, Repr

/-- Why switching is stopped (R167): each reason is lifted only as its own chapter states. -/
inductive StopWhy where
  /-- HBUS_OV (R185). -/
  | hbOv
  /-- PK_OV (R262). -/
  | pkOv
  /-- PK_OC (R263). -/
  | pkOc
  /-- A declared removal, until the state leaves PACK_LOST (R276, R277). -/
  | lost
  /-- TH_HARD (R510). -/
  | thHard
  /-- Driver supply invalid or out of band (R100, R102). -/
  | vdrv
  /-- Ship-mode entry (R120). -/
  | ship
  deriving DecidableEq, Repr

/-- What a cell is in (R129): one of its five states, or the dead time between two, with the switches QkHA, QkLA, QkHB and QkLB that
are on in it (R130). -/
inductive Cell where
  | up | pass | down | circ | off
  | dead (ha la hb lb : Bool)
  deriving DecidableEq, Repr

/-- One phase (R129-R143, R153-R163, R168). -/
structure Phase where
  active : Bool
  /-- Microseconds left of the CIRC before the first cycle (R163). -/
  pre : Nat
  /-- It forces its current toward i_ff / a in a hand-over (R159). -/
  forcing : Bool
  /-- It stops at its next zero crossing (R156, R165). -/
  toZero : Bool
  /-- The state of its cell now, and the intervals of its last cycle with their lengths in taps (R129, R134). -/
  cell : Cell
  seq : List (Cell × Nat)
  /-- Cycles left of the ramp of i_cmd after an add, and before the end of a shed (R156). -/
  rampUp : Nat
  rampDn : Nat
  /-- Drivers low after a gate feedback fault, until DRV is cleared or the fence released (R168). -/
  drvStop : Bool
  /-- Idle after a hard over-current until re-admission (R168). -/
  ocIdle : Bool
  /-- Times (µs) of the hard over-currents of the last millisecond (R168). -/
  ocAt : List Nat
  /-- Consecutive emulator mismatches (R135), frames of imbalance (R168) and peak-limited cycles (R153). -/
  emuCnt : Nat
  imbCnt : Nat
  plCnt : Nat
  /-- Stagger offset reached, in taps, and the one it is moving to (R142, R143). -/
  off : Nat
  offTo : Nat
  /-- Length of its last cycle in taps (R143), and the number in its frame of its next one (R141). -/
  len : Nat
  kcyc : Nat
  /-- Durations of omitted intervals carried into its next cycle, taps (R139). -/
  carryUp : Nat
  carryPass : Nat
  carryDown : Nat
  /-- Cycles since the last bootstrap refresh (R136), and taps since the last of an idle phase (R163). -/
  refresh : Nat
  idle : Nat
  /-- Consecutive cycles below the threshold of its two floating supplies, and the high-side drivers held low for it (R79). -/
  uvA : Nat
  uvB : Nat
  holdA : Bool
  holdB : Bool
  /-- Its last peak command in mA, its inductor current in µA as sensed or emulated, and the ripple of the emulator's last
  cycle in µA (R135, R137). -/
  cmd : Int
  iL : Int
  ripple : Nat
  deriving DecidableEq, Repr

/-- The converter. Currents and bounds of the selector are in mA/65536. -/
structure Pwr where
  phases : Vector Phase 6
  /-- i_sel (R149). -/
  iSel : Int
  /-- Integrators of the loops CC, CV, input current, HBUS minimum, HBUS hold, discharge limit (R148). -/
  integ : Vector Int 6
  /-- soft_start_ceiling; none once released (R166). -/
  ss : Option Int
  /-- Ceiling on reverse current of a pack start (R585); none outside one. -/
  rss : Option Int
  /-- en_ceiling; none while EN places no bound (R165). -/
  enc : Option Int
  /-- The hand-back ramp of the hold bound: bound at its start, µs run, µs in all (R162). -/
  hbRamp : Option (Int × Nat × Nat)
  /-- The ramp to unfed of R214: lower bound at its start and µs run of its 1,000. -/
  unfedRamp : Option (Int × Nat)
  stops : List StopWhy
  leg : Leg
  /-- The samples (V_PK, V_HB) of the last 8 cycles, newest first (R131). -/
  ratios : List (Nat × Nat)
  /-- D_B in 1/10000: where its ramp started, where it goes, cycles left of 32 (R132). -/
  dbFrom : Nat
  dbTo : Nat
  dbLeft : Nat
  /-- Light-load mode was entered by the 16 µs rule, not by a case of R140. -/
  llEnt : Bool
  /-- Frequency multiple and stagger offset in effect (R141, R143). -/
  mEff : Nat
  gEff : Nat
  /-- The first forward cycles after a stop are running (R164). -/
  llCase : Bool
  /-- i_ff of the hand-over in its steps 1 to 4, mA (R160). -/
  ff : Int
  /-- The latest fast-path samples: V_PK mV, V_HB mV, V_CS mV, pack current mA, HBUS input current mA (R147). -/
  vPk : Nat
  vHb : Nat
  vCs : Nat
  iPk : Int
  iHb : Int
  /-- V_PK mV and the pack current mA of the last 10 µs, newest first (R275). -/
  hist : List (Nat × Int)
  /-- Consecutive frames with the total current below the shed threshold, up to 255, and whether the present frame has left it (R153). -/
  shedCnt : Nat
  shedBad : Bool
  deriving DecidableEq, Repr

/-! ## Sources and HBUS (R178-R219, R585) -/

/-- One source port. Its STATE, TYPE and counts stand in HUB_PSTATk. -/
structure Port where
  /-- Consecutive measurements in and out of the window, up to 2 (R181). -/
  inCnt : Nat
  outCnt : Nat
  /-- Times (µs) of the loss events inside FWIN, newest first (R193). -/
  losses : List Nat
  /-- Last measured voltage, mV (R181). -/
  mv : Nat
  /-- The qualification timer in steps of 10 µs (R195). -/
  qual : Nat
  deriving DecidableEq, Repr

/-- A hand-back in progress (R204). -/
structure HandBack where
  port : Nat
  /-- Step 2 reached: the gate ramps. -/
  closing : Bool
  /-- V_S at its start, mV. -/
  vs : Nat
  /-- The port's voltage as its pair closes in step 2, mV (R183). -/
  vc : Nat
  deriving DecidableEq, Repr

/-- The power path. -/
structure Hub where
  ports : Vector Port 4
  /-- A hand-over hold is in progress; the port it lost, none for a planned release; whether it counts (R199). -/
  ho : Option (Option Nat × Bool)
  /-- The ports in LOST after a loss that left HBUS unfed (R200), or until a direct transfer ends, oldest first. -/
  lostUnfed : List Nat
  hb : Option HandBack
  /-- Hold reference in force, mV (R204). -/
  holdRef : Nat
  /-- HBUS_FALL and HBUS_SAG are armed (R183); the time of the close they wait from. -/
  detArmed : Bool
  closeUs : Nat
  /-- V_REF, mV (R183). -/
  vref : Nat
  /-- The hold reference is on its way back to HBUS_HOLD after a hand-back that ended in step 1 (R206). -/
  hbBack : Bool
  /-- The carrying port carried through the whole of the present frame so far (R183, R152). -/
  carriedAll : Bool
  /-- HBUS average of the last complete source-carried frame since power-on, mV (R107, R113, R152). -/
  autoHold : Option Nat
  /-- A sag shed holds the upper bound at 0 (R210). -/
  shed : Bool
  /-- The pack has been below its floor for 1 ms and not above floor + 2 % since (R198). -/
  belowFloor : Bool
  /-- HBUS_OV, HBUS_UV in force (R185). -/
  ovOn : Bool
  uvOn : Bool
  /-- SID: bin of the last reads, their count up to 5, time (µs) of the last accepted change, reads outside bin 0 while
  stuck, a merged change waiting (R187, R188). -/
  sidCand : Nat
  sidCnt : Nat
  sidAt : Option Nat
  sidOut : Nat
  sidMerge : Bool
  /-- S0's type code by its identity, kept through a derate request (R187). -/
  s0Type : Nat
  /-- S1 output: times (µs) of its openings, EN ignored until written again, the 1 s before a re-entry runs, and the re-entries
  since EN was written (R216, R217). -/
  s1Opens : List Nat
  s1Block : Bool
  s1Wait : Bool
  s1Tries : Nat
  /-- Fawn mode was entered in a hand-over, its hold or a hand-back, which HSQ's values govern to its end (R202). -/
  keep : Bool
  deriving DecidableEq, Repr

/-! ## Charge control (R244-R282) -/

/-- Position of PK_DG (R259, R260). -/
inductive Dg where
  /-- Driven open. -/
  | open'
  /-- Step 2 of R259: the converter side is being pre-charged. -/
  | precharge
  /-- Step 3: the gate ramps. -/
  | gating
  /-- Closed, DGCL set. -/
  | closed
  /-- Closed, the pack current ramping to zero before an ordinary opening (R260). -/
  | opening
  deriving DecidableEq, Repr

/-- A lamp: the pattern of R279 in its register code (0 off, 1 on, 2 1 Hz, 3 4 Hz, 4 code n), n, the present
interval counted from the pattern's start, and the output. -/
structure Lamp where
  pat : Nat
  n : Nat
  iv : Nat
  on : Bool
  deriving DecidableEq, Repr

/-- Charge state hardware. STATE, RESUME, PREV, the latch and the timers stand in the CHG registers. -/
structure Chg where
  dg : Dg
  /-- PK_DG is closed by the hardware for boot service or Fawn mode (R108). -/
  dgBoot : Bool
  /-- A current ramp to 0 (R254): mA at its start and µs run of its 500. -/
  ramp : Option (Nat × Nat)
  /-- HW rows of R254 that wait for the next tick: row and fault cause (R255). -/
  hwq : List (Nat × Nat)
  /-- PK_OV, PK_OC, TH_STOP, TH_HARD in force. -/
  ovOn : Bool
  ocOn : Bool
  tstopOn : Bool
  thardOn : Bool
  /-- When (µs) PK_OC ceased to be in force (R256). -/
  ocOff : Nat
  /-- V_entry, mV (R252). -/
  vEntry : Nat
  /-- When (µs) the last recovery attempt ended, and the present state was entered. -/
  attEnd : Option Nat
  since : Nat
  /-- A removal's tick actions are due (R276 step 4). -/
  lostPend : Bool
  /-- Microseconds of step 2 of R259. -/
  preUs : Nat
  /-- The time (µs) at which PK_OC opened a closed PK_DG (R278). -/
  ocUs : Option Nat
  /-- A latch is running, and the state has left those of a latch since (R248, R278). -/
  latPend : Bool
  latGone : Bool
  /-- A band accepted for the next tick (R266). -/
  bandPend : Option Nat
  /-- The raw band of the latest temperature (R264). -/
  bandRaw : Nat
  /-- PKP_RTEMP has been written and not gone stale, and the time (µs) of its last write (R265). -/
  rtFresh : Bool
  rtUs : Nat
  /-- V_OV in force and the lower one that applies 20 µs after the tick, mV (R262). -/
  vov : Nat
  vovNext : Option Nat
  /-- Sums over the frames of this superframe: I_prog mA, I_del in 0.1 mA, frames, frames with f_T = 0.5 (R270). -/
  sProg : Nat
  sDel : Int
  sFrames : Nat
  sHalf : Nat
  sRed : Bool
  /-- Which timers had their state in force: precharge, fast, top-off (R269). -/
  sPre : Bool
  sFast : Bool
  sTop : Bool
  /-- µs of this frame with GOV at input current, HBUS minimum or thermal, and with CAPGOV (R268). -/
  fGov : Nat
  fCap : Nat
  /-- A sag shed held ub in this frame, and a hand-over step or hold stood in it (R268, R299). -/
  fShed : Bool
  fHold : Bool
  /-- Frame-average pack voltage of the last ended frame, mV (R261). -/
  vAvg : Nat
  lamp0 : Lamp
  lamp1 : Lamp
  deriving DecidableEq, Repr

/-! ## Pack port and pack bus (R312-R341) -/

/-- One pack pin, PKT or PKI. -/
structure PkPin where
  /-- The open comparator reads open (R316); its level before acceptance. -/
  openNow : Bool
  /-- Presence accepted through the 1 ms filter. -/
  filt : Bool
  /-- Time (µs) of the last accepted change (R316). -/
  lastUs : Option Nat
  /-- A merged change waits for the end of the 10 ms. -/
  merge : Bool
  /-- The short band of the pin no longer counts as presence (R316). -/
  stuck : Bool
  /-- Time (µs) at which readings outside short began, while stuck. -/
  outUs : Option Nat
  deriving DecidableEq, Repr

/-- A pin sequencer (R322-R326). -/
structure Seq where
  tx : List Word
  rx : List Word
  /-- The cell executing. -/
  run : Option Word
  deriving DecidableEq, Repr

/-- The pack port. -/
structure Pk where
  pkt : PkPin
  pki : PkPin
  /-- Bin of the last reads and their count (R315). -/
  binCand : Nat
  binCnt : Nat
  seq0 : Seq
  seq1 : Seq
  /-- Filtered levels of PKD and PKC (R88). -/
  lvlD : Bool
  lvlC : Bool
  /-- The last write of PKP_OWN by a pin engine: the engine's code, its clock in 10 ns, and what PKP_OWN read before it (R320). -/
  ownLast : Option (Nat × Nat × Nat)
  deriving DecidableEq, Repr

/-- The pack bus controller. Its registers hold BUSY, BUS, IDX and the counters. -/
structure Pkb where
  /-- The bus state is unknown, so recovery runs before the next START (R331). -/
  unknown : Bool
  /-- Retries made for lost arbitration in the transaction under way (R330). -/
  retries : Nat
  /-- The time (µs) at which arbitration was lost in a STOP or repeated START (R330). -/
  arbUs : Option Nat
  /-- The wire bytes PKB last sent and received, for the bus's other side to see. -/
  wire : List Byte
  deriving DecidableEq, Repr

/-! ## The impedance unit (R283-R302) -/

/-- One point of a sweep descriptor (R293). -/
structure ImpPt where
  grp : Nat
  h : Nat
  d : Nat
  amp : Nat
  ncyc : Nat
  lead : Nat
  deriving DecidableEq, Repr

/-- The sums of a tone's lock-in (R284) over the window so far: pack voltage and shunt voltage times cosine and sine, in their units
times 2^30. -/
structure ImpSum where
  vr : Int
  vi : Int
  sr : Int
  si : Int
  deriving DecidableEq, Repr

/-- A running sweep. The frames since F_g stand in IMP_ELAP. -/
structure ImpJob where
  tag : Nat
  pts : List ImpPt
  retryEn : Bool
  cont : Bool
  resAddr : Nat
  /-- The group starts at the next frame tick. -/
  startPend : Bool
  /-- Index of the first point of the running group. -/
  first : Nat
  /-- Amplitudes of the group's tones as the descriptor gives them, mA; in force is the share of each in A_pk (R286, R287). -/
  amps : List Nat
  /-- The lock-ins of its tones. -/
  sums : List ImpSum
  /-- The effective current at the last tick, mA (R287). -/
  ieff : Nat
  /-- The pack temperature at the group's start (R299). -/
  temp0 : Nat
  /-- The group's STEP, INTR and CLIP conditions so far (R299). -/
  step : Bool
  intr : Bool
  clip : Bool
  /-- 1 µs updates of the integration, and those a bound other than CC governed (R299 GOV). -/
  us : Nat
  govUs : Nat
  /-- The running group has been repeated (R300). -/
  retried : Bool
  nDone : Nat
  nRetry : Nat
  /-- Some record was written with VALID 0. -/
  bad : Bool
  /-- CANCEL waits for the tick (R302). -/
  cancel : Bool
  deriving DecidableEq, Repr

/-- The impedance unit. -/
structure Imp where
  job : Option ImpJob
  /-- A_pk and i_c of the running group in 0.1 mA (R285-R287); IMP_APK and IMP_IC show them in whole mA. -/
  apk : Nat
  ic : Nat
  /-- A job has become ORPHAN, and IMP_STAT.OUTCOME reports it from the next tick (R302). -/
  orphan : Bool
  /-- The live PWR_FSW went live while the job runs, whose end it waits for (R290). -/
  fswWait : Bool
  deriving DecidableEq, Repr

/-! ## Thermal management and the watchdog (R492-R517) -/

/-- Thermal management. Sensor values, maxima and stops in force stand in the THM registers. -/
structure Thm where
  /-- The present frame is a graze frame by its index (R513). -/
  graze : Bool
  /-- It has had its effect: a source carried HBUS in it (R511). -/
  grazed : Bool
  /-- The largest group maximum of this superframe, 0.125 °C; none while unknown (R512). -/
  gSeen : Option Int
  /-- Consecutive updates of each sensor against its present validity, up to 4 (R506). -/
  cnt : Vector Nat 12
  /-- The 80 µs count of this frame has still to be taken (R34). -/
  due : Bool
  /-- Since when (µs) the die maximum and the group maximum lie below the release of TH_STOP, and the die maximum below that of
  TH_HARD (R508); none while they do not. -/
  coolDie : Option Nat
  coolGrp : Option Nat
  coolHard : Option Nat
  deriving DecidableEq, Repr

/-- What the collector held of WDG_BAD before the first bad service of a clock (R501): its pending and severe bits, SEVEVT, NOTEVT,
HST_NPEND.FAULT, its retained count, its window, and whether it had written an entry in this superframe. -/
structure WdgEv where
  pend : Bool
  sev : Bool
  sevEvt : Bool
  notEvt : Bool
  fault : Bool
  rt : Nat
  win : Option EscWin
  seen : Bool
  deriving DecidableEq, Repr

/-- The watchdog. RUN, OPEN, BADCNT, KEYLK, Q and CHKD stand in the WDG registers. -/
structure Wdg where
  /-- LFO cycles of the running period, and its start, µs (R492). -/
  cyc : Nat
  start : Nat
  /-- The task registration of the running period (R500). -/
  task : Word
  /-- KEY (R496). -/
  key : Word
  /-- Times (µs) of the last expiries, newest first (R502). -/
  exps : List Nat
  /-- It ran when Fawn mode was entered (R502). -/
  wasRun : Bool
  /-- The clock of the last expiry (R501). -/
  endAt : Option Nat
  deriving DecidableEq, Repr

/-! ## Timer array (R545-R559) -/

/-- One channel. Its counter, value in force, capture and output level stand in its registers. -/
structure TmrCh where
  /-- The prescaler's accumulator (R546). -/
  acc : Nat
  /-- The staged compare value (R555). -/
  stage : Option Word
  deriving DecidableEq, Repr

/-- The timer array. -/
structure Tmr where
  chans : Vector TmrCh 8
  deriving DecidableEq, Repr

/-! ## Type-C sink port (R220-R243) -/

/-- A message the port sends and has not had acknowledged (R227). -/
inductive TcpMsg where
  | request (rdo : Word)
  | eprRequest (rdo pdo : Word)
  | getSourceCap
  | eprEnter (obj : Word)
  | eprExit
  | softReset
  | accept
  | notSupported
  | keepAlive
  deriving DecidableEq, Repr

/-- Power asked for or agreed: AVS, object position, current in 10 mA, voltage in 10 mV (R232). -/
structure TcpDeal where
  avs : Bool
  pos : Nat
  i : Nat
  v : Nat
  deriving DecidableEq, Repr

/-- What a running SenderResponseTimer waits for (R228, R230, R237). -/
inductive TcpWait where
  | none
  /-- A Request must leave after received capabilities. -/
  | request
  /-- The reply to Request or EPR_Request. -/
  | reply
  deriving DecidableEq, Repr

/-- The protocol hardware. Attach, contract, EPR, BUSY and the result stand in the TCP registers. -/
structure Tcp where
  /-- Level band of the last Rp reads, and their count up to 10 (R223). -/
  rpCand : Nat
  rpCnt : Nat
  /-- The data objects of the capabilities last received, and whether they were EPR_Source_Capabilities. -/
  caps : List Word
  capsEpr : Bool
  /-- Message sent and not acknowledged, with the retries made; it is HSQ's command; the messages that leave after it, each with
  that mark. -/
  tx : Option (TcpMsg × Nat)
  txCmd : Bool
  txq : List (TcpMsg × Bool)
  /-- MessageID of the next message, of the last message received, and of the last GoodCRC sent (R227). -/
  txId : Nat
  rxId : Option Nat
  ack : Option Nat
  /-- Sink-initiated messages held until RPLVL reads 0b11 (R224). -/
  held : List (TcpMsg × Bool)
  /-- A Request that waits for S3 to leave CARRY (R234). -/
  defer : Option (TcpMsg × Bool)
  /-- The deal of the Request that has been sent and not answered, and whether HSQ's command asked for it (R228). -/
  asked : Option (TcpDeal × Bool)
  /-- The deal accepted and not yet in force, from Accept to PS_RDY, with the same mark (R232, R233). -/
  trans : Option (TcpDeal × Bool)
  wait : TcpWait
  /-- The reply to EPR_Mode (Enter) is awaited, beside whatever else is (R228, R236). -/
  enterWait : Bool
  /-- EPR_KeepAlive_Ack is awaited (R237). -/
  kaWait : Bool
  /-- Source_Capabilities are awaited (R229), the hard resets sent for want of them, and sending has stopped. -/
  waitCap : Bool
  hrCnt : Nat
  stopped : Bool
  /-- Enter Acknowledged has been received and Enter Succeeded not yet (R236). -/
  eprWait : Bool
  /-- S3's type stays 0x0 until the source restores vSafe5V; it has removed VBUS (R240). -/
  hrOff : Bool
  hrGone : Bool
  deriving DecidableEq, Repr

/-! ## Herd Link (R426-R466) -/

/-- A slot of a transmit ring in use (R455): class, slot, MSEQ, PEER, LEN, and the frame of its send once on the wire. -/
structure LnkTx where
  cls : Nat
  slot : Nat
  mseq : Nat
  peer : Nat
  len : Nat
  sent : Option Word
  deriving DecidableEq, Repr

/-- The latest budget record the node placed (R446, R449). -/
structure LnkRec where
  pri : Nat
  req : Nat
  deriving DecidableEq, Repr

/-- The Herd Link. Role, lock, membership, levels and the ring term in force stand in the LNK registers. -/
structure Lnk where
  /-- Address of the lead that the CRCs are folded with (R436). -/
  lead : Nat
  /-- Own latency as measured, taps (R439). -/
  lat : Nat
  /-- HOPC and HOPD, newest first, of the beacons of a measurement under way; once trained, of the beacons in a row that hold one
  changed HOPC (R439). -/
  hops : List (Nat × Nat)
  /-- HOPC and D have been measured since training began (R438 step 3). -/
  trained : Bool
  /-- FRM and frame index of the last valid beacon, and the clock of it, in sub-frame ticks (R436, R441); of a lead, FRM of its last
  header. -/
  bfrm : Word
  bidx : Nat
  bclk : Nat
  /-- FRM and frame index to adopt at the next tick (R33). -/
  adopt : Option (Word × Nat)
  /-- The lead has changed, and its FRM is to be adopted at the next aligned tick (R33, R443). -/
  readopt : Bool
  /-- Taps by which the present frame is lengthened, 0 where it is not, and what is left to move the tick by after it (R36, R440). -/
  stretch : Int
  moveLeft : Int
  /-- Cadence and cadence phase (R446). -/
  cad : Nat
  cph : Nat
  /-- A ring term that goes live at the next tick, of a beat in double beat: SRC and value (R448). -/
  term : Option (Nat × Nat)
  lrec : Option LnkRec
  /-- The live LNK_REQ at the tick that opened the frame, or the beat (R446). -/
  beatReq : LnkRec
  /-- The beacon is lost (R461), or the lead's own headers (R462). -/
  lost : Bool
  /-- A sag shed since the last record (R435). -/
  sag : Bool
  /-- Frames of roll-call records left, counted from the order (R444). -/
  roll : Nat
  /-- OSEQ of the last order acted on (R433). -/
  oseq : Option Nat
  /-- Consecutive frames in which the node's own claim returned, and whether it has in this frame (R442). -/
  claims : Nat
  claimBack : Bool
  /-- JOINW of the command slot of this frame: message slot 0 stays free (R441). -/
  joinw : Bool
  /-- Lead: N of the header last returned. -/
  nRet : Nat
  /-- DBLNEXT of the commands of this superframe: as the lead sends it, or as a node last received it (R433, R453). -/
  dblNext : Bool
  /-- Lead: a roll call is due; its order waits for the next command slot. -/
  rollDue : Bool
  rollSend : Bool
  /-- Lead: the table of index, address and UID16 (R444), the latest accepted record of each index, and the consecutive
  discards of each index. -/
  table : List (Nat × Nat × Nat)
  recs : List (Nat × Nat)
  badRecs : List (Nat × Nat)
  /-- Lead: ASSIGN orders to send: index, address, UID16 (R445). -/
  assigns : List (Nat × Nat × Nat)
  oseqOut : Nat
  /-- Slots of the transmit rings in use, in order of queueing; received slots, oldest first: class, slot, and whether the
  message was sent to all; the place from which each of RNG24-RNG31 looks for its next slot. -/
  txq : List LnkTx
  rxq : List (Nat × Nat × Bool)
  nxt : Vector Nat 8
  mseq : Nat
  /-- Lead: messages to relay, at most 32 (R457). -/
  relay : List (List Byte)
  /-- What the node last put on the wire: a beacon with any command slot and record space, its record and the record's position,
  a message. -/
  outHdr : List Byte
  outRec : List Byte
  outPos : Nat
  outMsg : List Byte
  deriving DecidableEq, Repr

/-! ## Host interface (R467-R491) -/

/-- The host interface. Its result, pending causes and counters stand in the HST registers. -/
structure Hst where
  /-- The pointer of the pointer-mode target (R469). -/
  ptr : Nat
  /-- Bits of HST_NPEND sent since they were last cleared (R486). -/
  sent : Nat
  /-- The repeat interval has ended with causes still pending (R486). -/
  rep : Bool
  /-- Arbitration losses of the Host Notify under way (R488). -/
  tries : Nat
  /-- Acknowledgements of the last host transaction, in order, and the bytes it was given (R473, R479, R480). -/
  acks : List Bool
  out : List Byte
  /-- The bytes of the last Host Notify (R487). -/
  wire : List Byte
  deriving DecidableEq, Repr

/-! ## The whole state -/

/-- What the FL6200 holds, the watchdog's record of a clock and the waiting commands apart. -/
structure Block where
  /-- The registers as they read; for a set point, its shadow (R8). -/
  regs : RegFile
  /-- The live values of the set points (R8, R26). -/
  live : RegFile
  /-- Pending marks: the set point, and whether the host wrote it (R27). -/
  marks : List (Nat × Bool)
  /-- Frame and clocks. -/
  clk : Clk
  /-- Supplies, fuses, ship mode. -/
  sup : Sup
  /-- The program store. -/
  store : Store
  /-- The engines. -/
  engs : Engs
  /-- The ring unit. -/
  rng : Rng
  /-- Shared RAM, 0x4000-0x7FFF; an unlisted byte reads 0 (R47). -/
  mem : List Host.Cell
  /-- Words of shared RAM with a stored error: 1 single bit, 2 uncorrectable (R351). -/
  ramErr : List (Nat × Nat)
  /-- The collector and the log. -/
  flt : Flt
  /-- Events raised in this clock and not yet handled (R519). -/
  evq : List FEv
  /-- Log entries of this clock not yet written (R537, R539). -/
  logq : List LogEnt
  /-- The converter. -/
  pwr : Pwr
  /-- The power path. -/
  hub : Hub
  /-- Charge control. -/
  chg : Chg
  /-- The pack port. -/
  pk : Pk
  /-- The pack bus controller. -/
  pkb : Pkb
  /-- The impedance unit and its ADC. -/
  imp : Imp
  /-- Thermal management. -/
  thm : Thm
  /-- The watchdog. -/
  wdg : Wdg
  /-- The timer array. -/
  tmr : Tmr
  /-- The Type-C port. -/
  tcp : Tcp
  /-- The Herd Link. -/
  lnk : Lnk
  /-- The host bus. -/
  hst : Hst
  /-- The model's own: the number of free values used so far; each use applies a constant of Config to it and advances it. -/
  seed : Nat
  deriving DecidableEq, Repr

/-- The first service or bad check-in of a clock, and what the part held before it: a service in the clock of the end of the period loses to
the expiry (R501), and a check-in or a write of WDG_PER in it has its place (R503). -/
structure WdgBack where
  clk : Nat
  was : Block
  /-- The tokens of the services of this clock, and its check-ins from that first one on, each in order. -/
  svcs : List Word
  chks : List (Option EngId × Nat)
  /-- One of the services was valid. -/
  valid : Bool
  /-- The third bad service of the period has made it expire. -/
  done : Bool
  /-- The bad services of this clock, the entries that they made, and what the collector held before the first. -/
  bads : Nat
  ents : Nat
  ev : Option WdgEv
  deriving DecidableEq, Repr

/-- The FL6200. -/
structure State extends Block where
  /-- The watchdog's record of the last clock with a service or a bad check-in (R501, R503). -/
  wback : Option WdgBack
  /-- The commands waiting, first in, first out. -/
  pending : List Instr
  deriving DecidableEq, Repr

/-! ## Reset values -/

/-- The clocks before VCC is valid (R106). -/
def Clk.reset : Clk :=
  { running := false, frm := 0, fidx := 0, sft := 0, us := 0, frames := 0, sfDue := false, swDue := false,
    shortSf := false, bkosc := false, hfoOkSince := none, xi := false }

/-- Supplies right after the AO power-on: VCC is not valid yet, no fuse is programmed (R105, R113). -/
def Sup.reset : Sup :=
  { power := .aoOnly, hSel := false, shipFlag := false, shipBegun := false, boot := false, hsqLive := false,
    fuses := List.replicate 11 ⟨0, false, 0, false⟩, strap := 7, nAddr := 7,
    firstFrame := [], noBank := false, errSwap := false, wakeLast := none, wakeHeld := false,
    drv6 := false, fuseBusy := none, feeds := ⟨0, 0, 0, 0⟩ }

/-- A store as the model ships it: both banks never programmed, the marker naming bank 0. -/
def Store.reset : Store :=
  { bytes := [], flips := [], mk0 := ⟨false, false, false, []⟩, mk1 := ⟨false, false, false, []⟩,
    mkOld := none, mkFix := false,
    winOpen := false, winFail := 0, winRecovery := false, restartAt := none, commitAt := none, oldBank := false, verifying := false
    scrubPos := 0 }

/-- An engine that has not started (R343, R377). -/
def Eng.reset : Eng :=
  { phase := .notStarted, x := Vector.replicate 16 0, acc := 0, flags := 0, exh := false, pc := 0, epc := 0,
    cause := 0, bad := 0, sb := [], ct0 := 0, ct1 := 0, th0 := 0, th1 := 0, statCause := 0, double := false,
    novec := false, excEvt := false, haltEvt := false, excAt := none, haltReq := false, dbgSel := 0, ovr := 0, cyc := 0,
    cycLast := 0, cycMax := 0, yielded := false, released := false, cstart := 0, cend := 0, entry := 0, vec := 0,
    lines := [] }

/-- Four engines not started. -/
def Engs.reset : Engs := ⟨Eng.reset, Eng.reset, Eng.reset, Eng.reset⟩

/-- Every tag FREE (R390). -/
def Rng.reset : Rng := { tags := [], ptr := Vector.replicate 32 (0, 0), last := Vector.replicate 16 23, same := ⟨[], [], [], []⟩ }

/-- An empty collector and log. -/
def Flt.reset : Flt :=
  { wins := [], seenSf := [], hist := [], stops := [], log := [], logEnt := ⟨0, 0, 0, 0, 0⟩, exitReq := false, exitAt := 0,
    causeAt := none, last := [], relEng := [], parBad := [], parSeen := [] }

/-- A phase that does not switch. -/
def Phase.reset : Phase :=
  { active := false, pre := 0, forcing := false, toZero := false, cell := .off, seq := [], rampUp := 0, rampDn := 0
    drvStop := false, ocIdle := false, ocAt := [], emuCnt := 0, imbCnt := 0, plCnt := 0, off := 0, offTo := 0, len := 0, kcyc := 0
    carryUp := 0, carryPass := 0, carryDown := 0, refresh := 0, idle := 0, uvA := 0, uvB := 0, holdA := false, holdB := false
    cmd := 0, iL := 0, ripple := 0 }

/-- A converter that does not switch. -/
def Pwr.reset : Pwr :=
  { phases := Vector.replicate 6 Phase.reset, iSel := 0, integ := Vector.replicate 6 0, ss := some 0, rss := none,
    enc := some 0, hbRamp := none, unfedRamp := none, stops := [], leg := .none, ratios := [], dbFrom := 10000,
    dbTo := 10000, dbLeft := 0, llEnt := false, mEff := 4, gEff := 0, llCase := true, ff := 0,
    vPk := 0, vHb := 0, vCs := 0, iPk := 0, iHb := 0, hist := [], shedCnt := 0, shedBad := false }

/-- A power path with no source seen. -/
def Hub.reset : Hub :=
  { ports := Vector.replicate 4 ⟨0, 0, [], 0, 0⟩, ho := none, lostUnfed := [], hb := none, holdRef := 12000,
    detArmed := false, closeUs := 0, vref := 0, hbBack := false, carriedAll := false, autoHold := none,
    shed := false, belowFloor := false, ovOn := false, uvOn := false, sidCand := 8, sidCnt := 0, sidAt := none,
    sidOut := 0, sidMerge := false, s0Type := 1, s1Opens := [], s1Block := false
    s1Wait := false, s1Tries := 0, keep := false }


/-- A lamp that is off. -/
def Lamp.reset : Lamp := ⟨0, 1, 0, false⟩

/-- IDLE with PK_DG open (R252, R257). -/
def Chg.reset : Chg :=
  { dg := .open', dgBoot := false, ramp := none, hwq := [], ovOn := false, ocOn := false, tstopOn := false,
    thardOn := false, ocOff := 0, vEntry := 0, attEnd := none, since := 0, lostPend := false, preUs := 0
    ocUs := none, latPend := false, latGone := false, bandPend := none,
    bandRaw := 7, rtFresh := false, rtUs := 0, vov := 88000, vovNext := none, sProg := 0, sDel := 0,
    sFrames := 0, sHalf := 0, sRed := false, sPre := false, sFast := false, sTop := false, fGov := 0, fCap := 0,
    fShed := false, fHold := false, vAvg := 0, lamp0 := Lamp.reset, lamp1 := Lamp.reset }


/-- A pin seen open. -/
def PkPin.reset : PkPin := ⟨true, false, none, false, false, none⟩

/-- Empty FIFOs. -/
def Seq.reset : Seq := ⟨[], [], none⟩

/-- A pack port that has seen no pack. -/
def Pk.reset : Pk :=
  { pkt := PkPin.reset, pki := PkPin.reset, binCand := 0, binCnt := 0, seq0 := Seq.reset, seq1 := Seq.reset,
    lvlD := true, lvlC := true, ownLast := none }

/-- A pack bus controller whose bus has not been seen. -/
def Pkb.reset : Pkb := { unknown := false, retries := 0, arbUs := none, wire := [] }


/-- No sweep runs. -/
def Imp.reset : Imp := { job := none, apk := 0, ic := 0, orphan := false, fswWait := false }


/-- No graze frame, no stop, no reading yet (R517). -/
def Thm.reset : Thm :=
  { graze := false, grazed := false, gSeen := none, cnt := Vector.replicate 12 0, due := false, coolDie := none, coolGrp := none,
    coolHard := none }

/-- A stopped watchdog (R493, R496). -/
def Wdg.reset : Wdg := { cyc := 0, start := 0, task := 0, key := 0, exps := [], wasRun := false, endAt := none }

/-- Cleared accumulators, no staged value. -/
def Tmr.reset : Tmr := ⟨Vector.replicate 8 ⟨0, none⟩⟩

/-- A port that has seen no source. -/
def Tcp.reset : Tcp :=
  { rpCand := 0, rpCnt := 0, caps := [], capsEpr := false, tx := none, txCmd := false, txq := [], txId := 0, rxId := none
    ack := none, held := [], defer := none, asked := none, trans := none, wait := .none, enterWait := false, kaWait := false, waitCap := false
    hrCnt := 0, stopped := false, eprWait := false, hrOff := false, hrGone := false }

/-- A node that has heard nothing. -/
def Lnk.reset : Lnk :=
  { lead := 0, lat := 0, hops := [], trained := false, bfrm := 0, bidx := 0, bclk := 0, adopt := none, readopt := false, stretch := 0, moveLeft := 0,
    cad := 1, cph := 0,
    term := none, lrec := none, beatReq := ⟨1, 5000⟩, lost := false, sag := false, roll := 0, oseq := none, claims := 0, claimBack := false,
    joinw := false, nRet := 0,
    dblNext := false, rollDue := false, rollSend := false, table := [], recs := [], badRecs := [], assigns := [],
    oseqOut := 0, txq := [], rxq := [], nxt := Vector.replicate 8 0, mseq := 0, relay := [], outHdr := [],
    outRec := [], outPos := 0, outMsg := [] }

/-- A host interface that has seen no transaction. -/
def Hst.reset : Hst := { ptr := 0, sent := 0, rep := false, tries := 0, acks := [], out := [], wire := [] }

/-- The part right after an AO power-on, VCC not yet valid: every register at its reset value (R105, R568). -/
def State.reset : State :=
  { pending := [],
    wback := none,
    regs := resetRegs,
    live := resetRegs.filter (fun p => isSH p.1),
    marks := [],
    clk := Clk.reset,
    sup := Sup.reset,
    store := Store.reset,
    engs := Engs.reset,
    rng := Rng.reset,
    mem := [],
    ramErr := [],
    flt := Flt.reset,
    evq := [],
    logq := [],
    pwr := Pwr.reset,
    hub := Hub.reset,
    chg := Chg.reset,
    pk := Pk.reset,
    pkb := Pkb.reset,
    imp := Imp.reset,
    thm := Thm.reset,
    wdg := Wdg.reset,
    tmr := Tmr.reset,
    tcp := Tcp.reset,
    lnk := Lnk.reset,
    hst := Hst.reset,
    seed := 0 }

end Sys2Proof.Machine
end

