-- ==== Sys2Proof/Machine/CellOps.lean ====
section
/-!
DEFINITION. One switching cycle of one cell (R129-R140, R168): the states of a cell and the switches each turns on, the order of
a cycle's intervals by leg mode and direction, the end of the controlled interval at the peak command, dead times, omitted
intervals, the refresh of the bootstraps, light-load ends and the negative-excursion limit; and the forcing of a hand-over
(R159, R161). Time is in taps of 625 ps, current in units of 1 µA / (8 × LPH), LPH in 0.1 µH, so that one tap under one mV
adds exactly 50.
-/

namespace Sys2Proof.Machine

open Sys2Proof

/-! ## Cell states (R129, R130) -/

/-- The switches QkHA, QkLA, QkHB and QkLB that a state turns on (R129). -/
def Cell.switches : Cell → Bool × Bool × Bool × Bool
  | .up => (true, false, false, true)
  | .pass => (true, false, true, false)
  | .down => (false, true, true, false)
  | .circ => (false, true, false, true)
  | .off => (false, false, false, false)
  | .dead ha la hb lb => (ha, la, hb, lb)

/-- A state as the switches take it while the high-side drivers of leg A or leg B are held low by their floating supplies (R79). -/
def Cell.held (a b : Bool) (c : Cell) : Cell :=
  let (ha, la, hb, lb) := c.switches
  if (ha && a) || (hb && b) then .dead (ha && !a) la (hb && !b) lb else c

/-- The voltage across the inductor in a state, mV (R129). In OFF and in a dead time the switches' bodies set it, and the manual
gives no value: the emulator takes 0 in OFF, and in a dead time the voltage of the state that ends (log entry 107). -/
def Cell.volts (c : Cell) (vHb vPk : Nat) : Int :=
  match c with
  | .up => vHb
  | .pass => (vHb : Int) - vPk
  | .down => -(vPk : Int)
  | .circ | .off | .dead .. => 0

/-- Does RSNS_PHk carry the inductor current (R129)? -/
def Cell.sensed (c : Cell) : Bool := c == .up || c == .down

/-- The switches on in a change from `a` to `b`, a leg's own dead time over (`legA`, `legB`) or not yet. -/
def deadCell (legA legB : Bool) (b : Cell) : Cell :=
  let (ha, la, hb, lb) := b.switches
  .dead (legA && ha) (legA && la) (legB && hb) (legB && lb)

/-- The dead times of a change from `a` to `b` with their lengths in taps (R130): each leg that changes has both switches off for its
own dead time, and the leg that is first over it turns on first. -/
def deadSeq (dta dtb : Nat) (a b : Cell) : List (Cell × Nat) :=
  let (ha, la, hb, lb) := a.switches
  let (ha', la', hb', lb') := b.switches
  let da := if ha == ha' && la == la' then 0 else dta
  let db := if hb == hb' && lb == lb' then 0 else dtb
  [(deadCell (da == 0) (db == 0) b, if da = 0 ∨ db = 0 then max da db else min da db),
    (deadCell (decide (da ≤ db)) (decide (db ≤ da)) b, if da = 0 ∨ db = 0 then 0 else max da db - min da db)].filter
      (fun x => x.2 != 0)

/-! ## What a cycle is run with -/

/-- The settings and measurements of one cycle. -/
structure Cycle where
  /-- LPHk in 0.1 µH and RSNS_PHk in 0.25 mΩ (PWR_BRD). -/
  lph : Nat
  rph : Nat
  /-- Dead times of the legs, taps, at least 8 (R130). -/
  dta : Nat
  dtb : Nat
  /-- The period T, the length of this cycle, and the step of its edges, taps (R139, R141, R143, R145). -/
  per : Nat
  len : Nat
  step : Nat
  /-- The leg mode whose order the cycle follows, and its direction (R134). -/
  leg : Leg
  rev : Bool
  /-- The part of the period with QkHB off in the band: (1 − D_B) × T, taps. -/
  upT : Nat
  /-- |i_cmd| before the slope compensation, and PWR_IPK, in the unit of this file (R137, R138). -/
  cmd : Int
  ipk : Int
  /-- The falling interval ends at zero current in OFF (R140, R156, R165). -/
  zero : Bool
  /-- A bootstrap refresh is due in this cycle (R136). -/
  fresh : Bool
  /-- The observations of the cycle. -/
  obs : CycleObs

/-- The fast-path samples in force at tap `t`: V_PK and V_HB, mV (R135, R147). -/
def Cycle.volt (c : Cycle) (t : Nat) : Nat × Nat := c.obs.vs.getD (min (t / 1600) (c.obs.vs.length - 1)) (0, 0)

/-- The current that the sense resistor shows `n` taps into a sensed interval; in DOWN it carries the current with its sign
reversed (R129). -/
def Cycle.sense (c : Cycle) (cell : Cell) (n : Nat) : Int :=
  let r := if cell == .down then c.obs.down else c.obs.up
  let i := (r.uv * 1600 + r.slope * n) * (20 * c.lph) / (max c.rph 1 : Nat)
  if cell == .down then -i else i

/-- The sign of the direction. -/
def Cycle.dir (c : Cycle) : Int := if c.rev then -1 else 1

/-- A point of the cycle: taps since the origin, the state and the one before a dead time, the current (sensed where
RSNS_PHk sees it, else emulated), its extremes, the intervals so far, the anchors (emulated, sensed), whether the peak limit ended
the controlled interval, and the times carried into the next cycle. -/
structure Walk where
  t : Nat
  cell : Cell
  i : Int
  lo : Int
  hi : Int
  seq : List (Cell × Nat)
  anchors : List (Int × Int)
  peak : Bool
  carryUp : Nat
  carryPass : Nat
  carryDown : Nat
  /-- The cycle has ended its switching before its length: OFF or CIRC to the next origin. -/
  ended : Bool

/-- The current one tap on in `cell`, `n` taps into it; `from'` is the state before, which a dead time follows. -/
def Cycle.next (c : Cycle) (cell from' : Cell) (n : Nat) (w : Walk) : Int :=
  let (vp, vh) := c.volt w.t
  if cell.sensed then c.sense cell (n + 1)
  else w.i + 50 * (match cell with | .dead .. => from' | _ => cell).volts vh vp

/-- One tap in `cell`. -/
def Cycle.tap (c : Cycle) (cell from' : Cell) (n : Nat) (w : Walk) : Walk :=
  let i := c.next cell from' n w
  { w with t := w.t + 1, i := i, lo := min w.lo i, hi := max w.hi i }

/-- Run `cell` until `stop` holds, at most `fuel` taps; `n` taps of it have passed. The answer holds how many taps it took. -/
def Cycle.till (c : Cycle) (cell from' : Cell) (stop : Nat → Walk → Bool) : Nat → Nat → Walk → Nat × Walk
  | 0, n, w => (n, w)
  | fuel + 1, n, w => if stop n w then (n, w) else c.till cell from' stop fuel (n + 1) (c.tap cell from' n w)

/-- One dead time of a change from `from'`, as far as the cycle reaches (R130). -/
def Cycle.dead (c : Cycle) (from' : Cell) (w : Walk) (d : Cell × Nat) : Walk :=
  let n := min d.2 (c.len - w.t)
  if n = 0 then w
  else
    let v := (c.till d.1 from' (fun _ _ => false) n 0 w).2
    { v with cell := d.1, seq := v.seq ++ [(d.1, n)] }

/-- Enter a state: the dead time of the legs that change, and at a sensed interval the anchor (R130, R135). A dead time that the
cycle's end cuts enters nothing: the phase stays in it, and the next cycle's first change has its dead time whole. -/
def Cycle.enter (c : Cycle) (cell : Cell) (w : Walk) : Walk :=
  let ds := deadSeq c.dta c.dtb w.cell cell
  let w' := ds.foldl (c.dead w.cell) w
  if c.len < w.t + (ds.map (·.2)).sum then w'
  else if cell.sensed then
    let m := c.sense cell 0
    { w' with cell := cell, anchors := w'.anchors ++ [(w'.i, m)], i := m, lo := min w'.lo m, hi := max w'.hi m }
  else { w' with cell := cell }

/-- Run the state entered for `n` taps, no further than the cycle's end. -/
def Cycle.run (c : Cycle) (n : Nat) (w : Walk) : Walk :=
  let n := min n (c.len - w.t)
  let w' := (c.till w.cell w.cell (fun _ _ => false) n 0 w).2
  { w' with seq := if n = 0 then w'.seq else w'.seq ++ [(w.cell, n)] }

/-! ## Intervals -/

/-- The least length of an interval of `cell`: 40 ns and the dead time of the leg that its end changes (R139). Of the three intervals
of the band the manual does not say whose dead time counts, since each borders a change of either leg: UP takes DTB, DOWN and PASS
take DTA (DESIGN CHOICE, log entry 165). -/
def Cycle.least (c : Cycle) (cell : Cell) : Nat :=
  64 + (match cell with | .up => c.dtb | .down => c.dta | _ => if c.leg == .legB then c.dtb else c.dta)

/-- The time carried for an interval of `cell`. -/
def Walk.carry (w : Walk) (cell : Cell) : Nat :=
  match cell with | .up => w.carryUp | .pass => w.carryPass | .down => w.carryDown | _ => 0

/-- The time carried for an interval of `cell` becomes `n`. -/
def Walk.setCarry (w : Walk) (cell : Cell) (n : Nat) : Walk :=
  match cell with
  | .up => { w with carryUp := n } | .pass => { w with carryPass := n } | .down => { w with carryDown := n } | _ => w

/-- A length rounded up to the step of the edges (R139, R145). -/
def Cycle.edge (c : Cycle) (n : Nat) : Nat := (n + c.step - 1) / max c.step 1 * max c.step 1

/-- The refresh of R136 opens an interval: 80 ns of CIRC at the start of DOWN in leg-A mode, of UP in leg-B mode. -/
def Cycle.refresh (c : Cycle) (cell : Cell) (w : Walk) : Walk :=
  if c.fresh && ((c.leg == .legA && cell == .down) || (c.leg == .legB && cell == .up)) then c.run 128 (c.enter .circ w) else w

/-- |i_cmd| `n` taps into the controlled interval: past half the period it rises with half the falling slope (R137). `fall` is
the state of the falling interval. -/
def Cycle.target (c : Cycle) (fall : Cell) (n : Nat) (w : Walk) : Int :=
  let (vp, vh) := c.volt w.t
  let s := (fall.volts vh vp).natAbs
  let x := c.cmd + if c.per < 2 * n then (25 * s * (n - c.per / 2) : Nat) else 0
  clampI (-c.ipk) c.ipk x

/-- The controlled interval of `cell` (R137-R139): it ends when the current reaches |i_cmd| in the cycle's direction, or PWR_IPK
in it, and no later than tap `last`. `fall` gives the falling slope, `next` is the interval after it: a time carried from the last
cycle lengthens this one, one carried for `next` shortens it. A length below the least, its dead time counted, omits it and
carries its time. The time t of the slope compensation counts from the end of the dead time and of a refresh's CIRC (the model's choice,
log entry 201). -/
def Cycle.controlled (c : Cycle) (cell fall next : Cell) (last : Nat) (w : Walk) : Walk :=
  let w1 := c.enter cell (c.refresh cell w)
  let room := last - w1.t
  let hit := fun n (v : Walk) => decide (c.target fall n v ≤ c.dir * v.i)
  let lim := fun (_ : Nat) (v : Walk) => decide (c.ipk ≤ c.dir * v.i)
  let n := (c.till cell cell hit room 0 w1).1
  let want := n + w.carry cell - (if cell == next then 0 else w.carry next)
  let m := (c.till cell cell lim room 0 w1).1
  let peak := decide (m ≤ want) && decide (m < room)
  let take := min room (c.edge (min want m))
  if take = 0 ∨ take + (w1.t - w.t) < c.least cell then { w with peak := peak }.setCarry cell take
  else { c.run take (w1.setCarry cell 0) with peak := peak }

/-- A fixed interval of `n` taps (R134), omitted and carried where it is too short (R139). -/
def Cycle.fixed (c : Cycle) (cell : Cell) (n : Nat) (w : Walk) : Walk :=
  let n := c.edge (n + w.carry cell)
  if n < c.least cell then w.setCarry cell n
  else
    let stop := min c.len (w.t + n)
    let w := c.enter cell (c.refresh cell (w.setCarry cell 0))
    c.run (stop - w.t) w

/-- The falling interval of `cell`, to tap `last` (R134): outside light-load mode it ends in CIRC when the current opposite to
i_sel reaches PWR_IPK / 2, looked at each 5 ns (R168); where the cycle ends at zero current it ends there in OFF (R140). -/
def Cycle.falling (c : Cycle) (cell : Cell) (last : Nat) (w : Walk) : Walk :=
  let dur := last - w.t
  if dur < c.least cell then
    c.run dur (w.setCarry cell dur)
  else
    let w1 := c.enter cell (c.refresh cell (w.setCarry cell 0))
    let stop := fun n (v : Walk) =>
      if c.zero then decide (c.dir * v.i ≤ 0) else decide (n % 8 = 0) && decide (c.ipk ≤ -2 * (c.dir * v.i))
    let (n, w2) := c.till cell cell stop (last - w1.t) 0 w1
    let w2 := { w2 with seq := if n = 0 then w2.seq else w2.seq ++ [(cell, n)] }
    if stop n w2 then
      if c.zero then { c.run c.len { w2 with cell := .off, i := 0 } with ended := true }
      else { c.run c.len (c.enter .circ w2) with ended := true }
    else w2

/-- UP of a reverse cycle of the band: (1 − D_B) of the period, lengthened by the time carried for it (R139). -/
def Cycle.upLen (c : Cycle) (w : Walk) : Nat := min c.len (c.edge (c.upT + w.carryUp))

/-- The intervals of the cycle in the order of its leg mode and direction (R134). In the band QkHB is on for D_B of the period:
UP opens a forward cycle and closes a reverse one, and a reverse controlled interval ends no later than UP begins (log entry
107). Two intervals follow DOWN there; the slope compensation takes UP's slope (DESIGN CHOICE, log entry 152). -/
def Cycle.order (c : Cycle) (w : Walk) : Walk :=
  match c.leg, c.rev with
  | .legB, false => c.falling .pass c.len (c.controlled .up .pass .pass c.len w)
  | .legB, true => c.falling .up c.len (c.controlled .pass .up .up c.len w)
  | .band, false => c.falling .down c.len (c.controlled .pass .down .down c.len (c.fixed .up c.upT w))
  | .band, true =>
    let at' := c.len - c.upLen w
    let w := c.falling .pass at' (c.controlled .down .up .pass at' w)
    if w.ended then w else c.falling .up c.len w
  | _, false => c.falling .down c.len (c.controlled .pass .down .down c.len w)
  | _, true => c.falling .pass c.len (c.controlled .down .pass .pass c.len w)

/-- A phase's current in the unit of this file, and back, µA. -/
def ofMicro (lph : Nat) (i : Int) : Int := i * (8 * max lph 1 : Nat)
def toMicro (lph : Nat) (i : Int) : Int := i / (8 * max lph 1 : Nat)

/-- The point at which a cycle of phase `x` begins. -/
def startWalk (lph : Nat) (x : Phase) : Walk :=
  let i := ofMicro lph x.iL
  { t := 0, cell := x.cell, i := i, lo := i, hi := i, seq := [], anchors := [], peak := false, carryUp := x.carryUp
    carryPass := x.carryPass, carryDown := x.carryDown, ended := false }

/-- A whole cycle of phase `x`. -/
def Cycle.walk (c : Cycle) (x : Phase) : Walk := c.order (startWalk c.lph x)

/-! ## Forcing (R159, R161) -/

/-- The forcing of phase `x` toward `goal` (in the unit of this file): DOWN where its current must fall, UP where it must rise, until
it reaches the goal or PWR_IPK; a phase whose high-side driver for it is held low stays in CIRC (R163). The answer says whether
forcing has ended. -/
def Cycle.force (c : Cycle) (goal : Int) (x : Phase) : Bool × Walk :=
  let w := startWalk c.lph x
  let down := decide (goal < w.i)
  let cell := if down then Cell.down else .up
  if (down && x.holdB) || (!down && x.holdA) then (false, c.enter .circ w)
  else
    let w1 := c.enter cell w
    let lim := fun (v : Walk) => if down then decide (v.i ≤ -c.ipk) else decide (c.ipk ≤ v.i)
    let stop := fun (_ : Nat) (v : Walk) => lim v || (if down then decide (v.i ≤ goal) else decide (goal ≤ v.i))
    let (n, w2) := c.till cell cell stop (c.len - w1.t) 0 w1
    (stop n w2, { w2 with seq := if n = 0 then w2.seq else w2.seq ++ [(cell, n)], peak := lim w2 })

end Sys2Proof.Machine
end

