-- ==== Sys2Proof/Machine/Sources.lean ====
section
/-!
DEFINITION. The fault sources of R520: their numbers, and for each its lowest reaction, whether it names a unit to fence
and whether a safe stop may be selected.
-/

namespace Sys2Proof.Machine

/-- ECC_PS (R520). -/
abbrev srcEccPs : Nat := 0
/-- ECC_RAM (R520). -/
abbrev srcEccRam : Nat := 1
/-- PAR_REG (R520). -/
abbrev srcParReg : Nat := 2
/-- OVR_CSQ (R520). -/
abbrev srcOvrCsq : Nat := 3
/-- OVR_HSQ (R520). -/
abbrev srcOvrHsq : Nat := 4
/-- OVR_PE0 (R520). -/
abbrev srcOvrPe0 : Nat := 5
/-- OVR_PE1 (R520). -/
abbrev srcOvrPe1 : Nat := 6
/-- WDG_BAD (R520). -/
abbrev srcWdgBad : Nat := 7
/-- WDG_EXP (R520). -/
abbrev srcWdgExp : Nat := 8
/-- LNK_CRC (R520). -/
abbrev srcLnkCrc : Nat := 9
/-- LNK_LOST (R520). -/
abbrev srcLnkLost : Nat := 10
/-- PKB_PEC (R520). -/
abbrev srcPkbPec : Nat := 11
/-- PKB_ARB (R520). -/
abbrev srcPkbArb : Nat := 12
/-- PKB_SRACK (R520). -/
abbrev srcPkbSrack : Nat := 13
/-- HST_PEC (R520). -/
abbrev srcHstPec : Nat := 14
/-- HST_ARB (R520). -/
abbrev srcHstArb : Nat := 15
/-- HST_SRACK (R520). -/
abbrev srcHstSrack : Nat := 16
/-- ARB_STOP (R520). -/
abbrev srcArbStop : Nat := 17
/-- PK_OV (R520). -/
abbrev srcPkOv : Nat := 18
/-- PK_OC (R520). -/
abbrev srcPkOc : Nat := 19
/-- PK_LOST (R520). -/
abbrev srcPkLost : Nat := 20
/-- PK_UV (R520). -/
abbrev srcPkUv : Nat := 21
/-- HBUS_OV (R520). -/
abbrev srcHbusOv : Nat := 22
/-- HBUS_UV (R520). -/
abbrev srcHbusUv : Nat := 23
/-- PH_OC (R520). -/
abbrev srcPhOc : Nat := 24
/-- PH_DRV (R520). -/
abbrev srcPhDrv : Nat := 25
/-- TH_WARN (R520). -/
abbrev srcThWarn : Nat := 26
/-- TH_STOP (R520). -/
abbrev srcThStop : Nat := 27
/-- TH_HARD (R520). -/
abbrev srcThHard : Nat := 28
/-- CLK_MON (R520). -/
abbrev srcClkMon : Nat := 29
/-- SRC_FLAP (R520). -/
abbrev srcSrcFlap : Nat := 30
/-- STUCK_IN (R520). -/
abbrev srcStuckIn : Nat := 31
/-- TCP_ERR (R520). -/
abbrev srcTcpErr : Nat := 32
/-- IMP_RANGE (R520). -/
abbrev srcImpRange : Nat := 33
/-- NVM_ERR (R520). -/
abbrev srcNvmErr : Nat := 34
/-- FUSE_ERR (R520). -/
abbrev srcFuseErr : Nat := 35
/-- UPD_ROLLBACK (R520). -/
abbrev srcUpdRollback : Nat := 36

/-- What the table of R520 fixes for a source. -/
structure SrcRow where
  /-- Lowest reaction REACT and SEVR accept, as its code of R525. -/
  min : Nat
  /-- The unit column names a unit, so fence may be selected. -/
  unit : Bool
  /-- SS: safe stop may be selected. -/
  ss : Bool
  /-- The source raises only class C events, so REACT is held and never applied. -/
  onlyC : Bool
  deriving DecidableEq, Repr

/-- The table of R520, in order of source number. -/
def srcTable : List SrcRow := [
  ⟨1, true, false, false⟩,
  ⟨1, true, false, false⟩,
  ⟨1, false, false, false⟩,
  ⟨0, true, false, false⟩,
  ⟨0, true, false, false⟩,
  ⟨0, true, false, false⟩,
  ⟨0, true, false, false⟩,
  ⟨0, false, false, false⟩,
  ⟨1, false, false, false⟩,
  ⟨0, true, false, true⟩,
  ⟨0, true, false, false⟩,
  ⟨0, true, false, false⟩,
  ⟨0, true, false, false⟩,
  ⟨0, true, false, false⟩,
  ⟨0, false, false, false⟩,
  ⟨0, false, false, false⟩,
  ⟨0, false, false, false⟩,
  ⟨0, true, false, false⟩,
  ⟨1, false, true, false⟩,
  ⟨1, false, true, false⟩,
  ⟨0, false, true, false⟩,
  ⟨0, false, true, false⟩,
  ⟨1, false, true, false⟩,
  ⟨0, false, true, false⟩,
  ⟨0, true, true, false⟩,
  ⟨1, true, true, false⟩,
  ⟨0, false, true, true⟩,
  ⟨1, false, true, false⟩,
  ⟨1, false, true, false⟩,
  ⟨1, false, true, false⟩,
  ⟨0, false, true, false⟩,
  ⟨0, false, false, true⟩,
  ⟨0, true, false, false⟩,
  ⟨0, true, false, true⟩,
  ⟨1, false, false, false⟩,
  ⟨1, false, false, false⟩,
  ⟨0, false, false, false⟩]

/-- The row of source `n`; a reserved source has none (R518). -/
def srcRow (n : Nat) : Option SrcRow := srcTable[n]?

end Sys2Proof.Machine
end

