-- ==== Sys2Proof/Machine/Ops.lean ====
section
/-!
DEFINITION. The named operations over registers, set points, shared RAM, time, the log and the queue of fault events that
every block uses. A block changes registers only through these.
-/

namespace Sys2Proof.Machine

open Sys2Proof

/-! ## Registers -/

/-- The content of the register at `a`. -/
def rd (a : Nat) (s : State) : Nat := (regGet s.regs a).toNat

/-- The register at `a` takes `v`. -/
def wr (a v : Nat) (s : State) : State := { s with regs := regSet s.regs a (BitVec.ofNat 32 v) }

/-- `old` with the bits of `m` taken from `v`. -/
def maskPut (old v m : Nat) : Nat := old - (old &&& m) + (v &&& m)

/-- The register that the word at `w` is of (R522): the four words of TCP_TXBUF are one. -/
def parBase (w : Nat) : Nat := if TCP_TXBUF 0 ≤ w ∧ w ≤ TCP_TXBUF 3 then TCP_TXBUF 0 else w

/-- The bytes of the register at `a` in which `m` has a bit are written, and their parity bits with them (R522). -/
def parWrite (a m : Nat) (s : State) : State :=
  { s with flt := { s.flt with parBad := s.flt.parBad.filter (fun p =>
    p.2 || decide (p.1 < a) || decide (a + 4 ≤ p.1) || m / 2 ^ (8 * (p.1 - a)) % 256 == 0) } }

/-- A number with bits `[hi:lo]` replaced by `x`. -/
def putBits (v hi lo x : Nat) : Nat :=
  v % 2 ^ lo + (x % 2 ^ (hi + 1 - lo)) * 2 ^ lo + v / 2 ^ (hi + 1) * 2 ^ (hi + 1)

/-- A field of a register. -/
def fld (f : Fld) (s : State) : Nat := bitsOf (rd f.addr s) f.hi f.lo

/-- A one-bit field. -/
def flag (f : Fld) (s : State) : Bool := fld f s != 0

/-- The field takes `x`. -/
def setF (f : Fld) (x : Nat) (s : State) : State := wr f.addr (putBits (rd f.addr s) f.hi f.lo x) s

/-- A field set from a Bool. -/
def setB (f : Fld) (b : Bool) (s : State) : State := setF f (b2n b) s

/-- The largest value of a field. -/
def fmax (f : Fld) : Nat := 2 ^ fldWidth f - 1

/-- The field counts up and saturates. -/
def incSat (f : Fld) (s : State) : State := if fld f s < fmax f then setF f (fld f s + 1) s else s

/-- The field counts up and wraps. -/
def incWrap (f : Fld) (s : State) : State := setF f (fld f s + 1) s

/-! ## Set points (R8, R27) -/

/-- The live value of the set point at `a`. -/
def lrd (a : Nat) (s : State) : Nat := (regGet s.live a).toNat

/-- The live value of the set point at `a` becomes `v`. -/
def lwr (a v : Nat) (s : State) : State := { s with live := regSet s.live a (BitVec.ofNat 32 v) }

/-- A field of a live set point. -/
def lfld (f : Fld) (s : State) : Nat := bitsOf (lrd f.addr s) f.hi f.lo

/-- A field of a live set point takes `x`. -/
def lsetF (f : Fld) (x : Nat) (s : State) : State := lwr f.addr (putBits (lrd f.addr s) f.hi f.lo x) s

/-- Is the set point at `a` marked? -/
def marked (a : Nat) (s : State) : Bool := s.marks.any (fun m => m.1 == a)

/-- A write to the shadow of the set point at `a` marks it; a host write marks it as the host's (R27, R24). -/
def mark (a : Nat) (host : Bool) (s : State) : State :=
  { s with marks := s.marks.filter (fun m => m.1 != a) ++ [(a, host || s.marks.any (fun m => m.1 == a && m.2))] }

/-- The owning engine of the set point at `a` (R177, R219, R245, R466). -/
def shOwner (a : Nat) : EngId := if shCsq.contains a then .csq else .hsq

/-- A reset clears the marks of the set points that satisfy `p`: each such shadow takes the live value (R27). -/
def clearMarks (p : Nat → Bool) (s : State) : State :=
  let s' := (s.marks.filter (fun m => isSH m.1 && p m.1)).foldl (fun t m => parWrite m.1 0xFFFFFFFF (wr m.1 (lrd m.1 t) t)) s
  { s' with marks := s'.marks.filter (fun m => !p m.1) }

/-! ## Engines -/

/-- Number of an engine: 0 CSQ, 1 HSQ, 2 PE0, 3 PE1 (R377). -/
def engNo : EngId → Nat
  | .csq => 0 | .hsq => 1 | .pe0 => 2 | .pe1 => 3

/-- The engine of a number. -/
def engOf : Nat → EngId
  | 0 => .csq | 1 => .hsq | 2 => .pe0 | _ => .pe1

/-- All engines. -/
def allEng : List EngId := [.csq, .hsq, .pe0, .pe1]

/-- The record of an engine. -/
def getEng (e : EngId) (s : State) : Eng :=
  match e with
  | .csq => s.engs.csq | .hsq => s.engs.hsq | .pe0 => s.engs.pe0 | .pe1 => s.engs.pe1

/-- The record of an engine replaced. -/
def putEng (e : EngId) (x : Eng) (s : State) : State :=
  match e with
  | .csq => { s with engs := { s.engs with csq := x } }
  | .hsq => { s with engs := { s.engs with hsq := x } }
  | .pe0 => { s with engs := { s.engs with pe0 := x } }
  | .pe1 => { s with engs := { s.engs with pe1 := x } }

/-- The record of an engine changed. -/
def modEng (e : EngId) (f : Eng → Eng) (s : State) : State := putEng e (f (getEng e s)) s

/-! ## Time -/

/-- Microseconds since power-up now (R14). -/
def nowUs (s : State) : Nat := s.clk.us + s.clk.sft / 100

/-- The present clock, in ticks of the sub-frame counter since power-up. -/
def clockNow (s : State) : Nat := s.clk.us * 100 + s.clk.sft

/-! ## Free values -/

/-- Use one free value: the counter advances. -/
def useSeed (s : State) : State := { s with seed := s.seed + 1 }

/-! ## Shared RAM (R43, R46-R48) -/

/-- The first and the last byte of shared RAM. -/
abbrev ramLo : Nat := 0x4000
abbrev ramHi : Nat := 0x7FFF

/-- Do the `n` bytes from `a` lie wholly in shared RAM? -/
def inRam (a n : Nat) : Bool := decide (ramLo ≤ a) && decide (a + n ≤ ramHi + 1)

/-- The byte listed at `a`; an unlisted byte reads 0 (R47). -/
def cellGet : List Host.Cell → Nat → Byte
  | [], _ => 0
  | (b, v) :: t, a => if a = b then v else if a < b then 0 else cellGet t a

/-- The list with byte `a` holding `v`, in canonical form: addresses strictly rising, no entry equal to 0. -/
def cellSet : List Host.Cell → Nat → Byte → List Host.Cell
  | [], a, v => if v = 0 then [] else [(a, v)]
  | (b, w) :: t, a, v =>
    if a = b then (if v = 0 then t else (a, v) :: t)
    else if a < b then (if v = 0 then (b, w) :: t else (a, v) :: (b, w) :: t)
    else (b, w) :: cellSet t a v

/-- The canonical form: every address above `lo`, strictly rising, and no byte equal to 0. -/
def cellsWf : Option Nat → List Host.Cell → Bool
  | _, [] => true
  | lo, (a, v) :: t => (match lo with | none => true | some l => decide (l < a)) && v != 0 && cellsWf (some a) t

/-- Shared RAM is in canonical form and lists addresses of shared RAM only. -/
def ramWf (m : List Host.Cell) : Bool :=
  cellsWf none m && m.all (fun c => decide (ramLo ≤ c.1) && decide (c.1 ≤ ramHi))

/-- Byte `a` of shared RAM. -/
def ramByte (a : Nat) (s : State) : Byte := cellGet s.mem a

/-- `n` bytes of shared RAM from `a`. -/
def ramBytes (a n : Nat) (s : State) : List Byte := (List.range n).map (fun i => cellGet s.mem (a + i))

/-- The little-endian number in `n` bytes of shared RAM from `a` (R6). -/
def ramNat (a n : Nat) (s : State) : Nat := leNat (ramBytes a n s)

/-- Write one byte; an address outside shared RAM changes nothing. -/
def ramPut (a : Nat) (v : Byte) (s : State) : State :=
  if inRam a 1 then { s with mem := cellSet s.mem a v } else s

/-- Write bytes from `a` upward. -/
def ramWrite : Nat → List Byte → State → State
  | _, [], s => s
  | a, b :: t, s => ramWrite (a + 1) t (ramPut a b s)

/-- Write an `n`-byte little-endian number at `a`. -/
def ramWriteNat (a n v : Nat) (s : State) : State := ramWrite a (leBytes n v) s

/-! ## The log and the event queue (R519, R537) -/

/-- A log entry of this clock, to be written at its end (R539). -/
def logPut (typ code det : Nat) (s : State) : State :=
  { s with logq := s.logq ++ [⟨nowUs s % 2 ^ 48, typ, code % 256, s.clk.frm, BitVec.ofNat 32 det⟩] }

/-- A fault source raises an event of class `cls` (1 C, 2 U, 3 F), naming a unit or none (R518, R519). -/
def raise' (src cls : Nat) (unit : Option Nat) (det : Nat) (s : State) : State :=
  { s with evq := s.evq ++ [⟨src, cls, unit, det⟩] }

/-- Set a notify cause (R485): 0 FAULT, 1 CPL, 2 UPD, 3 FAWN, 4 CHG, 5 LINK, 6 CMD. -/
def notify (bit : Nat) (s : State) : State := setF ⟨HST_NPEND, bit, bit⟩ 1 s

/-! ## Conditions used by many blocks -/

/-- Fawn mode (R531). -/
def inFawn (s : State) : Bool := flag FLT_STAT_FAWN s

/-- Is the unit of this index fenced? The index is the bit of FLT_FENCE (R528). -/
def fencedU (i : Nat) (s : State) : Bool := bitOf (rd FLT_FENCE s) i

/-- Unit indexes of R528. -/
abbrev uPkb : Nat := 4
abbrev uTcp : Nat := 5
abbrev uImp : Nat := 6
abbrev uTmr : Nat := 7
abbrev uLnk : Nat := 8
abbrev uPh (k : Nat) : Nat := 9 + k

/-- The hardware runs HBUS service by the values of R152 and the HUB reset values: boot service, Fawn mode, and after
either until HSQ's first HUB set points go live (R107, R152, R535). -/
def svc (s : State) : Bool := s.sup.boot || inFawn s || !s.sup.hsqLive

/-- Is the engine halted or fenced? -/
def engDown (e : EngId) (s : State) : Bool :=
  (getEng e s).phase == .halted || (getEng e s).phase == .fenced

/-! ## Fuses (R113) -/

/-- Decoded fuse values; a code of 0 is unfused. -/
def fuseWdgst (s : State) : Bool := flag GLB_FUSE0_WDGST s
/-- ERRMODE; 0b11 is treated as 0b01. -/
def fuseErrmode (s : State) : Nat := if fld GLB_FUSE1_ERRMODE s = 3 then 1 else fld GLB_FUSE1_ERRMODE s
/-- VPKCEIL in mV. -/
def vpkceil (s : State) : Nat := if fld GLB_FUSE0_VPKCEIL s = 0 then 88000 else fld GLB_FUSE0_VPKCEIL s * 100
/-- IPKCEIL in mA. -/
def ipkceil (s : State) : Nat := if fld GLB_FUSE0_IPKCEIL s = 0 then 60000 else fld GLB_FUSE0_IPKCEIL s * 500
/-- VHBCEIL in mV. -/
def vhbceil (s : State) : Nat := if fld GLB_FUSE0_VHBCEIL s = 0 then 60000 else fld GLB_FUSE0_VHBCEIL s * 500
/-- FHOLD in mV: fused, or the last source voltage, as a frame that a source carried recorded it, less 1 V clamped to 9-60 V, or
12 V; never above VHBCEIL (R2, R107, R113). -/
def fhold (s : State) : Nat :=
  min (vhbceil s)
    (if fld GLB_FUSE0_FHOLD s ≠ 0 then fld GLB_FUSE0_FHOLD s * 500
    else match s.hub.autoHold with
      | none => 12000
      | some v => clampN 9000 60000 (v - 1000))
/-- No pack reverse service in Fawn mode and boot service: FILIM fused to code 127. -/
def filimOff (s : State) : Bool := fld GLB_FUSE1_FILIM s == 127
/-- FILIM in mA. -/
def filim (s : State) : Nat :=
  if filimOff s then 0 else if fld GLB_FUSE1_FILIM s = 0 then 10000 else fld GLB_FUSE1_FILIM s * 500
/-- The four 2-bit port numbers of SRCPRIO, highest first, or 0x39 (S0, S3, S2, S1). A fused code that does not name each
port once is treated as unfused. -/
def prioOk (v : Nat) : Bool :=
  let l := [bitsOf v 7 6, bitsOf v 5 4, bitsOf v 3 2, bitsOf v 1 0]
  l.contains 0 && l.contains 1 && l.contains 2 && l.contains 3
def srcprio (s : State) : Nat :=
  let c := fld GLB_FUSE1_SRCPRIO s
  if c ≠ 0 && prioOk c then c else 0x39
/-- SHARE in 10 mA. -/
def fuseShare (s : State) : Nat := if fld GLB_FUSE1_SHARE s = 0 then 500 else fld GLB_FUSE1_SHARE s * 25

end Sys2Proof.Machine
end

