-- ==== Sys2Proof/Machine/RamOps.lean ====
section
/-!
DEFINITION. Checked accesses to shared RAM (R351, R583) and to the program store (R400, R401, R409), and fault injection into
their checks (R542).
-/

namespace Sys2Proof.Machine

open Sys2Proof

/-- The number of check bits that an armed injection of target `tgt` inverts at this check; 0 where none is armed (R542). -/
def injBits (tgt : Nat) (s : State) : Nat :=
  if flag FLT_INJ_ARM s && fld FLT_INJ_TGT s == tgt then (if fld FLT_INJ_NBIT s = 2 then 2 else 1) else 0

/-- A check of target `tgt` has been made: an armed injection is consumed (R542). -/
def injDone (tgt : Nat) (s : State) : State :=
  if injBits tgt s = 0 then s else s |> setF FLT_INJ_ARM 0 |> setF FLT_INJ_DONE 1

/-- The unit index an engine has in R528, none for a hardware unit or the host. -/
def unitOf (who : Option EngId) : Option Nat := who.map engNo

/-- The stored error of the shared-RAM word at `w`. -/
def ramErrAt (w : Nat) (s : State) : Nat := ((s.ramErr.find? (fun p => p.1 == w)).map (·.2)).getD 0

/-- A write of the whole word at `w` clears its error (R351). -/
def ramErrClear (w : Nat) (s : State) : State := { s with ramErr := s.ramErr.filter (fun p => p.1 != w) }

/-- The check made when the word holding `a` is read: true when it is readable. A single-bit error raises ECC_RAM in its
corrected class, anything more in its uncorrected class (R351). -/
def ramCheck (who : Option EngId) (a : Nat) (s : State) : Bool × State :=
  let w := a / 4 * 4
  let n := ramErrAt w s + injBits 2 s
  let s := injDone 2 s
  if n = 0 then (true, s)
  else if n = 1 then (true, raise' srcEccRam 1 (unitOf who) w s)
  else (false, raise' srcEccRam 2 (unitOf who) w s)

/-- The check of every word that `n` bytes from `a` touch, in rising order, stopping at the first uncorrectable word, whose
address is answered. -/
def ramCheckAll (who : Option EngId) : Nat → Nat → State → Option Nat × State
  | 0, _, s => (none, s)
  | k + 1, w, s =>
    let (ok, s) := ramCheck who w s
    if ok then ramCheckAll who k (w + 4) s else (some w, s)

/-- Read `n` bytes from `a` with their checks: the bytes, or the address of the first uncorrectable word. -/
def ramRead (who : Option EngId) (a n : Nat) (s : State) : (Nat ⊕ List Byte) × State :=
  let w := a / 4 * 4
  match ramCheckAll who ((a + n + 3) / 4 - a / 4) w s with
  | (some x, s) => (.inl x, s)
  | (none, s) => (.inr (ramBytes a n s), s)

/-- Store 1, 2 or 4 aligned bytes (R351, R583): a whole word replaces data and check bits; a narrower store reads the word
first, corrects a single-bit error by its rewrite, and leaves an uncorrectable word as it is. True when it was written. -/
def ramStore (who : Option EngId) (a size v : Nat) (s : State) : Bool × State :=
  let w := a / 4 * 4
  if size = 4 then (true, ramErrClear w (ramWriteNat a 4 v s))
  else
    let (ok, s) := ramCheck who a s
    if ok then (true, ramErrClear w (ramWriteNat a size v s)) else (false, s)

/-- Store a byte string as its writer does, word by word where a whole word is covered (R583); true when every word was
written. -/
def ramStoreBytes (who : Option EngId) (a : Nat) (bs : List Byte) (s : State) : Bool × State :=
  let ws := (List.range ((a + bs.length + 3) / 4 - a / 4)).map (fun i => a / 4 * 4 + 4 * i)
  ws.foldl (fun (acc : Bool × State) w =>
    let lo := max a w
    let hi := min (a + bs.length) (w + 4)
    let part := (bs.drop (lo - a)).take (hi - lo)
    let s := acc.2
    if hi - lo = 4 then (acc.1, ramErrClear w (ramWrite w part s))
    else
      let (ok, s) := ramCheck who w s
      if ok then (acc.1, ramErrClear w (ramWrite lo part s)) else (false, s)) (true, s)

/-! ## Program store -/

/-- The two copies of the marker row have line keys 2048 and 2049 (R413). -/
abbrev markerKey (c : Nat) : Nat := 2048 + c

/-- The lane of a physical bit of a line, and its place in the lane's codeword; places 16-21 are check bits (R399). -/
def laneOf (p : Nat) : Nat := p % 32
def lanePos (p : Nat) : Nat := p / 32

/-- The physical bits of line `l` of bank `b` that differ from its codewords. -/
def lineFlips (b : Bool) (l : Nat) (s : State) : List Nat :=
  (s.store.flips.filter (fun p => p.1 == b2n b * 1024 + l)).map (·.2)

/-- The number of changed bits in lane `k`. -/
def laneErrs (fl : List Nat) (k : Nat) : Nat := (fl.filter (fun p => laneOf p == k)).length

/-- Does some lane hold three or more changed bits (R400)? -/
def lineWild (fl : List Nat) : Bool := (List.range 32).any (fun k => decide (3 ≤ laneErrs fl k))

/-- Decode of a line (R400): 0 clean, 1 corrected, 2 uncorrectable; `inj` check bits of lane 0 are inverted besides (R409). -/
def lineLevel (key : Nat) (fl : List Nat) (inj : Nat) : Nat :=
  let n := fun (k : Nat) => laneErrs fl k + if k = 0 then inj else 0
  let any := fun (p : Nat → Bool) => (List.range 32).any (fun k => p (n k))
  if any (fun c => c == 2) then 2
  else
    let low := if any (fun c => c == 1) then 1 else 0
    if any (fun c => decide (3 ≤ c)) then max low (Config.eccLevel key fl % 3) else low

/-- Byte `a` of bank `b` as a decoded line delivers it. -/
def psByte (b : Bool) (a : Nat) (s : State) : Byte :=
  let fl := lineFlips b (a / 64) s
  if lineWild fl then Config.eccByte (b2n b * 65536 + a) fl else cellGet s.store.bytes (b2n b * 65536 + a)

/-- `n` bytes of bank `b` from `a`. -/
def psBytes (b : Bool) (a n : Nat) (s : State) : List Byte := (List.range n).map (fun i => psByte b (a + i) s)

/-- The little-endian number in `n` bytes of bank `b` from `a`. -/
def psNat (b : Bool) (a n : Nat) (s : State) : Nat := leNat (psBytes b a n s)

/-- Bytes of bank `b` from `a` replaced. -/
def psWrite (b : Bool) : Nat → List Byte → State → State
  | _, [], s => s
  | a, x :: t, s =>
    psWrite b (a + 1) t { s with store := { s.store with bytes := cellSet s.store.bytes (b2n b * 65536 + a) x } }

/-- The active bank (GLB_PSSTAT.ACTIVE). -/
def actBank (s : State) : Bool := flag GLB_PSSTAT_ACTIVE s

/-- The stored error of line `l` of bank `b`: 0 none, 1 correctable, 2 uncorrectable (R400). -/
def lineErrAt (b : Bool) (l : Nat) (s : State) : Nat := lineLevel (b2n b * 1024 + l) (lineFlips b l s) 0

/-- The physical bits of a line that differ from its codewords become `fl`. -/
def lineFlipPut (b : Bool) (l : Nat) (fl : List Nat) (s : State) : State :=
  let k := b2n b * 1024 + l
  { s with store := { s.store with flips := s.store.flips.filter (fun p => p.1 != k) ++ fl.map (fun p => (k, p)) } }

/-- Line `l` is programmed with 64 bytes, check bits included (R404). -/
def lineProgram (b : Bool) (l : Nat) (bs : List Byte) (s : State) : State := lineFlipPut b l [] (psWrite b (64 * l) bs s)

/-- Decode of a line at a read: 0 clean, 1 corrected, 2 uncorrectable, with an armed injection consumed (R400, R409). -/
def lineDecode (b : Bool) (l : Nat) (s : State) : Nat × State :=
  (lineLevel (b2n b * 1024 + l) (lineFlips b l s) (injBits 1 s), injDone 1 s)

/-- The report of a corrected line (R401): ECC_PS class C and GLB_PSECC.CORR. -/
def psCorr (unit : Option Nat) (b : Bool) (l : Nat) (s : State) : State :=
  s |> raise' srcEccPs 1 unit (b2n b * 32768 + l) |> incSat GLB_PSECC_CORR

/-- The report of an uncorrectable line (R401): ECC_PS class U, GLB_PSECC.UNCOR and LINE. -/
def psUncor (unit : Option Nat) (b : Bool) (l : Nat) (s : State) : State :=
  s |> raise' srcEccPs 2 unit (b2n b * 32768 + l) |> incSat GLB_PSECC_UNCOR
    |> setB GLB_PSECC_LBANK b |> setF GLB_PSECC_LMARK 0 |> setF GLB_PSECC_LINE l

/-- A read of a line by a reader that reports at once: true when it delivers data. During a check window an uncorrectable
line of the new bank found by a fetch or an LDP fails the window; `eng` says the reader is one of those (R420). -/
def psReadLine (unit : Option Nat) (eng : Bool) (b : Bool) (l : Nat) (s : State) : Bool × State :=
  let (n, s) := lineDecode b l s
  if n = 0 then (true, s)
  else if n = 1 then (true, psCorr unit b l s)
  else
    let s := psUncor unit b l s
    (false, if eng && s.store.winOpen && b == actBank s
      then { s with store := { s.store with winFail := s.store.winFail ||| 16 } } else s)

end Sys2Proof.Machine
end

