-- ==== Sys2Proof/Machine/RngOps.lean ====
section
/-!
DEFINITION. The ring unit (R378-R396): rings, tags, POST, TAKE, the checks of an operation, its dispatch to a unit, its
completion, and the reset of an owner's rings.
-/

namespace Sys2Proof.Machine

open Sys2Proof

/-- EN of ring `n`. -/
def ringEn (n : Nat) (s : State) : Bool := flag (RNG_CFG_EN n) s
/-- D of ring `n` (R379). -/
def ringDepth (n : Nat) (s : State) : Nat := 2 ^ fld (RNG_CFG_LDEPTH n) s
/-- BASE of ring `n`. -/
def ringBase (n : Nat) (s : State) : Nat := fld (RNG_CFG_BASE n) s

/-- The outstanding count OUT of ring `n` (R381). -/
def ringOut (n : Nat) (s : State) : Nat :=
  (s.rng.tags.filter (fun t => t.ring == n && t.st != .orphan)).length
/-- Completions waiting in ring `n`. -/
def ringCpl (n : Nat) (s : State) : Nat := (s.rng.tags.filter (fun t => t.ring == n && t.st == .done)).length

/-- Owner of a ring: 0-3 the engines, 4 the host, 5 Herd Link (R378). -/
def ringOwner (n : Nat) : Nat := if n < 16 then n / 4 else if n < 24 then 4 else 5

/-- Tags an owner holds in states other than FREE (R391). -/
def tagsHeld (o : Nat) (s : State) : Nat := (s.rng.tags.filter (fun t => ringOwner t.ring == o)).length

/-- The quota of an owner (R391). -/
def quota (o : Nat) (s : State) : Nat :=
  match o with
  | 0 => fld RNG_QUOTA0_CSQ s | 1 => fld RNG_QUOTA0_HSQ s | 2 => fld RNG_QUOTA0_PE0 s | 3 => fld RNG_QUOTA0_PE1 s
  | _ => fld RNG_QUOTA1_HOST s

/-- FREE tags. -/
def freeTags (s : State) : Nat := 128 - s.rng.tags.length

/-- The tag list replaced. -/
def putTags (l : List TagRec) (s : State) : State := { s with rng := { s.rng with tags := l } }

/-- The sub-frame tick of an engine's next cycle (R369): it runs from its release at tick 200. -/
def engTickNow (o : Eng) : Nat := min 1999 (200 + o.cyc)

/-- The clock of an engine's instruction, or of the host and the units (R396). -/
def clockOf (who : Option EngId) (s : State) : Nat :=
  match who with
  | some e => s.clk.us * 100 + engTickNow (getEng e s)
  | none => clockNow s

/-- The record of the coincidences changed. -/
def modSame (f : RngSame → RngSame) (s : State) : State := { s with rng := { s.rng with same := f s.rng.same } }

/-- CWR and CRD of ring `n`. -/
def ringPtr (n : Nat) (s : State) : Nat × Nat := vAt s.rng.ptr n

/-- CWR and CRD of ring `n` replaced. -/
def putPtr (n : Nat) (p : Nat × Nat) (s : State) : State := { s with rng := { s.rng with ptr := vPut s.rng.ptr n p } }

/-- A write of RNG_CFGn in the clock `c` of a POST to that ring is ignored, with CFGREF set (R396): where it came first it is undone. -/
def cfgUndo (c n : Nat) (s : State) : State :=
  match s.rng.same.cfgs.find? (fun r => r.ring == n && r.clk == c) with
  | some r =>
    s |> modSame (fun x => { x with cfgs := x.cfgs.filter (fun y => y.ring != n) }) |> wr (RNG_CFG n) r.cfg |> putPtr n r.ptr
      |> setF (RNG_STAT_CFGREF n) 1
  | none => s

/-- Has a TAKE of another owner than `o` freed tag `k` in clock `c`? A POST of that clock sees the pool before it (R396). -/
def freedNow (c o k : Nat) (s : State) : Bool := s.rng.same.freed.any (fun r => r.1 == k && r.2.1 == c && r.2.2 != o)

/-- The lowest FREE tag as a POST of owner `o` in clock `c` sees the pool (R390, R396). -/
def postTag (c o : Nat) (s : State) : Option Nat :=
  (List.range 128).find? (fun k => !s.rng.tags.any (fun t => t.tag == k) && !freedNow c o k s)

/-- A POST to ring `n` in clock `c` is noted (R396). -/
def postNote (c n : Nat) (s : State) : State := modSame (fun x => { x with posted := (n, c) :: x.posted.filter (fun r => r.1 != n) }) s

/-- POST of an entry into ring `n` by its owner in clock `c` (R361, R391, R396): the value of rd and the state after. -/
def ringPost (c n : Nat) (ent : List Byte) (s : State) : Nat × State :=
  let s := postNote c n (cfgUndo c n s)
  if !ringEn n s || decide (ringDepth n s ≤ ringOut n s) then (0xFFFFFFFF, setF (RNG_STAT_FULL n) 1 s)
  else
    match postTag c (ringOwner n) s with
    | none => (0xFFFFFFFE, setF (RNG_STAT_NOTAG n) 1 s)
    | some t =>
      if quota (ringOwner n) s ≤ tagsHeld (ringOwner n) s then (0xFFFFFFFE, setF (RNG_STAT_NOTAG n) 1 s)
      else
        let s := putTags (s.rng.tags ++ [⟨t, n, .queued, ent, 0⟩]) s
        (t, setF RNG_TAGSTAT_MINFREE (min (fld RNG_TAGSTAT_MINFREE s) (freeTags s)) s)

/-- Was the completion of tag `k` written in clock `c`? -/
def endedNow (c k : Nat) (s : State) : Bool := s.rng.same.ends.any (fun r => r.tag == k && r.clk == c)

/-- The oldest completion of ring `n` as a TAKE in clock `c` finds it: its tag and the address of its slot (R381, R392). One written
in that clock is for the next TAKE (R396). -/
def ringHead (c n : Nat) (s : State) : Option (Nat × Nat) :=
  if ringEn n s then
    ((s.rng.tags.filter (fun t => t.ring == n && t.st == .done && t.slot == (ringPtr n s).2 && !endedNow c t.tag s)).head?).map
      (fun t => (t.tag, ringBase n s + 16 * t.slot))
  else none

/-- The oldest completion of ring `n` has been moved in clock `c`: its tag is FREE and CRD advances. -/
def ringPop (c n tag : Nat) (s : State) : State :=
  let p := ringPtr n s
  s |> putTags (s.rng.tags.filter (fun t => t.tag != tag)) |> putPtr n (p.1, (p.2 + 1) % ringDepth n s)
    |> modSame (fun x => { x with freed := (tag, c, ringOwner n) :: x.freed.filter (fun r => r.1 != tag) })

/-! ## Entries (R383) -/

/-- Byte `i` of an entry. -/
def entB (ent : List Byte) (i : Nat) : Nat := (ent.getD i 0).toNat
/-- Little-endian halfword `i` of an entry. -/
def entH (ent : List Byte) (i : Nat) : Nat := entB ent i + 256 * entB ent (i + 1)
/-- Are bytes `i` to 15 zero? -/
def entZero (ent : List Byte) (i : Nat) : Bool := (ent.drop i).all (fun b => b == 0)

/-- The unit of an operation: 0 ring unit, 1 ADC, 2 IMP, 3 PKB, 4 check unit, 5 program store, 6 GLB, 7-10 link send of
classes 0-3, 11-14 link receive (R385, R392). -/
def opUnit (ent : List Byte) : Nat :=
  match entB ent 0 with
  | 0x08 => 1 | 0x10 => 2 | 0x18 => 3 | 0x20 => 4 | 0x28 => 5 | 0x38 => 6
  | 0x30 => 7 + entB ent 8 % 4 | 0x31 => 11 + entB ent 8 % 4
  | _ => 0

/-- Is the OP one of R385? -/
def opDefined (op : Nat) : Bool := [0x01, 0x08, 0x10, 0x18, 0x20, 0x28, 0x30, 0x31, 0x38].contains op

/-- Is the OP permitted from a ring of owner `o` (R385)? -/
def opPermitted (op o : Nat) : Bool :=
  match op with
  | 0x01 | 0x08 | 0x20 => true
  | 0x10 => o == 0
  | 0x18 => o == 2 || o == 3 || o == 4
  | 0x28 | 0x30 | 0x31 => o == 1 || o == 4
  | 0x38 => o == 0 || o == 1
  | _ => false

/-- The PARAM check of R386, R387, R562 and the chapters it names, with the reserved fields of R383. -/
def opParamOk (ent : List Byte) : Bool :=
  let b := entB ent
  let h := entH ent
  (b 1 < 2) && b 3 == 0 &&
  match b 0 with
  | 0x01 | 0x38 => entZero ent 8
  | 0x08 => b 8 ≤ 0x0E && 1 ≤ b 9 && b 9 ≤ 16 && entZero ent 10
  | 0x10 => inRam (h 8) 1 && entZero ent 10
  | 0x18 =>
    let f := b 9 % 4
    let n := b 10
    let m := b 11
    b 8 < 128 && b 9 < 8 &&
    (match f with
      | 0 => 1 ≤ n && n ≤ 32 && m == 0
      | 1 => n == 0 && 1 ≤ m && m ≤ 32
      | _ => 1 ≤ n && n ≤ 32 && 1 ≤ m && m ≤ 32) &&
    (if n = 0 then h 12 == 0 else inRam (h 12) n) && (if m = 0 then h 14 == 0 else inRam (h 14) m)
  | 0x20 =>
    let sp := b 8 % 4
    let st := bitOf (b 8) 7
    let len := if h 12 = 0 then 65536 else h 12
    bitsOf (b 8) 6 2 == 0 && b 9 == 0 && sp != 3 && (!st || sp == 0) &&
    (if sp = 0 then inRam (h 10) (len + if st then 4 else 0) else decide (h 10 + len ≤ 65536)) &&
    (h 14 == 0 || inRam (h 14) 1)
  | 0x28 =>
    let n := b 12
    h 8 % 64 == 0 && h 10 % 64 == 0 && 1 ≤ n && n ≤ 16 && inRam (h 8) (64 * n) && entZero ent 13
  | 0x30 => b 8 < 4 && bitsOf (h 10) 14 12 == 0 && (if b 9 = 0 then h 12 == 0 else inRam (h 12) (b 9)) && entZero ent 14
  | 0x31 => b 8 < 4 && h 10 == 0 && (if b 9 = 0 then h 12 == 0 else inRam (h 12) (b 9)) && entZero ent 14
  | _ => false

/-- Is the unit of an operation fenced (R394)? -/
def unitFenced (u : Nat) (s : State) : Bool :=
  if u = 2 then fencedU uImp s else if u = 3 then fencedU uPkb s else if 7 ≤ u ∧ u ≤ 14 then fencedU uLnk s else false

/-- CODE of an operation at its check, in the order of R389; 0 when it passes. -/
def opCode (t : TagRec) (s : State) : Nat :=
  let op := entB t.ent 0
  if !opDefined op then 2
  else if !opPermitted op (ringOwner t.ring) then 1
  else if !opParamOk t.ent then 3
  else if unitFenced (opUnit t.ent) s then 4
  else 0

/-- The completion of an operation (R384, R388): an ORPHAN only frees its tag (R390); otherwise the 16 bytes are written at
CWR, the tag is DONE, and a completion into a host ring is notified (R485). -/
def complete (tag code detail res0 : Nat) (s : State) : State :=
  match s.rng.tags.find? (fun t => t.tag == tag) with
  | none => s
  | some t =>
    if t.st == .orphan then putTags (s.rng.tags.filter (fun x => x.tag != tag)) s
    else
      let n := t.ring
      let p := ringPtr n s
      let bytes := [t.ent.getD 0 0, BitVec.ofNat 8 code, BitVec.ofNat 8 tag, BitVec.ofNat 8 (if code = 0 then detail else 0)]
        ++ (t.ent.drop 4).take 4 ++ leBytes 4 (if code = 0 then res0 else 0) ++ leBytes 4 s.clk.frm.toNat
      let a := ringBase n s + 16 * p.1
      let was : CplWas := ⟨tag, clockNow s, code == 0, ramBytes a 16 s⟩
      let s := modSame (fun x => { x with ends := was :: x.ends.filter (fun r => r.tag != tag) }) (ramStoreBytes none a bytes s).2
      let s := putTags (s.rng.tags.map (fun x => if x.tag = tag then { x with st := .done, slot := p.1 } else x)) s
      let s := putPtr n ((p.1 + 1) % ringDepth n s, p.2) s
      let s := if 1 ≤ code ∧ code ≤ 3 then incSat RNG_CNT_REFUSED s else s
      if 16 ≤ n ∧ n ≤ 23 then notify 1 s else s

/-- The operation a unit is running, an ORPHAN included (R390). -/
def unitOp (u : Nat) (s : State) : Option TagRec :=
  s.rng.tags.find? (fun t => opUnit t.ent == u && (t.st == .running || t.st == .orphan))

/-- A unit's write to shared RAM for an operation; an ORPHAN writes nothing more (R393). -/
def opStore (t : TagRec) (a : Nat) (bs : List Byte) (s : State) : State :=
  if t.st == .orphan then s else (ramStoreBytes none a bs s).2

/-- In Fawn mode only the operations that the recovery commands post are served (R395, R484). -/
def opServed (t : TagRec) (s : State) : Bool := !inFawn s || [0x01, 0x20, 0x28].contains (entB t.ent 0)

/-- The operation at the head of unit `u`'s queue for ring `n` whose turn has come under the FENCE rule (R392): an earlier one of
the same ring and unit that still runs keeps it back, so that they complete in POST order. -/
def ringCandidate (u n : Nat) (s : State) : Option TagRec :=
  let l := s.rng.tags.filter (fun t => t.ring == n && (t.st == .queued || t.st == .running))
  match l.find? (fun t => t.st == .queued && opUnit t.ent == u) with
  | none => none
  | some t =>
    let before := l.takeWhile (fun x => x.tag != t.tag)
    if before.any (fun x => opUnit x.ent == u) then none
    else if before.any (fun x => bitOf (entB x.ent 1) 0) then none
    else if bitOf (entB t.ent 1) 0 && !before.isEmpty then none
    else if !opServed t s then none
    else some t

/-- The rings a unit looks at, in the order of R392: after the ring it served last, wrapping after RNG23. In Fawn mode
RNG0-RNG15 are left out (R395). -/
def ringOrder (u : Nat) (s : State) : List Nat :=
  ((List.range 24).map (fun i => (vAt s.rng.last u + 1 + i) % 24)).filter (fun n => !(inFawn s && decide (n < 16)))

/-- PKB has taken a transaction (R341): it is busy, and holds a free bus whose lines it owns. -/
def pkbTaken (s : State) : State :=
  let s := setF PKB_STAT_BUSY 1 s
  if fld PKB_STAT_BUS s = 0 ∧ fld PKP_OWN_PKD s = 3 ∧ fld PKP_OWN_PKC s = 3 then setF PKB_STAT_BUS 1 s else s

/-- The scan engine has taken a CRC-SCAN: its tag, and its first byte as the next one (R567). -/
def scanTaken (t : TagRec) (s : State) : State := s |> wr SCAN_TAG t.tag |> wr SCAN_POS (entH t.ent 10)

/-- The operation that a dispatch of unit `u` handles next (R388, R392): one that fails its check, whatever the unit does; else the
head of the first ring in the unit's order. -/
def nextOp (u : Nat) (s : State) : Option TagRec :=
  let l := (ringOrder u s).filterMap (fun n => ringCandidate u n s)
  match l.find? (fun t => opCode t s != 0) with
  | some t => some t
  | none => l.head?

/-- Dispatch for unit `u` (R388, R389, R392): the head operation is checked; one that fails completes with its code; one
that passes is handed to the unit if it is idle. An operation of the ring unit itself completes at once (R385). -/
def dispatch (u : Nat) (s : State) : State :=
  match nextOp u s with
  | none => s
  | some t =>
    let c := opCode t s
    if c ≠ 0 then complete t.tag c 0 0 s
    else if u = 0 then complete t.tag 0 0 0 { s with rng := { s.rng with last := vPut s.rng.last u t.ring } }
    else if (unitOp u s).isSome then s
    else
      let s := if u = 3 then pkbTaken s else if u = 4 then scanTaken t s else s
      { s with rng := { s.rng with
          tags := s.rng.tags.map (fun x => if x.tag = t.tag then { x with st := .running } else x),
          last := vPut s.rng.last u t.ring } }

/-- The record of a DONE operation that its unit ended by itself in this clock (R396). -/
def endWas (t : TagRec) (s : State) : Option CplWas :=
  if t.st == .done then s.rng.same.ends.find? (fun r => r.tag == t.tag && r.own && r.clk == clockNow s) else none

/-- A completion that was written in this clock is not: its slot holds what it held (R396). -/
def endUndo (t : TagRec) (s : State) : State :=
  match endWas t s with
  | some r => (ramStoreBytes none (ringBase t.ring s + 16 * t.slot) r.old s).2
  | none => s

/-- A reset of the rings that satisfy `p` (R393). An operation that its unit ended in this clock counts as ORPHAN, with no completion
(R396). -/
def ringReset (p : Nat → Bool) (s : State) : State :=
  let orph := (s.rng.tags.filter (fun t => p t.ring && (t.st == .running || (endWas t s).isSome))).length
  let s := (s.rng.tags.filter (fun t => p t.ring)).foldl (fun s t => endUndo t s) s
  let tags := (s.rng.tags.filter (fun t => !(p t.ring && (t.st == .queued || t.st == .done)))).map
    (fun t => if p t.ring && t.st == .running then { t with st := .orphan } else t)
  let s := putTags tags s
  let s := (List.range 24).foldl (fun s n =>
    if p n then s |> putPtr n (0, 0) |> setF (RNG_STAT_CFGREF n) 0 |> setF (RNG_STAT_NOTAG n) 0 |> setF (RNG_STAT_FULL n) 0
    else s) s
  setF RNG_CNT_ORPH (min 0xFFFF (fld RNG_CNT_ORPH s + orph)) s

/-- A completion that unit `u` ended by itself in this clock has CODE 0x04, DETAIL and RESULT0 0 (R384, R396). -/
def fenceEnded (u : Nat) (s : State) : State :=
  match s.rng.tags.find? (fun t => opUnit t.ent == u && (endWas t s).isSome) with
  | some t =>
    let a := ringBase t.ring s + 16 * t.slot
    let b := ramBytes a 16 s
    (ramStoreBytes none a ([b.getD 0 0, 4#8, b.getD 2 0, 0#8] ++ (b.drop 4).take 4 ++ leBytes 4 0 ++ b.drop 12) s).2
  | none => s

/-- When a unit is fenced its running operation completes with CODE 0x04 (R394), and so does one that it ended in this clock (R396). -/
def fenceUnitOp (u : Nat) (s : State) : State :=
  let s := fenceEnded u s
  match unitOp u s with
  | some t => complete t.tag 4 0 0 s
  | none => s

end Sys2Proof.Machine
end

