-- ==== Sys2Proof/Machine/PackOps.lean ====
section
/-!
DEFINITION. Shared operations of the pack port: the pin sequencers' FIFOs (R322-R326, R340) and the ownership of PKD and PKC
(R319-R321).
-/

namespace Sys2Proof.Machine

open Sys2Proof

/-- The sequencer of PE `e` (0 or 1). -/
def getSeq (e : Nat) (s : State) : Seq := if e = 0 then s.pk.seq0 else s.pk.seq1

/-- The sequencer of PE `e` replaced. -/
def putSeq (e : Nat) (q : Seq) (s : State) : State :=
  if e = 0 then { s with pk := { s.pk with seq0 := q } } else { s with pk := { s.pk with seq1 := q } }

/-- Are the lines of the pack port at high impedance whatever owns them: in Fawn mode and in ship mode (R68)? -/
def padsOff (s : State) : Bool := inFawn s || s.sup.power == .ship

/-- Does sequencer `e` own a pin (PKC or PKD)? -/
def seqOwns (e : Nat) (pkc : Bool) (s : State) : Bool := (if pkc then fld PKP_OWN_PKC s else fld PKP_OWN_PKD s) == e + 1

/-- Is a pin driven low by its owner's running LOW cell (R319, R322, R326)? Every other cell, and no owner, leaves the line at
high impedance; PKB drives it inside a transaction only. -/
def drivenLow (pkc : Bool) (s : State) : Bool :=
  !padsOff s && (List.range 2).any (fun e => seqOwns e pkc s && (getSeq e s).run.any (fun c => c.toNat / 2 ^ 29 == 0 && bitOf c.toNat 28 == pkc))

/-- The level of a line: what its other side leaves it at, low while it is driven low here. -/
def pinLevel (pkc : Bool) (s : State) : Bool := (if pkc then s.pk.lvlC else s.pk.lvlD) && !drivenLow pkc s

/-- A result word: dropped with RXOVF when the 16 places are full (R325). -/
def seqResult (e : Nat) (r : Word) (s : State) : State :=
  let q := getSeq e s
  if 16 ≤ q.rx.length then setF (PKP_SEQSTAT_RXOVF e) 1 s else putSeq e { q with rx := q.rx ++ [r] } s

/-- MARK: of no length, it pushes its tag (R322, R324, R326). -/
def seqMark (e : Nat) (c : Nat) (s : State) : State :=
  let own := seqOwns e (bitOf c 28) s
  let s := if own then s else setF (PKP_SEQSTAT_NOWN e) 1 s
  seqResult e (BitVec.ofNat 32 (5 * 2 ^ 29 + b2n (!own) * 2 ^ 28 + bitsOf c 26 16)) s

/-- If the sequencer is enabled and idle, the next cell starts, past every MARK before it; a reserved OP flushes the transmit
FIFO with BADOP (R326). -/
def seqGo : Nat → Nat → State → State
  | 0, _, s => s
  | fuel + 1, e, s =>
    let q := getSeq e s
    match q.run, q.tx with
    | none, c :: t =>
      let op := c.toNat / 2 ^ 29
      if !flag (PKP_SEQCTL_EN e) s || padsOff s then s
      else if 6 ≤ op then setF (PKP_SEQSTAT_BADOP e) 1 (putSeq e { q with tx := [], run := none } s)
      else if op = 5 then seqGo fuel e (seqMark e c.toNat (putSeq e { q with tx := t } s))
      else putSeq e { q with tx := t, run := some c } s
    | _, _ => s
def seqStart (e : Nat) (s : State) : State := seqGo 33 e s

/-- The cells in the transmit FIFO: the one executing holds its place until it ends (R326; DEDUCED, log entry 196). -/
def txCount (q : Seq) : Nat := q.tx.length + b2n q.run.isSome

/-- A push of a cell: ignored with TXOVF when the 32 places are full (R325). -/
def seqPush (e : Nat) (c : Word) (s : State) : State :=
  let q := getSeq e s
  if 32 ≤ txCount q then setF (PKP_SEQSTAT_TXOVF e) 1 s
  else seqStart e (putSeq e { q with tx := q.tx ++ [c] } s)

/-- Is the transmit FIFO full? -/
def seqFull (e : Nat) (s : State) : Bool := decide (32 ≤ txCount (getSeq e s))

/-- The head of the receive FIFO; 0 when it is empty (R324). -/
def seqHead (e : Nat) (s : State) : Word := (getSeq e s).rx.headD 0

/-- The head of the receive FIFO is popped (R325). -/
def seqPop (e : Nat) (s : State) : State := putSeq e { getSeq e s with rx := (getSeq e s).rx.tail } s

/-- Both FIFOs emptied and the pins released (R340). -/
def seqFlush (e : Nat) (s : State) : State := putSeq e Seq.reset s

/-- The transmit FIFO emptied and the pin released (R325, R326). -/
def seqFlushTx (e : Nat) (s : State) : State := putSeq e { getSeq e s with tx := [], run := none } s

/-- Every field of PKP_OWN that names `code` (1 PE0, 2 PE1, 3 PKB) returns to none (R321). -/
def ownRelease (code : Nat) (s : State) : State :=
  let s := if fld PKP_OWN_PKD s = code then setF PKP_OWN_PKD 0 s else s
  if fld PKP_OWN_PKC s = code then setF PKP_OWN_PKC 0 s else s

/-- A pin engine has been reset or fenced (R321). -/
def peRelease (e : EngId) (s : State) : State :=
  match e with
  | .pe0 => s |> ownRelease 1 |> seqFlush 0
  | .pe1 => s |> ownRelease 2 |> seqFlush 1
  | _ => s

/-- PKB owns both lines (R327), and they may be driven (R68). -/
def pkbOwns (s : State) : Bool := fld PKP_OWN_PKD s == 3 && fld PKP_OWN_PKC s == 3 && !padsOff s

/-- The pack port at the entry to Fawn mode: the running cells end and the lines are released; the FIFOs hold (R68, log entry 116). -/
def pkFawn (s : State) : State :=
  s |> putSeq 0 { getSeq 0 s with run := none } |> fun s => putSeq 1 { getSeq 1 s with run := none } s

/-- A pack removal has been declared (R339): where a sequencer runs, both are flushed with ABRT, and PKB's transaction is
abandoned. -/
def pkRemoval (s : State) : State :=
  let s := if (getSeq 0 s).run.isSome || (getSeq 1 s).run.isSome then
      s |> seqFlush 0 |> seqFlush 1 |> setF (PKP_SEQSTAT_ABRT 0) 1 |> setF (PKP_SEQSTAT_ABRT 1) 1
    else s
  match unitOp 3 s with
  | some t =>
    { s with pkb := { s.pkb with retries := 0 } } |> setF PKB_STAT_BUSY 0
      |> when' (fld PKB_STAT_BUS s == 1) (setF PKB_STAT_BUS 0) |> complete t.tag 0 0x0C (65536 * fld PKB_STAT_IDX s)
  | none => s

/-- Presence of a pin as the filters give it; while it is stuck its short band does not count (R316). -/
def pinPres (p : PkPin) (short : Bool) : Bool := p.filt && !(p.stuck && short)
/-- Presence of PKT and of PKI. -/
def pktPres (s : State) : Bool := pinPres s.pk.pkt (fld PKP_STAT_TBAND s == 3)
def pkiPres (s : State) : Bool := pinPres s.pk.pki (fld PKP_STAT_IBAND s == 2)

/-- Presence by the pins the latch names, or by either while no latch is valid (R253). -/
def packPresent (s : State) : Bool :=
  let t := pktPres s
  let i := pkiPres s
  if flag CHG_STAT_DVALID s then
    match fld CHG_DLAT0_PRES s with
    | 1 => t | 2 => i | 3 => t && i | _ => t
  else t || i

/-- CHG_STAT.PRES reports presence (R253). -/
def presStat (s : State) : State := setB CHG_STAT_PRES (packPresent s) s

end Sys2Proof.Machine
end

