-- ==== Sys2Proof/Machine/EngOps.lean ====
section
/-!
DEFINITION. Shared operations of the engines: start (R343), halt (R370, R373), reset (R117, R375), fence (R528), and taking
an exception (R371, R372).
-/

namespace Sys2Proof.Machine

open Sys2Proof

/-- The rings of an engine (R378). -/
def ringsOf (e : EngId) (n : Nat) : Bool := n / 4 == engNo e && decide (n < 16)

/-- The job of the impedance unit replaced; a PWR_FSW that has waited for its end waits no longer (R290). -/
def putJob (j : Option ImpJob) (s : State) : State :=
  { s with imp := { s.imp with job := j, fswWait := s.imp.fswWait && j.isSome } }

/-- The CC bound returns from i_c at the soft-start rate where a group held it (R287). -/
def ccReturn (s : State) : State :=
  if flag IMP_STAT_HOLD s then
    let c : Int := (s.imp.ic * 65536 / 10 : Nat)
    { s with pwr := { s.pwr with ss := some (match s.pwr.ss with | none => c | some x => min x c) } }
  else s

/-- A_pk and i_c of the running group, in 0.1 mA, and their registers: whole mA, rounded down (DESIGN CHOICE, log entry 168). -/
def putProbe (apk ic : Nat) (s : State) : State :=
  { s with imp := { s.imp with apk := apk, ic := ic } } |> wr IMP_IC (ic / 10) |> wr IMP_APK (apk / 10)

/-- A job has ended (R287, R311): the CC bound returns, and the registers of the unit. -/
def impIdle (s : State) : State :=
  s |> ccReturn |> setF IMP_STAT_BUSY 0 |> setF IMP_STAT_LEADIN 0 |> setF IMP_STAT_INTEG 0 |> setF IMP_STAT_HOLD 0
    |> setF IMP_STAT_RETRY 0 |> setF IMP_STAT_GRPPT 0 |> putProbe 0 0 |> wr IMP_JADDR 0
    |> setF IMP_STAT_DONEEVT 1 |> incWrap IMP_CNT_JOBS

/-- Outcome 0x07 of an impedance job whose posting rings were reset: the job ends, IMP_STAT reports it from the next tick, and
nothing more is written (R298, R302, R424). -/
def impOrphan (s : State) : State :=
  match unitOp 2 s with
  | some t =>
    if t.st == .orphan then
      { s with imp := { s.imp with job := none, orphan := true, fswWait := false } } |> complete t.tag 0 7 0 |> setF IMP_STAT_ABEVT 1 |> impIdle
    else s
  | none => s

/-- The reset of an engine's rings (R393), with its effect on a running impedance job. -/
def engRings (e : EngId) (s : State) : State := impOrphan (ringReset (ringsOf e) s)

/-- Field `off` of engine `e` in the header of the active bank (R410). -/
def hdrEng (e : EngId) (off : Nat) (s : State) : Nat := psNat (actBank s) (off + 8 * engNo e) 2 s

/-- The state of an engine that has just started (R343), before its release. -/
def engFresh (o : Eng) (cstart cend entry vec : Nat) : Eng :=
  { Eng.reset with
    phase := if entry = 0 then .notStarted else .waiting
    pc := BitVec.ofNat 16 entry
    cstart := cstart, cend := cend, entry := entry, vec := vec
    ovr := o.ovr, cycLast := o.cycLast, excEvt := o.excEvt, haltEvt := o.haltEvt, dbgSel := o.dbgSel }

/-- An engine start (R343): the state is set, the region, entry and vector are those of the active bank, and the engine
waits for sub-frame tick 200. An engine whose ENTRY is 0 is not started (R412). -/
def startEngine (e : EngId) (s : State) : State :=
  modEng e (fun o => engFresh o (hdrEng e 0x14 s) (hdrEng e 0x16 s) (hdrEng e 0x18 s) (hdrEng e 0x1A s)) s

/-- During a check window the halt, with a cause of 0x09 to 0x0B, or the fence of an engine with a non-zero ENTRY fails the window
(R420). -/
def windowFail (e : EngId) (s : State) : State :=
  if s.store.winOpen && hdrEng e 0x18 s != 0 then
    { s with store := { s.store with winFail := s.store.winFail ||| 2 ^ engNo e } }
  else s

/-- A halt with a cause of R370 (0x09-0x0B): CAUSE, BADADDR 0, the engine executes nothing more (R373). An engine that has
not started stays so; a fenced engine keeps its state and records the cause (R543). -/
def haltEngine (e : EngId) (cause : Nat) (s : State) : State :=
  match (getEng e s).phase with
  | .notStarted | .halted => s
  | .fenced => modEng e (fun o => { o with cause := cause, statCause := cause, bad := 0 }) s
  | _ => windowFail e (modEng e (fun o =>
      { o with phase := .halted, cause := cause, statCause := cause, bad := 0, haltEvt := true }) s)

/-- The marks of an engine's set points are cleared (R117). -/
def engMarks (e : EngId) (s : State) : State := clearMarks (fun a => shOwner a == e && (e == .csq || e == .hsq)) s

/-- An engine reset (R117, R375): its rings and its pending marks, a pin engine's pins, and an engine start. -/
def resetEngine (e : EngId) (s : State) : State :=
  s |> engRings e |> engMarks e |> peRelease e |> startEngine e

/-- An engine reset among those of all four (R117): a fence stays, which only FLT_FREL ends (R503, R528). -/
def resetKeep (e : EngId) (s : State) : State :=
  let t := s |> peRelease e |> startEngine e
  if (getEng e s).phase == .fenced then modEng e (fun o => { o with phase := .fenced }) t else t

/-- The four engines are reset with their rings and every pending mark (watchdog expiry, bank swap, rollback: R117, R417). -/
def resetAllEngines (s : State) : State :=
  let s := impOrphan (ringReset (fun n => decide (n < 16)) s)
  let s := clearMarks (fun _ => true) s
  allEng.foldl (fun s e => resetKeep e s) s

/-- The fence of an engine (R528): it stops at its next instruction boundary, its rings are reset, a pin engine's pins are
released. -/
def fenceEngine (e : EngId) (s : State) : State :=
  s |> windowFail e |> modEng e (fun o => { o with phase := .fenced }) |> engRings e |> peRelease e
    |> setF ⟨FLT_FENCE, engNo e, engNo e⟩ 1

/-! ## Exceptions -/

/-- What a jump to `a` costs: 4 cycles when neither line buffer holds its line (R345). -/
def jumpCost (o : Eng) (a : Nat) : Nat := if o.lines.any (fun l => l.1 == a / 64) then 0 else 4

/-- Taking an exception (R371, R372). `epc` is what EPC takes. While a handler runs the engine halts with DOUBLE and keeps
EPC; with no vector it halts with NOVEC. Neither halt has a cause of 0x09 to 0x0B, so neither fails a check window (R420). A host halt
in the same instruction acts before the handler's first one (R376), through its own command. -/
def takeException (e : EngId) (cause badaddr : Nat) (epc : Half) (s : State) : State :=
  let o := getEng e s
  let b := BitVec.ofNat 16 badaddr
  if o.exh then
    putEng e
      { o with
        cause := cause, statCause := cause, bad := b, double := true, phase := .halted
        haltEvt := true, excEvt := true, cyc := o.cyc + 3 } s
  else
    let o :=
      { o with
        epc := epc, cause := cause, statCause := cause, bad := b, exh := true, excEvt := true
        cyc := o.cyc + 3 }
    if o.vec = 0 then
      putEng e { o with novec := true, phase := .halted, haltEvt := true } s
    else
      let n := o.cyc + jumpCost o o.vec
      putEng e { o with pc := BitVec.ofNat 16 o.vec, cyc := n, excAt := some n } s

/-- The return from an exception (R372): pc takes EPC and EXH clears. -/
def returnException (e : EngId) (s : State) : State :=
  modEng e (fun o => { o with pc := o.epc, exh := false }) s

end Sys2Proof.Machine
end

