-- ==== Sys2Proof/Machine/PowerOps.lean ====
section
/-!
DEFINITION. Operations of the converter (R129-R177): available and active phases, stagger, the bounds and the minimum
selector, the switching cycle of a phase (whose cell is Machine/CellOps.lean's), starts and stops, the protections, and the converter's part of a
hand-over. Currents of the selector are in mA/65536, of a cycle in mA; voltages are in mV.
-/

namespace Sys2Proof.Machine

open Sys2Proof

/-! ## Phases -/

/-- The record of phase `k`. -/
def phase (k : Nat) (s : State) : Phase := vAt s.pwr.phases k
/-- The record of phase `k` replaced. -/
def putPhase (k : Nat) (x : Phase) (s : State) : State :=
  { s with pwr := { s.pwr with phases := vPut s.pwr.phases k x } }
/-- The record of phase `k` changed. -/
def modPhase (k : Nat) (f : Phase → Phase) (s : State) : State := putPhase k (f (phase k s)) s
/-- Every phase changed. -/
def modPhases (f : Phase → Phase) (s : State) : State := forN 6 (fun k s => modPhase k f s) s

/-- Is phase `k` available (R154)? -/
def phAvail (k : Nat) (s : State) : Bool := bitOf (lfld PWR_PHEN_EN s) k && !fencedU (uPh k) s
/-- The available phases, ascending; their count is a (R154). -/
def availList (s : State) : List Nat := (List.range 6).filter (fun k => phAvail k s)
def nAvail (s : State) : Nat := (availList s).length
/-- The active phases, ascending; their count is n. -/
def activeList (s : State) : List Nat := (List.range 6).filter (fun k => (phase k s).active)
def nAct (s : State) : Nat := (activeList s).length
/-- May phase `k` switch now: available, and not stopped by its own protections (R168)? -/
def phReady (k : Nat) (s : State) : Bool := phAvail k s && !(phase k s).drvStop && !(phase k s).ocIdle

/-- The most phases a thermal orderly stop allows (R509). -/
def thermCap (s : State) : Nat := if s.chg.tstopOn || flag THM_STAT_GSTP s then 2 else 6
/-- The least number of active phases: min(NMIN, a), within the thermal cap (R154). -/
def nMin (s : State) : Nat := min (min (clampN 1 6 (lfld PWR_PHTH_NMIN s)) (nAvail s)) (thermCap s)

/-! ## Frequency and stagger (R141-R145) -/

/-- The nominal period P in taps of R141, which the range of PWR_GOFS follows (R177): that of the M in effect, also while a new PWR_FSW
is live and waits for its boundary (DESIGN CHOICE, log entry 153). -/
def periodNom (s : State) : Nat := 32000 / max s.pwr.mEff 1
/-- The nominal period in taps; 100 steps on the backup oscillator (R145). -/
def period (s : State) : Nat := if s.clk.bkosc then 100 else periodNom s
/-- Taps in one unit of `period`: 160 in a step of the backup oscillator (R145). -/
def stepTaps (s : State) : Nat := if s.clk.bkosc then 160 else 1
/-- Cycles in a frame (R141, R145). -/
def cyclesPerFrame (s : State) : Nat := if s.clk.bkosc then 2 else max s.pwr.mEff 1
/-- The origin of cycle `k` of a frame in units of `period` (R141): the taps by which the frame is lengthened or shortened are
spread over its cycles (R440). -/
def origin (k : Nat) (s : State) : Nat :=
  if s.clk.bkosc then k * 100 else ((k * (32000 + s.lnk.stretch) / (max s.pwr.mEff 1 : Nat) : Int)).toNat
/-- From the origin of cycle `k` of a frame to the next origin. -/
def spacing (k : Nat) (s : State) : Nat :=
  let j := k % cyclesPerFrame s
  origin (j + 1) s - origin j s

/-- The time since the frame tick in units of `period`. -/
def frameNow (s : State) : Nat := s.clk.sft * 16 / stepTaps s
/-- The number of the first cycle at the offset `off` that has not begun `t` units of `period` after the tick (R141). -/
def cycleAfter (off t : Nat) (s : State) : Nat :=
  let m := cyclesPerFrame s
  ((List.range m).filter (fun k => decide (origin k s + off < t))).length % m
/-- The cycle in which the time `t` after the tick lies, and the units of `period` since its origin. -/
def cycleAt (t : Nat) (s : State) : Nat × Nat :=
  let m := cyclesPerFrame s
  let t := t % max (origin m s) 1
  let k := ((List.range m).filter (fun k => decide (origin k s ≤ t))).length - 1
  (k, t - origin k s)

/-- The cycle that a phase is in `t` units of `period` after the tick, and its offset from that cycle's origin, below P: in the taps
by which a spacing is longer than P the phase is at the next origin (R141, R142). -/
def cycleIn (t : Nat) (s : State) : Nat × Nat :=
  let r := cycleAt t s
  if period s ≤ r.2 then ((r.1 + 1) % cyclesPerFrame s, 0) else r

/-- The place in taps from the tick at which phase `x` starts its next cycle. -/
def nextStart (x : Phase) (s : State) : Nat := (origin x.kcyc s + x.off) * stepTaps s

/-- Every phase keeps the place at which its next cycle starts, counted in the division of the frame that `t` has instead of the one
of `s`; its restagger then begins at that cycle (R141, R143, R145). -/
def redivide (s t : State) : State :=
  modPhases (fun x =>
    let r := cycleIn (nextStart x s / stepTaps t) t
    { x with off := r.2, kcyc := r.1 }) t

/-- The offset of the `j`-th of `n` active phases (R142, R145). -/
def offsetOf (j n : Nat) (s : State) : Nat :=
  let p := period s
  if s.clk.bkosc then j * 100 / max n 1 else (s.pwr.gEff + j * p / max n 1) % p

/-- A restagger (R143): every active phase is given its new offset, which it reaches in its next cycle. -/
def restagger (s : State) : State :=
  let l := activeList s
  (List.range l.length).foldl (fun t j => modPhase (l.getD j 0) (fun x => { x with offTo := offsetOf j l.length s }) t) s

/-- Is a restagger in progress? -/
def restagOn (s : State) : Bool := (activeList s).any (fun k => (phase k s).off != (phase k s).offTo)

/-- A live PWR_GOFS applies once no restagger runs (R143); a value of P or more is taken modulo the nominal P, also on the backup
oscillator, whose offsets ignore it (R145, R177). -/
def applyGofs (s : State) : State :=
  let g := lfld PWR_GOFS_OFS s % max (periodNom s) 1
  if restagOn s || s.pwr.gEff == g then s
  else restagger { s with pwr := { s.pwr with gEff := g } }

/-- The live PWR_FSW takes effect (R141); the caller has checked the boundary and the hand-over hold. A phase's first cycle after
it is the one of the new division that its old offset lies in. A live PWR_GOFS that is not below the new P is taken modulo P and
PWR_STAT.CLP keeps its bit 5 (DESIGN CHOICE, log entry 153). -/
def applyFsw (s : State) : State :=
  let m := clampN 2 8 (lfld PWR_FSW_M s)
  if s.pwr.mEff = m then s
  else
    let t := { s with pwr := { s.pwr with mEff := m } }
    restagger (redivide s { t with pwr := { t.pwr with gEff := lfld PWR_GOFS_OFS s % max (periodNom t) 1 } })

/-! ## Carrier state (R147, R180) -/

/-- Pack-carried. -/
def packC (s : State) : Bool := flag PWR_STAT_CARRIER s
/-- HBUS unfed. -/
def unfed (s : State) : Bool := flag HUB_STAT_UNFED s
/-- A hand-over step or hold is in progress. -/
def hoHold (s : State) : Bool := flag PWR_STAT_HOHOLD s
/-- Does a hand-over, its hold or a hand-back in which Fawn mode was entered run on, with the values it began with (R202)? -/
def keptOn (s : State) : Bool := s.hub.keep && (hoHold s || s.hub.hb.isSome)
/-- Do the values of boot service and Fawn mode hold in the power path (R152, R202)? -/
def hsvc (s : State) : Bool := svc s && !keptOn s

/-- Does a sag shed or a graze frame hold the upper bound at 0 (R210)? A graze frame acts while the node is source-carried (R511). -/
def shedOrGraze (s : State) : Bool := s.hub.shed || (s.thm.graze && !packC s && !unfed s)

/-- The most phases that may be active: the cap of an orderly stop applies when a hand-over's hold has ended (R509). -/
def phCap (s : State) : Nat := if hoHold s then 6 else thermCap s

/-- May the converter switch now? Pack-carried it runs; source-carried it runs forward under EN, while en_ceiling still falls, or
for the pre-charge of R259, with HBUS at 9 V or more (R76) and no sag shed or graze frame (R210, R511). A recorded stop, or no
phase, forbids it. Source-carried in boot service or Fawn mode, where R152 takes the CC set point as 0, it does not switch at all, and a
forward current of before stops with the drivers low (the model's choice, log entry 202). -/
def mayRun (s : State) : Bool :=
  s.pwr.stops.isEmpty && nAvail s != 0 &&
  (packC s || s.pwr.unfedRamp.isSome ||
    (!unfed s && !shedOrGraze s && decide (9000 ≤ s.pwr.vHb) && (s.chg.dg == .precharge || (!svc s && s.pwr.enc != some 0))))

/-- Is the converter switching? -/
def isRunning (s : State) : Bool := nAct s != 0

/-! ## Starting and stopping -/

/-- The leg mode at the first cycle after a stop (R131). -/
def firstLeg (s : State) : Leg :=
  let r := s.pwr.vPk * 10000
  let h := s.pwr.vHb
  if r < 9000 * h then .legA else if 11000 * h < r then .legB else .band

/-- D_B of a leg mode in 1/10000 (R131). -/
def dbOf (l : Leg) (s : State) : Nat :=
  match l with
  | .band => 8500
  | .legB => if s.pwr.vPk = 0 then 10000 else min 10000 (s.pwr.vHb * 10000 / s.pwr.vPk)
  | _ => 10000

/-- D_B now, along its ramp of 32 cycles (R132); before the first switching cycle that of the mode it would take (R131). -/
def dbNow (s : State) : Nat :=
  let p := s.pwr
  if p.leg = .none then dbOf (firstLeg s) s
  else if p.dbLeft = 0 then (if p.leg = .legB then dbOf .legB s else p.dbTo)
  else (p.dbFrom * p.dbLeft + p.dbTo * (32 - p.dbLeft)) / 32

/-- Soft start restarts from the present forward pack-terminal current (R166). -/
def softRestart (s : State) : State := { s with pwr := { s.pwr with ss := some (max 0 s.pwr.iPk * 65536) } }

/-- Phase `k` starts to switch: its command ramps in over `ramp` cycles. -/
def activate (ramp : Nat) (x : Phase) : Phase :=
  { x with active := true, forcing := false, toZero := false, rampUp := ramp, rampDn := 0, plCnt := 0 }

/-- Phase with its drivers low: OFF, with no current (R167). -/
def Phase.low (x : Phase) : Phase :=
  { x with
    active := false, pre := 0, forcing := false, toZero := false, cell := .off, seq := [], rampUp := 0, rampDn := 0
    carryUp := 0, carryPass := 0, carryDown := 0, cmd := 0, iL := 0, ripple := 0 }

/-- The converter is about to switch: the first switching cycle takes the leg mode (R131, R164). -/
def firstCycle (s : State) : State :=
  { s with pwr := { s.pwr with
    leg := .none, dbFrom := 10000, dbTo := 10000, dbLeft := 0, ratios := [], llCase := true, llEnt := false, iSel := 0 } }

/-- Every active phase stands at its new offset, its next cycle the first there that has not begun. -/
def atOffsets (l : List Nat) (s : State) : State :=
  l.foldl (fun t k => modPhase k (fun x => { x with off := x.offTo, kcyc := cycleAfter x.offTo (frameNow s) s }) t) s

/-- The dead times of the legs, taps: at least the 5 ns of the interlock (R130). -/
def dtaOf (s : State) : Nat := max 8 (lfld PWR_DT_DTA s)
def dtbOf (s : State) : Nat := max 8 (lfld PWR_DT_DTB s)
/-- The dead times of a change of a cell from `a` to `b` (R130). -/
def turnSeq (a b : Cell) (s : State) : List (Cell × Nat) := deadSeq (dtaOf s) (dtbOf s) a b

/-- Switching starts with `n` phases (R154, R163, R164), the lowest that may switch, restaggered: every available phase first
spends 2 µs in CIRC. -/
def startRun (n : Nat) (s : State) : State :=
  let l := (List.range 6).filter (fun k => phReady k s)
  let s := l.foldl (fun t k => modPhase k (fun x =>
    { x with pre := 2, cell := .circ, seq := turnSeq x.cell .circ s, refresh := 0, idle := 0 }) t) s
  let s := (l.take n).foldl (fun t k => modPhase k (activate 0) t) s
  softRestart (atOffsets (l.take n) (restagger (firstCycle s)))

/-- Every driver low (R167): no phase active, every cell in OFF, no direction, GOV 0b111. -/
def haltRun (s : State) : State :=
  let s := modPhases Phase.low s
  let s := { s with pwr := { s.pwr with leg := .none, iSel := 0, integ := Vector.replicate 6 0, llCase := true, llEnt := false } }
  let s := s |> setF PWR_STAT_GOV 7 |> setF PWR_STAT_DIR 0 |> setF PWR_STAT_LL 0 |> setF PWR_STAT_CAPGOV 0
    |> setF PWR_STAT_SSGOV 0 |> setF PWR_STAT_SHGOV 0
  softRestart s

/-- A safety stop of all switching with its reason (R167). -/
def stopFor (w : StopWhy) (s : State) : State :=
  let s := haltRun s
  if s.pwr.stops.contains w then s else { s with pwr := { s.pwr with stops := s.pwr.stops ++ [w] } }

/-- The reason is lifted; switching resumes when none is left and the carrying state calls for it. -/
def liftStop (w : StopWhy) (s : State) : State :=
  { s with pwr := { s.pwr with stops := s.pwr.stops.filter (fun x => x != w) } }

/-! ## Bounds (R146-R150) -/

/-- ICAP in mA (R150): min(IPKCEIL, 2000 W / max(V_PK, 9 V)) × a / 6. -/
def icapMa (s : State) : Nat := min (ipkceil s) (2000000000 / max s.pwr.vPk 9000) * nAvail s / 6
/-- The pack discharge limit in mA (R146, R152). -/
def idsMa (s : State) : Nat :=
  if hsvc s || lfld PWR_IDSLIM_VAL s == 0 then filim s else min (lfld PWR_IDSLIM_VAL s * 10) (ipkceil s)
/-- The thermal bound in mA. -/
def thrMa (s : State) : Nat := fld PWR_THDR_VAL s * 10
/-- sin of `x` quarter turns of 2^30, in 2^-30, for one quarter: the Taylor polynomial of degree 9 in π/2. -/
def sinQuarter (x : Int) : Int :=
  let q := 2 ^ 30
  let a := x * 1686629713 / q
  let a2 := a * a / q
  let p := q - a2 / 72
  let p := q - a2 * p / (42 * q)
  let p := q - a2 * p / (20 * q)
  let p := q - a2 * p / (6 * q)
  a * p / q

/-- sin(2π · num/den) in 2^-30. -/
def sinTurn (num den : Nat) : Int :=
  let f := (num % max den 1) * 4 * 2 ^ 30 / max den 1
  let quad := f / 2 ^ 30
  let r : Int := (f % 2 ^ 30 : Nat)
  match quad with
  | 0 => sinQuarter r
  | 1 => sinQuarter (2 ^ 30 - r)
  | 2 => -sinQuarter r
  | _ => -sinQuarter (2 ^ 30 - r)

/-- May a sweep start or go on: PRECHARGE, CC or PMC (R295, R302)? -/
def impState (s : State) : Bool := [4, 5, 6].contains (fld CHG_STATE_STATE s)

/-- The probe reference r(t) of R285 in mA: i_c plus the tones with their phases -π·k·(k-1)/n and the linear lead-in of R295, t
counted from the group's first tick. Tone k has its share of A_pk. The rounding down to mA is the model's (log entry 48). -/
def probeRef (j : ImpJob) (s : State) : Int :=
  let us := rd IMP_ELAP s * 20 + s.clk.sft / 100
  let g := (j.pts.drop j.first).take j.amps.length
  let base := ((g.head?.map (fun p => p.d)).getD 1) * 20
  let n := max 1 g.length
  let lead := decide ((g.head?.map (fun p => p.lead)).getD 0 ≠ 0 ∧ us < base)
  let tone := fun (k : Nat) =>
    let h := ((g.getD k ⟨0, 1, 1, 0, 1, 0⟩)).h
    let num := 2 * n * h * us + base * (2 * n * (k + 1) - (k + 1) * k % (2 * n))
    (j.amps.getD k 0 : Int) * sinTurn num (base * 2 * n)
  let sum := ((List.range g.length).map tone).sum * s.imp.apk
  let one := 2 ^ 30 * max 1 j.amps.sum
  let (num, den) := if lead then (us, max 1 base) else (1, 1)
  ((s.imp.ic * one * den : Nat) + sum * (num : Int)) / ((10 * one * den : Nat) : Int)

/-- The CC set point in mA (R146, R152, R285): the effective current, or the probe reference during a group. In a charge state that
a sweep may not run in the injection is off from this update on (R302). -/
def ccMa (s : State) : Int :=
  if svc s then 0
  else match s.imp.job with
    | some j => if j.startPend || !impState s then fld CHG_ILIVE_VAL s else min (probeRef j s) (fld CHG_ILIVE_VAL s)
    | none => fld CHG_ILIVE_VAL s
/-- The CV set point in mV: the effective voltage. -/
def cvMv (s : State) : Nat := fld CHG_VLIVE_VAL s
/-- The HBUS minimum voltage in mV; 0 off (R152). -/
def vminMv (s : State) : Nat := if svc s then 0 else lfld PWR_VINMIN_VAL s * 10
/-- The integral gain of a gain register per µs, and the proportional gain, in mA/65536 per mA or mV (R148, R177). -/
def gainI (a : Nat) (s : State) : Int := let v := lrd a s; ((16 + v % 16) * 2 ^ bitsOf v 7 4 : Nat)
def gainP (a : Nat) (s : State) : Int := let v := lrd a s; ((16 + bitsOf v 11 8) * 2 ^ bitsOf v 15 12 * 64 : Nat)

/-- Loop number to gain register: CC, CV, input current, HBUS minimum, hold, discharge limit. -/
def gainReg (i : Nat) : Nat :=
  match i with
  | 0 => PWR_KCC | 1 => PWR_KCV | 2 => PWR_KIIN | 3 => PWR_KVMIN | 4 => PWR_KHOLD | _ => PWR_KIDS

/-- I_SRC in mA (R179): the current through RSNS_HB, and S1's output current while S1 is in OUTPUT, whose coarse current is
negative out of HBUS. -/
def iSrc (s : State) : Int :=
  s.pwr.iHb - (if fld (HUB_PSTAT_STATE 1) s = 7 then sgn 16 (fld (HUB_PMEAS_I 1) s) * 10 else 0)

/-- The error of loop `i`: positive lets its bound rise. -/
def loopErr (i : Nat) (s : State) : Int :=
  let p := s.pwr
  match i with
  | 0 => ccMa s - p.iPk
  | 1 => (cvMv s : Int) - p.vPk
  | 2 => (fld HUB_ILIVE_VAL s * 10 : Int) - iSrc s
  | 3 => (p.vHb : Int) - vminMv s
  | 4 => (p.vHb : Int) - s.hub.holdRef
  | _ => (idsMa s : Int) + p.iPk

/-- The bound loop `i` puts out this µs, with its integrator advanced: (bound, integrator) (R148). -/
def loopStep (i : Nat) (s : State) : Int × Int :=
  let e := loopErr i s
  let g := vAt s.pwr.integ i + gainI (gainReg i) s * e
  (gainP (gainReg i) s * e + g, g)

/-- Number of mA/65536 in `x` mA. -/
def sel (x : Int) : Int := x * 65536

/-- The smaller of two bounds with their GOV codes; between equals the lower code (R149). -/
def minBound (a b : Int × Nat) : Int × Nat :=
  if a.1 < b.1 then a else if b.1 < a.1 then b else if a.2 ≤ b.2 then a else b

/-- The bounds of one µs: the six loop outputs, in loop order. -/
structure Bounds where
  b : Vector Int 6
  g : Vector Int 6
  deriving DecidableEq, Repr

/-- Every loop advanced by 1 µs. -/
def bounds (s : State) : Bounds :=
  let r := fun i => loopStep i s
  ⟨#v[(r 0).1, (r 1).1, (r 2).1, (r 3).1, (r 4).1, (r 5).1], #v[(r 0).2, (r 1).2, (r 2).2, (r 3).2, (r 4).2, (r 5).2]⟩

/-- The hold bound `h` of its loop, under the ceiling on reverse current of a pack start (R585); the ramp of a hand-back replaces
it by the line to zero (R162), that of R214 holds it to the line from the lower bound. -/
def holdBound (h : Int) (s : State) : Int :=
  match s.pwr.hbRamp with
  | some (h0, t, n) => if n ≤ t then 0 else h0 * ((n - t : Nat) : Int) / (n : Int)
  | none =>
    let h := match s.pwr.rss with | none => h | some c => max h (-c)
    match s.pwr.unfedRamp with
    | none => h
    | some (l0, t) => max h (if 1000 ≤ t then 0 else l0 * ((1000 - t : Nat) : Int) / 1000)

/-- d_b of R137 in 1/10000. -/
def dB (s : State) : Nat := if s.pwr.leg = .legA then 10000 else max 1 (dbNow s)

/-- The hardware pre-charge bound of R259: 0 once V_CS has reached PK_VS − 0.5 V, below it a free value at which the summed inductor
current is at most 1 A. -/
def preBound (s : State) : Int :=
  let p := s.pwr
  if p.vPk ≤ p.vCs + 500 then 0 else sel (min 1000 (Config.preBound p.vCs p.vPk) : Nat) * dB s / 10000

/-- The loops' minimum for the upper bound with its GOV code, without ICAP, the ceilings, sag shed and graze (R149). During
the pre-charge of R259 its bound replaces those of CC and CV; with CHG_VLIVE at 0 the CV bound is 0 (R261). -/
def upperLoops (b : Bounds) (s : State) : Int × Nat :=
  let pre := s.chg.dg == .precharge
  let thr := (sel (thrMa s), 6)
  let cc := (if pre then preBound s else max (vAt b.b 0) 0, 0)
  let cv := (if pre then preBound s else if cvMv s = 0 then 0 else max (vAt b.b 1) 0, 1)
  let u := minBound (minBound thr cc) cv
  if packC s then minBound u (holdBound (vAt b.b 4) s, 4)
  else
    let u := minBound u (vAt b.b 2, 2)
    if vminMv s = 0 then u else minBound u (max (vAt b.b 3) 0, 3)

/-- The loops' lower bound with its code; 0 source-carried. -/
def lowerLoops (b : Bounds) (s : State) : Int × Nat :=
  if packC s then
    let m := minBound (vAt b.b 5, 5) (sel (thrMa s), 6)
    (-m.1, m.2)
  else (0, 7)

/-- The minimum of a bound and a ceiling that may be absent. -/
def minOpt (a : Int) : Option Int → Int
  | none => a
  | some c => min a c

/-- The integrator `g` of loop `i`, held within 2 A of i_sel = `x` on its own side: above it for an upper bound, below it for the
discharge limit (R148). -/
def heldInteg (i : Nat) (x g : Int) : Int :=
  if i = 5 then clampI (-x) (-x + sel 2000) g else clampI x (x + sel 2000) g

/-- One update of the selector (R149): i_sel, GOV and its three companions. The loop that GOV names counts as the governing one also
while ICAP, a ceiling, a sag shed or a graze frame sets i_sel, so its integrator runs on then (the model's choice, log entry 108).
Below 9 V on HBUS nothing is switched forward (R76). -/
def selectNow (s : State) : State :=
  let b := bounds s
  let ul := upperLoops b s
  let ll := lowerLoops b s
  let icap := sel (icapMa s)
  let held := shedOrGraze s || unfed s || decide (s.pwr.vHb < 9000)
  let ub := min ul.1 icap
  let ubE := if packC s then ub else minOpt ub s.pwr.enc
  let ubH := if held then min ubE 0 else ubE
  let lb := if packC s then max ll.1 (-icap) else 0
  let x := max (minOpt ubH s.pwr.ss) lb
  let gov := if ul.1 < ll.1 then ll.2 else if ll.1 < ul.1 then ul.2 else min ul.2 ll.2
  let gov := if gov = 7 then ul.2 else gov
  let cap := (x == icap && decide (icap < ul.1)) || (packC s && x == -icap && decide (ll.1 < -icap))
  let ceil := minOpt (minOpt (max ubH (x + 1)) s.pwr.ss) (if packC s then none else s.pwr.enc)
  let ssg := decide (ceil = x) && decide (x < min ul.1 icap) && !held
  let own := fun (i : Nat) (g : Int) => if gov = i then g else heldInteg i x g
  let s := { s with pwr := { s.pwr with
    iSel := x
    integ := #v[own 0 (vAt b.g 0), own 1 (vAt b.g 1), own 2 (vAt b.g 2), own 3 (vAt b.g 3), own 4 (vAt b.g 4), own 5 (vAt b.g 5)] } }
  s |> setF PWR_STAT_GOV gov |> setB PWR_STAT_CAPGOV cap |> setB PWR_STAT_SSGOV ssg
    |> setB PWR_STAT_SHGOV (shedOrGraze s)
    |> setF PWR_STAT_DIR (if 0 < x then 1 else if x < 0 then 2 else 0)

/-- The ceilings move by 1 µs (R166, R585). -/
def ceilings (s : State) : State :=
  let rate : Int := sel (((lfld PWR_CTL_SSR s + 1) * 4 : Nat))
  let icap := sel (icapMa s)
  let p := s.pwr
  { s with pwr := { p with
    ss := match p.ss with | none => none | some c => if icap ≤ c + rate then none else some (c + rate)
    rss := match p.rss with | none => none | some c => if icap ≤ c + rate then none else some (c + rate) } }

/-- The lines to zero of EN, of a hand-back and of R214 move by 1 µs, whether or not the converter switches (R162, R165, R214). -/
def rampsUs (s : State) : State :=
  { s with pwr := { s.pwr with
    enc := s.pwr.enc.map (fun c => max 0 (c - sel (((lfld PWR_CTL_SSR s + 1) * 4 : Nat))))
    hbRamp := s.pwr.hbRamp.map (fun r => (r.1, r.2.1 + 1, r.2.2))
    unfedRamp := s.pwr.unfedRamp.map (fun r => (r.1, r.2 + 1)) } }

/-- Light-load mode (R140): a case of R140 puts a single active phase in it at once, and the first forward cycles after a stop
run in it with as many phases as start (R164); |i_sel| above 1.5 A, a second phase, the end of the case or a live LLM of 0 ends it. -/
def lightLoad (s : State) : State :=
  let big := decide (sel 1500 < s.pwr.iSel ∨ s.pwr.iSel < sel (-1500))
  let s := { s with pwr := { s.pwr with llCase := s.pwr.llCase && !big, llEnt := s.pwr.llEnt && !big && lfld PWR_CTL_LLM s == 1 } }
  let first := s.pwr.llCase && !packC s
  let forced := s.chg.dg == .precharge || (fld CHG_STATE_STATE s == 3)
  setB PWR_STAT_LL (!big && (first || (decide (nAct s = 1) && (forced || s.pwr.llEnt)))) s

/-- A current in mA from the voltage across a shunt in µV and its resistance in 10 µΩ (R586), rounded to the nearest (the model's choice,
log entry 203). -/
def shuntMa (uv : Int) (r : Nat) : Int := idivRound (uv * 100) (max r 1)
/-- RSNS_PK and RSNS_HB in 10 µΩ, as PWR_SNS holds them (R586). -/
def rPk (s : State) : Nat := lfld PWR_SNS_RPK s
def rHb (s : State) : Nat := lfld PWR_SNS_RHB s

/-- The latest fast-path samples (R147), the currents by the shunts of PWR_SNS (R586). -/
def putFast (o : FastObs) (s : State) : State :=
  { s with pwr := { s.pwr with vPk := o.vPk, vHb := o.vHb, vCs := o.vCs, iPk := shuntMa o.sPk (rPk s), iHb := shuntMa o.sHb (rHb s) } }

/-- The window of 10 µs moves on by the latest samples (R275). -/
def pushHist (s : State) : State :=
  { s with pwr := { s.pwr with hist := ((s.pwr.vPk, s.pwr.iPk) :: s.pwr.hist).take 10 } }

/-- The average pack current of an ended frame in 0.1 mA, and of RSNS_HB in 10 mA, by the shunts of PWR_SNS (R586), rounded to the
nearest (the model's choice, log entry 203). -/
def avgIpk (o : FrameObs) (s : State) : Int := idivRound (o.sPk * 100) (max (rPk s) 1)
def avgIhb (o : FrameObs) (s : State) : Int := idivRound (o.sHb * 10) (max (rHb s) 1)
/-- Did a channel leave its range in the frame (R83): 0-88 V, ±100 mV across the shunt? -/
def vOut (x : Int) : Bool := decide (x < 0 ∨ 8800000 < x)
def iOut (x : Int) : Bool := decide (1000000 < x.natAbs)
def vOver (o : FrameObs) : Bool := vOut o.vPk || o.imp.any (fun x => vOut x.1)
def iOver (o : FrameObs) : Bool := iOut o.sPk || o.imp.any (fun x => iOut x.2)

/-- A ramp to 0 of the effective current moves by 1 µs (R254). -/
def chgRampUs (s : State) : State :=
  match s.chg.ramp with
  | none => s
  | some (i0, t) =>
    let t := t + 1
    let s := setF CHG_ILIVE_VAL (if 500 ≤ t then 0 else i0 * (500 - t) / 500) s
    { s with chg := { s.chg with ramp := if 500 ≤ t then none else some (i0, t) } }

/-- Is a hand-over in its steps 2 and 3: does any phase force (R159)? -/
def forcingNow (s : State) : Bool := (List.range 6).any (fun k => (phase k s).forcing)

/-- Do phases spend their 2 µs of CIRC before the first cycle (R163)? -/
def preNow (s : State) : Bool := (List.range 6).any (fun k => (phase k s).active && (phase k s).pre != 0)

/-- The CIRC before the first cycle moves by 1 µs (R163); a phase that does not start goes to OFF at its end. The check of R79 that
follows it is BOOTSTRAP_UV's. -/
def preUs (s : State) : State :=
  modPhases (fun x =>
    if x.pre = 0 then x
    else if x.pre = 1 && !x.active then { x with pre := 0, cell := .off }
    else if x.pre = 1 then { x with pre := 0, kcyc := cycleAfter x.off (frameNow s) s }
    else { x with pre := x.pre - 1 }) s

/-- One idle phase's refresh: 80 ns in CIRC once every 32 nominal periods, at the tap of this µs at which they are over (R163). No
driver is on while a stop is recorded (R167, R168). -/
def idlePhase (k : Nat) (s : State) : State :=
  modPhase k (fun x =>
    let due := 32 * period s * stepTaps s
    if x.active || x.pre != 0 || x.rampDn != 0 then { x with idle := 0 }
    else if x.drvStop || !phAvail k s || !s.pwr.stops.isEmpty then { x with idle := 0, seq := [] }
    else if due ≤ x.idle + 1600 then
      { x with
        idle := min 1599 (x.idle + 1600 - due)
        seq := ((Cell.off, due - x.idle) :: (turnSeq .off .circ s ++ [(Cell.circ, 128), (Cell.off, 1472 - (due - x.idle))])).filter
          (fun c => c.2 != 0) }
    else { x with idle := x.idle + 1600, seq := [] }) s

/-- While the pack reserve is available an available phase that does not switch spends 80 ns in CIRC once every 32 nominal
periods, and carries no current (R163); the drivers of a phase that is fenced, disabled or stopped stay low (R168, R169). -/
def idleRefresh (s : State) : State := forN 6 idlePhase s

/-- Each phase stops at its next zero crossing (R165). -/
def stopAtZero (s : State) : State := modPhases (fun x => if x.active then { x with toZero := true } else x) s

/-- Total inductor current |i_sel| / d_b in mA. -/
def totalMa (s : State) : Nat := s.pwr.iSel.natAbs * 10000 / (65536 * dB s)

/-- The effective SHED in 0.125 A: at most ADD less 1 A (R155). -/
def shedThr (s : State) : Nat := min (lfld PWR_PHTH_SHED s) (lfld PWR_PHTH_ADD s - 8)

/-- Is the total current below (n − 1) × SHED (R153)? -/
def shedLow (s : State) : Bool := decide (totalMa s < (nAct s - 1) * shedThr s * 125)

/-- The frame in progress has left the condition of a shed (R153). A frame counts when every update in it and its tick find the
condition met (DEDUCED, log entry 184). -/
def shedSee (s : State) : State :=
  if shedLow s then s else { s with pwr := { s.pwr with shedCnt := 0, shedBad := true } }

/-- A frame ends: it counts toward SHDLY where it met the condition of a shed throughout (R153). -/
def shedTick (s : State) : State :=
  { s with pwr := { s.pwr with
    shedCnt := if shedLow s && !s.pwr.shedBad then min 255 (s.pwr.shedCnt + 1) else 0, shedBad := false } }

/-- One µs of the outer loops. While phases force, the preset of R159 stands and the selector waits
(R161), and it waits while phases spend the CIRC before their first cycle, up to the µs in which that ends (R163). When EN's ceiling
has reached zero, in a sag shed or in a graze frame, the phases stop at their zero crossings (R165, R209); any other end of the
right to switch stops them at once. -/
def selectorMove (o : FastObs) (s : State) : State :=
  let s := s |> putFast o |> pushHist |> chgRampUs |> rampsUs
  if forcingNow s then s
  else if !mayRun s then
    if !isRunning s then preUs (setB PWR_STAT_SHGOV (shedOrGraze s) s)
    else if s.pwr.stops.isEmpty && !unfed s && (shedOrGraze s || s.pwr.enc == some 0) then
      stopAtZero (s |> ceilings |> selectNow)
    else haltRun s
  else if !isRunning s then startRun (if hoHold s then 6 else max 1 (nMin s)) (setF PWR_STAT_SHGOV 0 s)
  else
    let s := preUs s
    if preNow s then s else s |> ceilings |> selectNow |> lightLoad

/-- SELECTOR_UPDATE (R149). -/
def selectorUpdate (o : FastObs) (s : State) : State := shedSee (selectorMove o s)

/-! ## A switching cycle (R131-R140) -/

/-- The leg mode after a cycle, with hysteresis: leg-A and leg-B are entered from the band only (R131). -/
def nextLeg (l : Leg) (vp vh : Nat) : Leg :=
  let lt := fun c : Nat => decide (vp * 100 < c * vh)
  let gt := fun c : Nat => decide (c * vh < vp * 100)
  match l with
  | .legA => if lt 90 then .legA else .band
  | .band => if lt 88 then .legA else if gt 110 then .legB else .band
  | .legB => if gt 108 then .legB else .band
  | .none => if lt 90 then .legA else if gt 110 then .legB else .band

/-- The leg mode and D_B advance by one cycle, the first after a stop taking its mode at once (R131, R132). The average of r over
the last 8 cycles is the sum of their V_PK over the sum of their V_HB, of fewer cycles after a start (the model's choice, log entry
109). -/
def legStep (vp vh : Nat) (s : State) : State :=
  let l := ((vp, vh) :: s.pwr.ratios).take 8
  let sp := (l.map (·.1)).sum
  let sh := (l.map (·.2)).sum
  let leg := nextLeg s.pwr.leg sp sh
  let left := s.pwr.dbLeft - 1
  let s := { s with pwr := { s.pwr with ratios := l, dbLeft := left } }
  if leg = s.pwr.leg then s
  else if s.pwr.leg = .none then
    { s with pwr := { s.pwr with leg := leg, dbFrom := dbOf leg s, dbTo := dbOf leg s, dbLeft := 0 } }
  else
    let d := dbNow s
    { s with pwr := { s.pwr with leg := leg, dbFrom := d, dbTo := dbOf leg s, dbLeft := 32 } }

/-- The sign of a number. -/
def sgnI (x : Int) : Int := if x < 0 then -1 else if x = 0 then 0 else 1

/-- i_cmd of phase `k` in mA before the slope compensation (R137): the mean, half the ripple of the emulator's last cycle, limited
to PWR_IPK. -/
def peakCmd (k : Nat) (s : State) : Int :=
  let ipk : Int := (lfld PWR_IPK_IPK s * 250 : Nat)
  let i := s.pwr.iSel
  let mean := i * 10000 / ((max (nAct s) 1 : Int) * dB s * 65536)
  clampI (-ipk) ipk (mean + sgnI i * ((phase k s).ripple : Int) / 2000)

/-- The share of i_cmd a phase takes while it ramps in after an add or out after a shed (R156). -/
def rampCmd (x : Phase) (c : Int) : Int :=
  if x.rampUp ≠ 0 then c * ((9 - x.rampUp : Nat) : Int) / 8
  else if x.rampDn ≠ 0 then c * ((x.rampDn - 1 : Nat) : Int) / 8
  else c

/-- The anchors of a cycle (R135), emulated and sensed in µA: 64 consecutive cycles more than 15 % of PWR_IPK apart set EMU and
raise PH_OC. A cycle with no sensed interval compares nothing. A mismatch that goes on sets EMU and raises PH_OC no second time before a
cycle that matches (the model's choice, log entry 200). -/
def emulator (k : Nat) (a : List (Int × Int)) (s : State) : State :=
  if a.isEmpty then s
  else if a.any (fun p => decide (lfld PWR_IPK_IPK s * 250000 * 15 < (p.1 - p.2).natAbs * 100)) then
    let n := (phase k s).emuCnt + 1
    let s := modPhase k (fun x => { x with emuCnt := min n 64 }) s
    if n = 64 then s |> setF (PWR_PHSTAT_EMU k) 1 |> raise' srcPhOc 2 (some (uPh k)) k else s
  else modPhase k (fun x => { x with emuCnt := 0 }) s

/-- The leg mode whose order a cycle follows: during the ramp of D_B it is the band's (R132). -/
def orderLeg (s : State) : Leg := if s.pwr.dbLeft ≠ 0 then .band else s.pwr.leg

/-- The settings of a phase's next cycle with command `cmd` in mA, `len` units of `period` long (R134-R140). A direction of
zero counts as forward (log entry 107). -/
def cycleOf (o : CycleObs) (cmd : Int) (len : Nat) (zero fresh : Bool) (s : State) : Cycle :=
  let lph := lfld PWR_BRD_LPH s
  let st := stepTaps s
  { lph := lph, rph := lfld PWR_BRD_RPH s, dta := dtaOf s, dtb := dtbOf s
    per := period s * st, len := len * st, step := st, leg := orderLeg s, rev := decide (s.pwr.iSel < 0)
    upT := period s * st * (10000 - min 10000 (dbNow s)) / 10000
    cmd := ofMicro lph (cmd.natAbs * 1000 : Nat), ipk := ofMicro lph (lfld PWR_IPK_IPK s * 250000 : Nat)
    zero := zero, fresh := fresh, obs := o }

/-- What a cycle leaves in its phase: its switches with the high-side drivers that its floating supplies hold low (R79). The emulator
goes on with the voltages of the states, as with a driver that conducts (DESIGN CHOICE, log entry 185). -/
def endCycle (lph : Nat) (w : Walk) (x : Phase) : Phase :=
  { x with
    cell := w.cell.held x.holdA x.holdB, seq := w.seq.map (fun p => (p.1.held x.holdA x.holdB, p.2))
    iL := toMicro lph w.i, ripple := (toMicro lph (w.hi - w.lo)).toNat
    carryUp := w.carryUp, carryPass := w.carryPass, carryDown := w.carryDown }

/-- A cycle that the peak limit ended is counted (R138). -/
def countPeak (k : Nat) (hit : Bool) (s : State) : State :=
  let s := modPhase k (fun x => { x with plCnt := if hit then x.plCnt + 1 else 0 }) s
  if hit then incWrap PWR_PLCNT_COUNT s else s

/-- The last phase has stopped: the converter does not switch (R167). -/
def lastOff (s : State) : State := if isRunning s then s else haltRun s

/-- Phase `k` stops with its drivers low (R168, R169). Where it was the only active one the manual does not say what the converter
does: it stops, with n = 0 and GOV 0b111, and the next update starts it again with the phases that may switch, after 2 µs of CIRC
and with a soft start (DESIGN CHOICE, log entry 166). -/
def phaseOff (k : Nat) (s : State) : State :=
  let was := (phase k s).active
  let s := modPhase k Phase.low s
  if was then (if nAct s = 0 then haltRun s else restagger s) else s

/-- A phase that forces (R159, R161): when its current has reached i_ff / a, with a the phases admitted (log entry 167), or
PWR_IPK, it switches in reverse at once, from the point of its period at which that happens: its offset is re-acquired by the
transitional cycle of R143. Forcing is no switching cycle: the ripple stays that of the last one (R137). When no phase forces any more, step 4 releases the preset. -/
def forceCycle (k : Nat) (o : CycleObs) (s : State) : State :=
  let lph := lfld PWR_BRD_LPH s
  let c := cycleOf o 0 32000 false false s
  let (done, w) := c.force (ofMicro lph (s.pwr.ff * 1000 / (max (nAct s) 1 : Nat))) (phase k s)
  let (j, pos) := cycleIn (frameNow s + w.t / stepTaps s) s
  let s := modPhase k (fun x =>
    { endCycle lph w x with
      forcing := !done, off := if done then pos else x.off, kcyc := if done then j else x.kcyc, ripple := x.ripple }) s
  let s := if done && w.peak then countPeak k true s else s
  if forcingNow s then s else setF PWR_STAT_DIR (if s.pwr.ff < 0 then 2 else 0) s

/-- The leg order follows the lowest active phase's cycles (R134, R135); the first cycle of any phase after a stop decides it (R131). -/
def legCycle (k : Nat) (o : CycleObs) (s : State) : State :=
  if k = (activeList s).headD k ∨ s.pwr.leg = .none then
    let v := o.vs.headD (s.pwr.vPk, s.pwr.vHb)
    legStep v.1 v.2 s
  else s

/-- Is the next cycle of phase `k` its last: it stops, or the last of its ramp to zero (R156, R165)? -/
def lastCycle (k : Nat) (s : State) : Bool := (phase k s).toZero || (phase k s).rampDn == 1

/-- How far the next cycle of phase `k` moves its origin, ratio-clock periods: the transitional cycle of R143. -/
def cycleMove (k : Nat) (s : State) : Nat :=
  let x := phase k s
  let p := period s
  if x.off = x.offTo then 0 else (x.offTo + p - x.off % p) % p

/-- The next cycle of phase `k`: its peak command, whether it refreshes, and what it does (R134-R143). In a sag shed it goes down
to zero at once (R209). The last cycle of a phase that sheds or stops carries no time from the one before (R156, R165). -/
def phaseWalk (k : Nat) (o : CycleObs) (s : State) : Int × Bool × Walk :=
  let x := phase k s
  let lph := lfld PWR_BRD_LPH s
  let ll := flag PWR_STAT_LL s
  let last := lastCycle k s
  let cmd := rampCmd x (peakCmd k s)
  let skip := ll && decide (cmd.natAbs < 500)
  let cmd := if skip || last then 0 else cmd
  let fresh := decide (31 ≤ x.refresh) && orderLeg s != .band
  let c0 := cycleOf o cmd (spacing x.kcyc s + cycleMove k s) (ll || last) fresh s
  let c := if last && x.iL != 0 then { c0 with rev := decide (x.iL < 0) } else c0
  let w1 := startWalk lph x
  let w0 := if last then { w1 with carryUp := 0, carryPass := 0, carryDown := 0 } else w1
  (cmd, fresh,
    if (skip && x.iL == 0) || (last && x.cell == .off) then c.run c.len { w0 with cell := .off, i := 0 }
    else if x.toZero && s.hub.shed then c.falling .down c.len w0
    else c.order w0)

/-- One cycle of a phase that switches (R134-R143). A phase whose current does not reach zero in its last cycle falls on in the
next (R156, R165); when it stops the others restagger (R143). A refresh that falls due in a cycle that is skipped, or whose interval is
omitted, is not made up (DESIGN CHOICE, log entry 154). -/
def phaseCycle (k : Nat) (o : CycleObs) (s : State) : State :=
  let s := legCycle k o s
  let lph := lfld PWR_BRD_LPH s
  let p := period s
  let move := cycleMove k s
  let sp := spacing (phase k s).kcyc s
  let last := lastCycle k s
  let r := phaseWalk k o s
  let band := orderLeg s == .band
  let n := cyclesPerFrame s
  let s := modPhase k (fun x => { endCycle lph r.2.2 x with
    cmd := r.1, len := sp + move, off := x.offTo
    kcyc := (x.kcyc + 1 + (if p ≤ x.off % p + move then 1 else 0)) % n
    rampUp := x.rampUp - 1, rampDn := if last && r.2.2.cell != .off then x.rampDn else x.rampDn - 1
    refresh := if band || r.2.1 then 0 else x.refresh + 1 }) s
  let s := countPeak k r.2.2.peak s
  let s := emulator k (r.2.2.anchors.map (fun a => (toMicro lph a.1, toMicro lph a.2))) s
  let s := if last && r.2.2.cell == .off then lastOff (phaseOff k s) else s
  applyGofs s

/-- SWITCHING_CYCLE (R137): one cycle of phase `k`. In the CIRC before its first cycle a phase does not switch yet (R163). -/
def switchingCycle (k : Nat) (o : CycleObs) (s : State) : State :=
  let x := phase k s
  if (!x.active && x.rampDn == 0) || x.pre != 0 then s
  else if x.forcing then forceCycle k o s
  else phaseCycle k o s

/-! ## Phase count (R153-R157) -/

/-- A phase joins at its new offset, its i_cmd ramped over 8 cycles (R156). A second phase ends light-load mode (R140). -/
def addPhase (k : Nat) (s : State) : State :=
  let s := atOffsets [k] (restagger (modPhase k (activate 8) s))
  if nAct s ≤ 1 then s else lightLoad { s with pwr := { s.pwr with llEnt := false } }

/-- PHASE_ADD (R153): the lowest available phase that is not active, when the mean is above ADD or an active phase has been
limited in 2 consecutive cycles. -/
def phaseAddOp (s : State) : State :=
  let n := nAct s
  let due := decide (lfld PWR_PHTH_ADD s * 125 * n < totalMa s) || (activeList s).any (fun k => decide (2 ≤ (phase k s).plCnt))
  if n = 0 ∨ !due ∨ phCap s ≤ n then s
  else
    match (List.range 6).find? (fun k => phReady k s && !(phase k s).active) with
    | none => s
    | some k => addPhase k s

/-- A phase sheds: its i_cmd ramps to 0 over 8 cycles, and its last cycle ends at zero current (R156). -/
def shedPhase (k : Nat) (s : State) : State :=
  restagger (modPhase k (fun x => { x with active := false, rampUp := 0, rampDn := 8 }) s)

/-- The shed delay SHDLY in frames: 0 is treated as 1 (R177). -/
def shedDelay (s : State) : Nat := max 1 (lfld PWR_PHTH_SHDLY s)

/-- PHASE_SHED (R153): the highest active phase, outside a hand-over, after SHDLY frames; the frames of the next shed are counted
afresh (DEDUCED, log entry 184). -/
def phaseShedOp (s : State) : State :=
  if hoHold s ∨ nAct s ≤ max 1 (nMin s) ∨ shedLow s = false ∨ s.pwr.shedCnt < shedDelay s then s
  else
    match (activeList s).getLast? with
    | none => s
    | some k => shedPhase k { s with pwr := { s.pwr with shedCnt := 0 } }

/-- While the converter runs, n is kept at a in a hand-over, else at least at its minimum (R154, R157): the lowest available phases
join. -/
def fillPhases (s : State) : State :=
  if !isRunning s then s
  else
    (List.range 6).foldl (fun t k =>
      if phReady k t && !(phase k t).active && decide (nAct t < if hoHold t then phCap t else nMin t) then addPhase k t else t) s

/-- n is kept in its range (R154): a phase that is not available leaves at once, those past the cap of an orderly stop shed, and
the range is filled from below. -/
def keepCount (s : State) : State :=
  let s := (List.range 6).foldl (fun t k => if (phase k t).active && !phAvail k t then phaseOff k t else t) s
  let s := ((activeList s).drop (phCap s)).foldl (fun t k => shedPhase k t) s
  fillPhases s

/-- LIGHT_LOAD_ENTRY (R140). -/
def lightLoadEntryOp (s : State) : State :=
  if lfld PWR_CTL_LLM s == 1 && nAct s == 1 && decide (s.pwr.iSel.natAbs < 65536000) then
    setF PWR_STAT_LL 1 { s with pwr := { s.pwr with llEnt := true } }
  else s

/-! ## Protections (R79, R168, R169) -/

/-- The sensed current of a phase in mA from the voltage of its RSNS_PHk in µV (R129, PWR_BRD). -/
def phaseMa (uv : Int) (s : State) : Int := uv * 4 / (max 1 (lfld PWR_BRD_RPH s) : Nat)

/-- PHASE_HARD_OC (R168): at 1.5 × PWR_IPK or more the phase idles, OC is set, and the third event within 1 ms raises PH_OC and uses up
the three (the model's choice, log entry 122). -/
def hardOc (k : Nat) (uv : Int) (s : State) : State :=
  if (phaseMa uv s).natAbs * 2 < lfld PWR_IPK_IPK s * 750 then s else
  let t := nowUs s
  let at' := t :: ((phase k s).ocAt.filter (fun u => decide (t < u + 1000)))
  let s := s |> phaseOff k |> modPhase k (fun x => { x with ocIdle := true, ocAt := at'.take 3 })
    |> setF (PWR_PHSTAT_OC k) 1
  if 3 ≤ at'.length then
    raise' srcPhOc 2 (some (uPh k)) k (modPhase k (fun x => { x with ocAt := [] }) s)
  else s

/-- PHASE_READMIT (R168, R156). -/
def readmit (k : Nat) (s : State) : State :=
  if !(phase k s).ocIdle then s
  else
    let s := modPhase k (fun x => { x with ocIdle := false }) s
    if isRunning s && phReady k s && decide (nAct s < phCap s) then addPhase k s else s

/-- GATE_FEEDBACK_FAULT (R168): the phase stays stopped until DRV is cleared or its fence is released. -/
def gateFault (k : Nat) (s : State) : State :=
  s |> phaseOff k |> modPhase k (fun x => { x with drvStop := true }) |> setF (PWR_PHSTAT_DRV k) 1
    |> raise' srcPhDrv 2 (some (uPh k)) k

/-- The frame average of phase `k` in 10 mA, and the mean of those of the active phases. -/
def phAvg (k : Nat) (s : State) : Int := sgn 16 (fld (PWR_PHAVG_AVG k) s)
def phMean (s : State) : Int := ((activeList s).map (fun k => phAvg k s)).sum / (max 1 (nAct s) : Nat)

/-- Does phase `k`'s frame average differ from the active mean by more than 25 % of the mean and 1 A (R168)? -/
def imbNow (k : Nat) (s : State) : Bool :=
  (phase k s).active && decide ((phMean s).natAbs + 400 < 4 * (phAvg k s - phMean s).natAbs)

/-- The frames of imbalance at a tick, counted to 50 for each phase (R168). -/
def imbTick (s : State) : State :=
  forN 6 (fun k t => modPhase k (fun x => { x with imbCnt := if imbNow k s then min 50 (x.imbCnt + 1) else 0 }) t) s

/-- PHASE_IMBALANCE (R168): the 50th consecutive frame. -/
def imbalance (k : Nat) (s : State) : State :=
  if (phase k s).active && (phase k s).imbCnt == 50 then s |> setF (PWR_PHSTAT_IMB k) 1 |> raise' srcPhOc 2 (some (uPh k)) k else s

/-- The falling and rising thresholds of a floating supply in mV, at 5 V and at 6 V drive (R79). -/
def uvThr (s : State) : Nat × Nat := if flag GLB_SUPSTAT_VDRVLVL s then (4300, 4600) else (3600, 3900)

/-- BOOTSTRAP_UV (R79): the voltage of a floating supply of phase `k` at one of its cycles. Below the falling threshold its
high-side driver is held low until the supply is above the rising one; 20 consecutive cycles below raise PH_DRV. -/
def bootstrap (k : Nat) (pack : Bool) (mv : Nat) (s : State) : State :=
  let x := phase k s
  let thr := uvThr s
  let held := if pack then x.holdB else x.holdA
  let low := decide (mv < thr.1) || (held && decide (mv ≤ thr.2))
  let n := if pack then x.uvB else x.uvA
  let m := if low then min (n + 1) 20 else 0
  let s := modPhase k (fun x => if pack then { x with uvB := m, holdB := low } else { x with uvA := m, holdA := low }) s
  if m = 20 && n != 20 then raise' srcPhDrv 2 (some (uPh k)) k s else s

/-- A phase's fence (R169): drivers low, out of the available set; n is kept at its minimum (R154). -/
def fencePhase (k : Nat) (s : State) : State := fillPhases (phaseOff k s)

/-- The release of its fence (R169): it rejoins at the next add decision. -/
def releasePhase (k : Nat) (s : State) : State := modPhase k (fun x => { x with drvStop := false, ocIdle := false }) s

/-! ## Hand-over (R157-R162) -/

/-- The lower bound lb of R149 in mA as a hand-over meets it: the discharge-limit loop enters at its set point (log entry 110). -/
def lbMa (s : State) : Int :=
  let s := { s with pwr := { s.pwr with integ := vPut s.pwr.integ 5 (sel (idsMa s)) } }
  let ids := max 0 (loopStep 5 s).1
  0 - min (min (ids / 65536) (thrMa s)) (icapMa s)

/-- i_ff in mA (R160). -/
def iFf (s : State) : Int :=
  let p := s.pwr
  let w := max 0 ((p.vHb : Int) * iSrc s - (p.vPk : Int) * p.iPk)
  max (lbMa s) (0 - w / (max p.vPk 9000 : Nat))

/-- The presets of step 1 (R148, R159): i_sel and the hold compensator at i_ff, every other integrator within 2 A of it. -/
def presetLoops (i : Int) (s : State) : State :=
  let x := sel i
  let own := fun (j : Nat) => heldInteg j x (vAt s.pwr.integ j)
  { s with pwr := { s.pwr with
    iSel := x, ff := i, integ := #v[own 0, own 1, own 2, own 3, x, own 5], hbRamp := none, rss := none, unfedRamp := none
    llCase := false, llEnt := false } }

/-- Steps 1 and 2 of R159 at the declaration: the hold compensator preset to i_ff, HOHOLD set, DIR 0b11, every available phase
admitted and forcing, with no CIRC before it. The phases' own SWITCHING_CYCLE ends their forcing (step 3), the last of them
step 4, and HANDOVER_HOLD_END runs step 5. An available phase that may not switch, idle after a hard over-current or stopped by its
gate fault, is not admitted, and i_ff is shared among those that are (DESIGN CHOICE, log entry 167). -/
def handoverRun (s : State) : State :=
  let i := iFf s
  let s := setF PWR_STAT_HOHOLD 1 { s with chg := { s.chg with fHold := true } }
  if !s.pwr.stops.isEmpty then s
  else
    let s := if isRunning s then s else firstCycle s
    let l := (List.range 6).filter (fun k => phReady k s)
    let s := l.foldl (fun t k => modPhase k (fun x => { activate 0 x with forcing := true, pre := 0 }) t) s
    let s := presetLoops i (restagger s)
    if l.isEmpty then s
    else
      s |> setF PWR_STAT_LL 0 |> setF PWR_STAT_DIR 3 |> setF PWR_STAT_GOV 4 |> setF PWR_STAT_CAPGOV 0 |> setF PWR_STAT_SSGOV 0
    |> setF PWR_STAT_SHGOV 0

end Sys2Proof.Machine
end

