-- ==== Sys2Proof/Machine/ChgBase.lean ====
section
/-!
DEFINITION. The charge state and the pack disconnect (R252, R254, R257-R260): entering a state, opening and closing PK_DG.
-/

namespace Sys2Proof.Machine

open Sys2Proof

/-! ## States (R252) -/

/-- The state in force. -/
def chgSt (s : State) : Nat := fld CHG_STATE_STATE s
/-- Is the state a forward state? -/
def isForward (st : Nat) : Bool := [3, 4, 5, 6, 7, 9].contains st
/-- Does the state let PK_DG close under DGEN? DISCHARGE (14) closes it without DGEN. -/
def dgenState (st : Nat) : Bool := [3, 4, 5, 6, 7, 8, 9, 10, 11].contains st

/-- May a latch run in the present state (R248)? -/
def latchState (s : State) : Bool :=
  chgSt s == 1 || chgSt s == 2 || (chgSt s == 14 && !flag CHG_STAT_DVALID s)

/-- A state that lets no latch run has been entered: a latch that runs is discarded (R248, R278). -/
def latchLeave (s : State) : State :=
  if s.chg.latPend && !latchState s then { s with chg := { s.chg with latGone := true } } else s

/-- The latch is cleared (R250); presence is that of either pin again (R253). -/
def latchClear (s : State) : State :=
  presStat <| (List.range 6).foldl (fun t i => wr (CHG_DLAT i) 0 t) (setF CHG_STAT_DVALID 0 s)

/-- A ramp of the effective current to 0 in 500 µs starts (R254, R260). -/
def rampStart (s : State) : State := { s with chg := { s.chg with ramp := some (fld CHG_ILIVE_VAL s, 0) } }

/-- The log entry of a charge state entry (R257, R538). -/
def chgLog (s : State) : State :=
  logPut 2 (chgSt s) (fld CHG_STATE_PREV s * 4096 + fld CHG_FCAUSE_CAUSE s * 256 + fld CHG_STAT_LOSTBY s * 64) s

/-- Entry to state `st` (R254): RESUME on entry to SUSPEND_TEMP or DISCHARGE, the clears of R250, R254 and R271, the attempt of
RECOVER, FCAUSE left with FAULT, and CHG notified (R485). `hw` says the hardware took the row; `cause` is the cause of a
FAULT. -/
def chgEnter (st cause : Nat) (hw : Bool) (s : State) : State :=
  let o := chgSt s
  let s := if (st = 11 ∨ st = 14) ∧ o ≠ 11 ∧ o ≠ 14 then setF CHG_STATE_RESUME (if o = 3 then 2 else o) s else s
  let s := s |> setF CHG_STATE_PREV o |> setF CHG_STATE_STATE st
  let s := if st = 12 then (if cause = 0 then s else setF CHG_FCAUSE_CAUSE cause s)
    else if o = 12 then setF CHG_FCAUSE_CAUSE 0 s else s
  let s := if o = 3 then { s with chg := { s.chg with attEnd := some (nowUs s) } } else s
  let s := match st with
    | 0 => s |> latchClear |> wr CHG_TPRE 0 |> wr CHG_TFAST 0 |> wr CHG_TTOP 0 |> setF CHG_REC_ATT 0 |> setF CHG_FCAUSE_CAUSE 0
    | 1 => s |> latchClear |> setF CHG_FCAUSE_CAUSE 0 |> setF CHG_STAT_LOSTBY 0
    | 3 => { (setF CHG_REC_ATT (fld CHG_REC_ATT s + 1) s) with chg := { s.chg with vEntry := s.chg.vAvg } }
    | 9 => wr CHG_TTOP 0 s
    | 13 => s |> latchClear
    | _ => s
  let s := if o = 10 ∧ (st = 5 ∨ st = 6) then s |> wr CHG_TPRE 0 |> wr CHG_TFAST 0 else s
  let s := { s with chg := { s.chg with since := nowUs s } }
  let s := s |> latchLeave |> notify 4
  let s := if o = 13 then liftStop .lost s else s
  if hw ∨ st = 8 ∨ st = 12 ∨ st = 13 then chgLog s else s

/-! ## PK_DG (R108, R258-R260) -/

/-- Is none of PK_OV, PK_OC, PK_LOST and TH_HARD in force (R198, R258)? -/
def noTrip (s : State) : Bool := !s.chg.ovOn && !s.chg.ocOn && !s.chg.thardOn && chgSt s != 13

/-- The hardware closes PK_DG for boot service and Fawn mode (R108); with FILIM fused to code 127 it stays closed to the end of a
sequence that completes first (R202, R532). -/
def dgSvc (s : State) : Bool :=
  (!filimOff s || (keptOn s && s.chg.dg == .closed)) && decide (9000 ≤ s.pwr.vPk) && nAvail s != 0 && noTrip s && !s.sup.shipBegun

/-- Does R258 or R108 permit PK_DG closed now? -/
def dgPermit (s : State) : Bool :=
  if s.sup.boot || inFawn s then dgSvc s
  else (chgSt s == 14 || (dgenState (chgSt s) && lfld CHG_CTL_DGEN s == 1)) && noTrip s && !s.sup.shipBegun

/-- PK_DG driven open at once: a protective opening (R260). -/
def dgOpen (s : State) : State :=
  setF CHG_STAT_DGCL 0 { s with chg := { s.chg with dg := .open', dgBoot := false } }

/-- PK_DG begins to close (R259): with step 2 where it applies, which boot service and Fawn mode do not make (R108). -/
def dgClose (vCs : Nat) (s : State) : State :=
  let svcDg := s.sup.boot || inFawn s
  let pre := !svcDg && !packC s && !unfed s && decide (vCs + 2000 < s.pwr.vPk)
  { s with chg := { s.chg with dg := if pre then .precharge else .gating, dgBoot := svcDg, preUs := 0 } }

/-- PK_DG follows its permission (R108, R258-R260). `vCs` is the converter-side pack voltage in mV. An ordinary opening ramps the
current first. In boot service and Fawn mode every end of the permit that row 3 of R254 does not act on opens it in the
ordinary way too, at the next tick (the model's choice, log entry 114). -/
def dgFollow (vCs : Nat) (s : State) : State :=
  if dgPermit s then
    match s.chg.dg with
    | .open' => dgClose vCs s
    | .opening => { s with chg := { s.chg with dg := .closed, dgBoot := s.sup.boot || inFawn s } }
    | _ => s
  else
    match s.chg.dg with
    | .closed => rampStart { s with chg := { s.chg with dg := .opening } }
    | .precharge | .gating => dgOpen s
    | _ => s

/-- One µs of step 2 of R259: it ends within 2.0 V, when the pack carries HBUS or nothing does, and after 2 ms. -/
def preStep (s : State) : State :=
  match s.chg.dg with
  | .precharge =>
    let n := s.chg.preUs + 1
    let past := decide (2000 ≤ n) || packC s || unfed s || decide (s.pwr.vPk ≤ s.pwr.vCs + 2000)
    { s with chg := { s.chg with preUs := n, dg := if past then .gating else .precharge } }
  | _ => s

/-- PK_DG_CLOSE_COMPLETE (R259 step 4): the end of step 3. -/
def dgClosed (s : State) : State :=
  match s.chg.dg with
  | .gating => if dgPermit s then setF CHG_STAT_DGCL 1 { s with chg := { s.chg with dg := .closed } } else dgOpen s
  | _ => s

/-- PACK_CURRENT_RAMP_END (R260). -/
def dgOpened (s : State) : State :=
  let s := { s with chg := { s.chg with ramp := none } }
  match s.chg.dg with
  | .opening => dgOpen s
  | _ => s

end Sys2Proof.Machine
end

