-- ==== Sys2Proof/Machine/HubOps.lean ====
section
/-!
DEFINITION. Operations of the power path (R178-R219, R585): source types and the input limit, port states and loss events,
selection, hand-over, direct transfer, hand-back, the pack reserve, the sag shed, SID and the S1 output. Voltages are in mV.
-/

namespace Sys2Proof.Machine

open Sys2Proof

/-- A field of a HUB set point as the hardware uses it: its reset value in boot service and Fawn mode (R117, R202, R532). -/
def hubF (f : Fld) (s : State) : Nat :=
  if hsvc s then bitsOf (resetValue f.addr).toNat f.hi f.lo else lfld f s

/-- The record of port `k`. -/
def port (k : Nat) (s : State) : Port := vAt s.hub.ports k
/-- The record of port `k` changed. -/
def modPort (k : Nat) (f : Port → Port) (s : State) : State :=
  { s with hub := { s.hub with ports := vPut s.hub.ports k (f (port k s)) } }
/-- State of port `k`, taken modulo 4 (R192). -/
def portSt (k : Nat) (s : State) : Nat := fld (HUB_PSTAT_STATE (k % 4)) s
/-- The state of port `k` becomes `st`; its qualification timer starts from 0 (R194). -/
def portTo (k st : Nat) (s : State) : State :=
  modPort (k % 4) (fun p => { p with qual := 0 }) (setF (HUB_PSTAT_STATE (k % 4)) st s)
/-- Is port `k` in window (R181)? -/
def inWin (k : Nat) (s : State) : Bool := flag (HUB_PSTAT_INWIN k) s
/-- A port leaves CARRY or LOST: QUAL in window, else ABSENT (R194). -/
def portRelease (k : Nat) (s : State) : State := portTo k (if inWin k s then 2 else 1) s

/-- An event of the power path raises its fault source; boot service raises none, Fawn mode does (R107, R533). -/
def raiseHub (src cls : Nat) (s : State) : State := if s.sup.boot && !inFawn s then s else raise' src cls none 0 s

/-- Source-carried (R147, R180). -/
def srcCarried (s : State) : Bool := !packC s && !unfed s
/-- The carrying port. -/
def cport (s : State) : Option Nat := if fld HUB_STAT_CPORT s < 4 then some (fld HUB_STAT_CPORT s) else none

/-! ## Types and limits (R186-R191) -/

/-- The default limit of a type code, 10 mA (R186); from Accept to PS_RDY the lower of two contract currents (R233). -/
def typeDefault (t : Nat) (s : State) : Nat :=
  match t with
  | 1 => 1000 | 2 => 300 | 3 => 500 | 4 => 800 | 5 => 1200 | 6 => 2000 | 7 => 3000 | 8 => 4500
  | 9 => 1000 | 0xA => 1500 | 0xB => 1000
  | 0xD | 0xE =>
    match s.tcp.trans with
    | some (d, _) => if flag TCP_STAT_PSTRANS s then min d.i (fld TCP_CONTRACT_I s) else fld TCP_CONTRACT_I s
    | none => fld TCP_CONTRACT_I s
  | _ => 0

/-- The ceiling of a type code, 10 mA (R186). -/
def typeCeil (t : Nat) (s : State) : Nat :=
  match t with
  | 1 | 9 | 0xA | 0xB => 5000
  | t => typeDefault t s

/-- The type code port `k` reports (R186): 0x0 out of window, disabled or locked out. S3 reports 0xC while it is attached
without a contract, whatever its voltage, and 0x0 after a hard reset until vSafe5V is back (R240). -/
def typeOf (k : Nat) (s : State) : Nat :=
  if portSt k s == 0 || portSt k s == 6 then 0
  else if k = 3 && (!flag TCP_STAT_ATT s || s.tcp.hrOff) then 0
  else if k = 3 && !flag TCP_STAT_CONTRACT s then 0xC
  else if !inWin k s then 0
  else
    match k with
    | 0 => s.hub.s0Type
    | 1 => 9
    | 2 => if hubF HUB_CTL_S2KIND s = 0 then 0xA else 0xB
    | _ => if flag TCP_CONTRACT_AVS s then 0xE else 0xD

/-- The ring term in 10 mA with its GOV code (R190, R426, R449): 3 an allocation, 4 the static share. -/
def ringTerm (s : State) : Nat × Nat := (fld LNK_ALLOC_VAL s, if fld LNK_ALLOC_SRC s = 1 ∨ fld LNK_ALLOC_SRC s = 2 then 4 else 3)

/-- Is the node a member of a ring (R427)? -/
def isMember (s : State) : Bool := flag LNK_STAT_MEMBER s || fld LNK_ADDR_ADDR s != 0

/-- The port limit of the carrying port `k` in 10 mA, before derating, and whether LIM was clamped (R190). -/
def plimOf (k : Nat) (s : State) : Nat × Bool :=
  let t := fld (HUB_PSTAT_TYPE k) s
  let l := lfld (HUB_PLIM_LIM k) s
  let p := if l ≠ 0 then l else typeDefault t s
  (min p (typeCeil t s), decide (typeCeil t s < p))

/-- HUB_ILIVE at a tick (R190) or boot tick (R191). In Fawn mode and boot service GOV names the derate request where one halves the
limit, and the default otherwise (DESIGN CHOICE, log entry 170). A LIM above the type ceiling sets HUB_PSTATk.CLP only, not HUB_STAT.CLP
(the model's choice, log entry 191). Half of an odd limit is rounded down (the model's choice, log entry 205). -/
def ilimUpdate (s : State) : State :=
  match cport s with
  | none => s |> setF HUB_ILIVE_GOV 7 |> setF HUB_ILIVE_VAL 0
  | some k =>
    let der := k = 0 ∧ flag HUB_SID_DERATE s = true
    if svc s then
      let d := typeDefault (fld (HUB_PSTAT_TYPE k) s) s
      let d := if der then d / 2 else d
      let v := if isMember s then min d (fuseShare s) else d
      s |> setF HUB_ILIVE_GOV (if v < d then 4 else if der then 2 else 5) |> setF HUB_ILIVE_VAL v
    else
      let (p, clp) := plimOf k s
      let p := if der then p / 2 else p
      let i := lfld PWR_IINLIM_VAL s
      let r := ringTerm s
      let v := min i (min p r.1)
      let s := if clp then setF (HUB_PSTAT_CLP k) 1 s else s
      s |> setF HUB_ILIVE_GOV (if i = v then 0 else if p = v then (if der then 2 else 1) else r.2) |> setF HUB_ILIVE_VAL v

/-! ## HBUS_HOLD (R152, R213) -/

/-- The automatic value of R152; its 12.0 V too stays within VHBCEIL (R2). -/
def autoHold (s : State) : Nat :=
  match s.hub.autoHold with
  | none => clampN 9000 (min 60000 (vhbceil s)) 12000
  | some v => clampN 9000 (min 60000 (vhbceil s)) (v - 1000)
/-- HBUS_HOLD now, mV. -/
def hbusHold (s : State) : Nat :=
  if hsvc s then fhold s else if lfld PWR_VHOLD_VAL s ≠ 0 then lfld PWR_VHOLD_VAL s * 10 else autoHold s

/-! ## The pack reserve (R198) -/

/-- The pack floor, mV. -/
def pkFloor (s : State) : Nat := if hsvc s || lfld HUB_PKFLOOR_FLOOR s == 0 then 9000 else lfld HUB_PKFLOOR_FLOOR s * 10
/-- PKRSV as the hardware takes it; a clear during a hold waits for its end (R202). -/
def pkrsv (s : State) : Bool := if hsvc s then !filimOff s else (lfld HUB_CTL_PKRSV s == 1 || hoHold s)
/-- Is the pack reserve available? A PK_DG whose gate is on its opening ramp is not closed (DESIGN CHOICE, log entry 174). -/
def rsv (s : State) : Bool :=
  pkrsv s && s.chg.dg == .closed && (packC s || decide (pkFloor s ≤ s.pwr.vPk)) && noTrip s && !s.hub.belowFloor &&
    nAvail s != 0 && chgSt s != 3 && chgSt s != 4

/-! ## Carrier changes -/

/-- HBUS becomes pack-carried. -/
def toPack (s : State) : State :=
  { s with hub := { s.hub with detArmed := false, carriedAll := false, shed := false } }
    |> setF PWR_STAT_CARRIER 1 |> setF HUB_STAT_PACKC 1 |> setF HUB_STAT_UNFED 0 |> setF HUB_STAT_CPORT 7

/-- HBUS becomes unfed: the upper bound is 0 and CARRIER reads 0 (R180). -/
def toUnfed (s : State) : State :=
  { s with
    hub := { s.hub with detArmed := false, carriedAll := false, shed := false }
    pwr := { s.pwr with hbRamp := none, rss := none, unfedRamp := none } }
    |> setF PWR_STAT_CARRIER 0 |> setF HUB_STAT_PACKC 0 |> setF HUB_STAT_UNFED 1 |> setF HUB_STAT_CPORT 7

/-- V_REF at the close of port `k` (R183): its voltage, in a hand-back the one its pair closed at in step 2. -/
def closeMv (k : Nat) (s : State) : Nat :=
  match s.hub.hb with
  | some h => if h.port = k ∧ h.closing then h.vc else (port k s).mv
  | none => (port k s).mv

/-- Port `k` carries HBUS: V_REF is its voltage at the close, which HUB_VREF shows from the next tick (R219); `armed` arms the HBUS
comparators at once (R183, R204). The rest of a graze frame acts on it (R511). -/
def toSource (k : Nat) (armed : Bool) (s : State) : State :=
  { s with
    hub := { s.hub with
      detArmed := armed, carriedAll := false, vref := closeMv k s, closeUs := nowUs s
      hb := none, hbBack := false }
    pwr := { s.pwr with hbRamp := none, rss := none, unfedRamp := none }
    thm := { s.thm with grazed := s.thm.grazed || s.thm.graze } }
    |> portTo k 4 |> setF PWR_STAT_CARRIER 0 |> setF HUB_STAT_PACKC 0 |> setF HUB_STAT_UNFED 0 |> setF HUB_STAT_CPORT k
    |> setF HUB_STAT_HB 0 |> softRestart

/-! ## Selection (R196) -/

/-- Port number of place `i` in HUB_PRIO; SRCPRIO in boot service and Fawn mode. -/
def prioPort (i : Nat) (s : State) : Nat :=
  let v := if hsvc s then srcprio s else lrd HUB_PRIO s
  bitsOf v (7 - 2 * i) (6 - 2 * i)
/-- The ports in priority order. -/
def prioList (s : State) : List Nat := (List.range 4).map (fun i => prioPort i s)

/-- May port `k` be closed now: READY with a type whose ceiling is not 0? -/
def ready (k : Nat) (s : State) : Bool := portSt k s == 3 && typeCeil (fld (HUB_PSTAT_TYPE k) s) s != 0

/-- HUB_CTL.SEL: none for AUTO; 0b010 and 0b011 are AUTO (R219). -/
def selOf (s : State) : Nat := hubF HUB_CTL_SEL s
/-- The READY port that R196 chooses. -/
def chosen (s : State) : Option Nat :=
  let v := selOf s
  if v = 1 then none
  else if 4 ≤ v then (if ready (v - 4) s then some (v - 4) else none)
  else (prioList s).find? (fun k => ready k s)

/-- The ports of `l` that are still LOST are released (R194). -/
def releaseLost (l : List Nat) (s : State) : State := l.foldl (fun t p => if portSt p t = 5 then portRelease p t else t) s

/-- A direct transfer to port `k` (R200, R214): it carries, DIRECT is set, and the ports lost before it are released. -/
def direct (k : Nat) (s : State) : State :=
  let l := s.hub.lostUnfed
  let s := s |> toSource k false |> setF HUB_STAT_DIRECT 1
  releaseLost l { s with hub := { s.hub with lostUnfed := [] } }

/-- Without the reserve: a direct transfer to a READY port, else unfed (R197, R200). -/
def directOrUnfed (s : State) : State :=
  match chosen s with
  | some k => direct k s
  | none => toUnfed s

/-- Steps 1-3 of R199, with the converter's steps 1-4 of R159: HBUS is pack-carried at HBUS_HOLD and the hold runs. `lost` is the
port in LOST or LOCKOUT, none for a planned release. -/
def handover (lost : Option Nat) (s : State) : State :=
  let s := toPack s
  let s := { s with hub := { s.hub with ho := some (lost, true), hbBack := false, keep := false } }
  let s := { s with hub := { s.hub with holdRef := hbusHold s } }
  s |> setF HUB_STAT_HO 1 |> handoverRun

/-! ## Loss events (R193, R194) -/

/-- Loss events of port `k` inside the last FWIN. -/
def lossList (k : Nat) (s : State) : List Nat :=
  (port k s).losses.filter (fun t => decide (nowUs s < t + hubF HUB_FLAPCFG_FWIN s * 100000))

/-- A loss event is counted against port `k` (R193): the events inside FWIN with this one, at most the 15 that LCNT shows. -/
def countLoss (k : Nat) (s : State) : State :=
  let l := (nowUs s :: lossList k s).take 15
  s |> modPort k (fun p => { p with losses := l }) |> setF (HUB_PSTAT_LOSS (k % 4)) 1 |> setF (HUB_PSTAT_LCNT (k % 4)) l.length

/-- A loss event is counted against port `k`; at FCOUNT the port locks out and SRC_FLAP is raised. Otherwise the port takes
`st`. -/
def lossEvent (k st : Nat) (s : State) : State :=
  let n := ((nowUs s :: lossList k s).take 15).length
  let s := countLoss k s
  if hubF HUB_FLAPCFG_FCOUNT s ≤ n then s |> portTo k 6 |> setF (HUB_PSTAT_FLAP (k % 4)) 1 |> raiseHub srcSrcFlap 2
  else portTo k st s

/-- A source loss of the carrying port `k` (R199, R200): hand-over with the reserve, else direct transfer or unfed. A port that went to
LOCKOUT waits for no 1 ms. -/
def sourceLoss (k : Nat) (s : State) : State :=
  if portSt k s ≠ 4 ∨ cport s ≠ some k then s
  else
    let r := rsv s
    let s := lossEvent k 5 s
    let l := s.hub.lostUnfed.filter (fun p => p != k)
    if r then handover (some k) { s with hub := { s.hub with lostUnfed := l } }
    else directOrUnfed { s with hub := { s.hub with lostUnfed := l ++ (if portSt k s = 5 then [k] else []) } }

/-- A planned release of the carrying port `k` (R197); `st` is the state it takes. -/
def plannedRelease (k : Nat) (dis : Bool) (s : State) : State :=
  let r := rsv s
  let s := if dis then portTo k 0 s else portRelease k s
  if r then handover none s else directOrUnfed s

/-! ## Hand-back (R203-R206) -/

/-- Step 1 of R204. -/
def handbackStart (k : Nat) (s : State) : State :=
  setF HUB_STAT_HB 1 { s with hub := { s.hub with hb := some ⟨k, false, (port k s).mv, 0⟩, hbBack := false, keep := false } }

/-- The reference a hand-back moves to (R204). -/
def hbTarget (h : HandBack) : Nat := max (h.vs * 99 / 100) 9000

/-- Selection (R196, R197, R203), outside a hand-over, its hold and a hand-back. In the ramp of R214 a READY port takes over by a
direct transfer. A hand-back starts only with the pack at its floor or above (R198). A SEL that names another port releases the carrying
one at once, also while the named one is not READY (the model's choice, log entry 204). -/
def hubSelect (s : State) : State :=
  if hoHold s || s.hub.hb.isSome then s
  else
    match cport s with
    | some c =>
      let v := selOf s
      if v = 1 ∨ (4 ≤ v ∧ v ≠ c + 4) then plannedRelease c false s
      else if v < 4 && rsv s && ((prioList s).takeWhile (fun k => k != c)).any (fun k => ready k s) then plannedRelease c false s
      else s
    | none =>
      match chosen s with
      | none => s
      | some k =>
        if packC s then
          (if s.pwr.unfedRamp.isSome then direct k s
          else if s.hub.ovOn || decide (s.pwr.vPk < pkFloor s) then s
          else handbackStart k s)
        else toSource k false s

/-- A hold ends: HOHOLD and HO clear and the lost port is released (R199 step 4). -/
def holdEnd (s : State) : State :=
  let h := s.hub.ho
  let s := { s with hub := { s.hub with ho := none } } |> setF PWR_STAT_HOHOLD 0 |> setF HUB_STAT_HO 0
  match h with
  | some (some p, _) => if portSt p s = 5 then portRelease p s else s
  | _ => s

/-- The reserve ends while HBUS is pack-carried (R206, R214): RSVLOST; a hold is ended at once and not counted, and the cap of an
orderly stop applies from then on (R509); a hand-back
completes as a direct transfer, which the model does not count as a completed hand-back (HUB_HOCNT.HB, HBEVT: the model's choice,
log entry 111); else a READY port takes over, or the converter stops at once (`atOnce`) or ramps to zero over 1 ms. -/
def rsvEnd (atOnce : Bool) (s : State) : State :=
  if !packC s then s
  else
    let s := setF HUB_STAT_RSVLOST 1 s
    let s := if s.hub.ho.isSome then keepCount (holdEnd s) else s
    let s := if atOnce then haltRun s else s
    match s.hub.hb with
    | some h => direct h.port s
    | none =>
      match chosen s with
      | some k => direct k s
      | none =>
        if atOnce || !isRunning s then toUnfed s
        else { s with pwr := { s.pwr with unfedRamp := some (s.pwr.iSel, 0) } }

/-- HBUS becomes unfed when the ramp of R214 has run its 1 ms. -/
def unfedRampEnd (s : State) : State :=
  match s.pwr.unfedRamp with
  | some (_, t) => if 1000 ≤ t then haltRun (toUnfed s) else s
  | none => s

/-- The reserve is looked at again after an event (R214): a pack-carried HBUS without it. The floor and PKRSV = 0 end it with a
ramp, in which any of the other conditions still stops the converter at once. -/
def rsvCheck (s : State) : State :=
  let hard := s.chg.dg != .closed || !noTrip s || nAvail s == 0
  if !packC s then s
  else if s.pwr.unfedRamp.isSome then (if hard then rsvEnd true { s with pwr := { s.pwr with unfedRamp := none } } else s)
  else if rsv s then s
  else rsvEnd hard s

/-- PACK_START (R585). -/
def packStartOp (s : State) : State :=
  if unfed s && rsv s then
    let s := toPack s
    let s := { s with
      hub := { s.hub with holdRef := hbusHold s }
      pwr := { s.pwr with rss := some 0 } }
    s
  else s

/-- PACK_UNDERVOLTAGE (R214). -/
def packUvOp (o : FastObs) (s : State) : State :=
  let s := putFast o s
  if packC s && decide (s.pwr.vPk < pkFloor s) && !s.hub.belowFloor then
    let s := raiseHub srcPkUv 2 s
    rsvEnd false { s with hub := { s.hub with belowFloor := true } }
  else s

/-- HANDOVER_HOLD_END (R199 step 4, R202): the hold of 1 ms begins when no phase forces any more (R159). -/
def handoverEndOp (s : State) : State :=
  if forcingNow s then s
  else
    match s.hub.ho with
    | none => s
    | some (_, counts) =>
      let s := holdEnd s
      let s := if counts then s |> incWrap HUB_HOCNT_HO |> setF HUB_STAT_HOEVT 1 else s
      s |> keepCount |> applyGofs |> rsvCheck |> hubSelect

/-- LOST_PORT_TIMEOUT (R200): the 1 ms of the port that has waited longest, of those that are still LOST. -/
def lostTimeoutOp (s : State) : State :=
  let l := s.hub.lostUnfed.filter (fun k => portSt k s == 5)
  releaseLost (l.take 1) { s with hub := { s.hub with lostUnfed := l.drop 1 } }

/-- HANDBACK_CLOSE (R204 step 2): the port's pair closes, and the hold bound moves to zero from its present value (R162). -/
def handbackCloseOp (s : State) : State :=
  match s.hub.hb with
  | some h =>
    if h.closing then s
    else
      { s with
        hub := { s.hub with hb := some { h with closing := true, vc := (port h.port s).mv }, holdRef := hbTarget h }
        pwr := { s.pwr with hbRamp := some (holdBound (vAt (bounds s).b 4) s, 0, (lfld PWR_CTL_HBR s + 1) * 250) } }
  | none => s

/-- HANDBACK_COMPLETE (R204 step 4). -/
def handbackCompleteOp (s : State) : State :=
  match s.hub.hb with
  | some h =>
    if h.closing then s |> toSource h.port true |> incWrap HUB_HOCNT_HB |> setF HUB_STAT_HBEVT 1
    else s
  | none => s

/-- A hand-back `h` ends early (R206): in step 1 the reference returns to HBUS_HOLD; from step 2 the bound is back in full and a new
hold runs. For a loss from step 2 the rule names the bound only: the hold reference stays at the hand-back's target until the next tick
takes HBUS_HOLD (the model's choice, log entry 188). -/
def handbackEnd (h : HandBack) (s : State) : State :=
  let s := setF HUB_STAT_HB 0 { s with
    hub := { s.hub with hb := none, hbBack := !h.closing }, pwr := { s.pwr with hbRamp := none } }
  if h.closing then
    { s with hub := { s.hub with ho := some (some h.port, false) }, chg := { s.chg with fHold := true } }
      |> setF PWR_STAT_HOHOLD 1 |> setF HUB_STAT_HO 1
  else s

/-- The port of the hand-back in progress is lost with a loss event (R206): in step 1 it follows R194, from step 2 it is LOST. -/
def handbackLoss (s : State) : State :=
  match s.hub.hb with
  | none => s
  | some h => handbackEnd h (lossEvent h.port (if h.closing then 5 else 1) s)

/-! ## S1 output (R216, R217) -/

/-- S1 is opened by a protection: the third opening within 10 s keeps it open until EN is written again, any other for 1 s. -/
def s1Open (f : Fld) (s : State) : State :=
  if portSt 1 s = 7 then
    let l := nowUs s :: s.hub.s1Opens.filter (fun t => decide (nowUs s < t + 10000000))
    { s with hub := { s.hub with s1Opens := l.take 3, s1Block := s.hub.s1Block || decide (3 ≤ l.length), s1Wait := true } }
      |> portTo 1 1 |> setF f 1
  else s

/-- S1 enters OUTPUT (R194, R216): EN live and not ignored, no opening waits, and S1_V below 2.0 V. -/
def s1Enter (s : State) : State :=
  if hubF HUB_S1OUT_EN s = 1 ∧ portSt 1 s = 1 ∧ !s.hub.s1Block ∧ !s.hub.s1Wait ∧ (port 1 s).mv < 2000 then portTo 1 7 s else s

/-- Does the VDS of S1's pair in 0.01 mV show an output current above ILIM (R184, R217)? A current out of HBUS is negative; RDS is in
0.1 mΩ and ILIM in 0.1 A. -/
def s1Over (vds : Int) (s : State) : Bool :=
  decide (((hubF HUB_S1OUT_ILIM s * max 1 (hubF (HUB_PLIM_RDS 1) s) : Nat) : Int) < -clampI (-100000) 100000 vds)

/-- S1_OVERCURRENT (R217). -/
def s1OverOp (vds : Int) (s : State) : State := if s1Over vds s then s1Open (HUB_PSTAT_OCP 1) s else s

/-- S1_REENTRY (R217): up to 3 times. Each end of the 1 s counts as one of them, also where S1 may not close at it (DESIGN CHOICE, log
entry 164). -/
def s1ReentryOp (s : State) : State :=
  if !s.hub.s1Wait then s
  else if 3 ≤ s.hub.s1Tries then { s with hub := { s.hub with s1Block := true } }
  else s1Enter { s with hub := { s.hub with s1Wait := false, s1Tries := s.hub.s1Tries + 1 } }

/-- The S1 output at a tick (R194, R216); `wrote` says HUB_S1OUT went live at this tick. EN written in OUTPUT only ends what an opening
left. -/
def s1Tick (wrote : Bool) (s : State) : State :=
  if hubF HUB_S1OUT_EN s = 0 then (if portSt 1 s = 7 then portTo 1 1 s else s)
  else if !wrote then s
  else if portSt 1 s ≠ 7 ∧ 2000 ≤ (port 1 s).mv then
    setF (HUB_PSTAT_REFUSE 1) 1 { s with hub := { s.hub with s1Block := true } }
  else s1Enter { s with hub := { s.hub with s1Block := false, s1Opens := [], s1Wait := false, s1Tries := 0 } }

/-! ## Comparators (R182-R185, R209, R210)

A command that trips a comparator acts where the voltage it brings is past the near bound of R82 (log entry 50). -/

/-- The fall and the sag threshold, mV (R183): SAG is at most FALL less 1 %. -/
def fallThr (s : State) : Nat := s.hub.vref * (200 - hubF HUB_DETCFG_FALL s) / 200
def sagPct (s : State) : Nat := min (hubF HUB_DETCFG_SAG s) (hubF HUB_DETCFG_FALL s - 2)
def sagThr (s : State) : Nat := s.hub.vref * (200 - sagPct s) / 200
/-- The HBUS_OV threshold, mV (R185). -/
def hbOvThr (s : State) : Nat := min (vhbceil s * 105 / 100) 63000

/-- Does a drop of Sk_V − HBUS_SNS in µV trip a reverse-current comparator (R182)? -/
def rcTrips (drop : Int) (s : State) : Bool := decide (drop < 1000 - hubF HUB_DETCFG_RCTH s * 1000)

/-- S1_BACKFEED (R182, R217). -/
def s1BackfeedOp (drop : Int) (s : State) : State := if rcTrips drop s then s1Open (HUB_PSTAT_BACKF 1) s else s

/-- REVERSE_CURRENT_TRIP of port `p` (R182): a loss of the carrying port, of the port of a hand-back that closes, or back-feed
of S1 in OUTPUT. -/
def reverseTrip (p : Nat) (drop : Int) (o : FastObs) (s : State) : State :=
  let s := putFast o s
  if !rcTrips drop s then s
  else if p = 1 ∧ portSt 1 s = 7 then s1Open (HUB_PSTAT_BACKF 1) s
  else
    match s.hub.hb with
    | some h => if h.port = p ∧ h.closing then handbackLoss s else s
    | none => sourceLoss p s

/-- HBUS_FALL and HBUS_SAG arm after a close (R183). -/
def armCheck (s : State) : State :=
  if srcCarried s && !s.hub.detArmed && (decide (sagThr s < s.pwr.vHb) || decide (s.hub.closeUs + 1000 ≤ nowUs s)) then
    { s with hub := { s.hub with detArmed := true } }
  else s

/-- Fast-path samples, which may arm the two comparators (R147, R183). -/
def armFast (o : FastObs) (s : State) : State := armCheck (putFast o s)

/-- HBUS_FALL_TRIP (R183). -/
def hbusFall (o : FastObs) (s : State) : State :=
  let s := armFast o s
  match cport s with
  | some k => if s.hub.detArmed && decide (s.pwr.vHb * 100 < fallThr s * 101) then sourceLoss k s else s
  | none => s

/-- HBUS_OV_TRIP (R185). A hand-back that is still in step 1, with no pair closed, ends with no loss event (the model's choice, log
entry 112). -/
def hbusOvTripOp (o : FastObs) (s : State) : State :=
  let s := putFast o s
  if s.pwr.vHb * 100 < hbOvThr s * 99 then s
  else
    let s := s |> setF HUB_STAT_OVEVT 1 |> raiseHub srcHbusOv 3 |> stopFor .hbOv
    let s := { s with hub := { s.hub with ovOn := true } }
    match cport s with
    | some k => sourceLoss k s
    | none =>
      match s.hub.hb with
      | some h => if h.closing then handbackLoss s else handbackEnd h s
      | none => s

/-- HBUS_OV_RELEASE (R185). -/
def hbusOvReleaseOp (o : FastObs) (s : State) : State :=
  let s := putFast o s
  if s.pwr.vHb < vhbceil s then liftStop .hbOv { s with hub := { s.hub with ovOn := false } } else s

/-- HBUS_UV_TRIP (R185). -/
def hbusUvTripOp (o : FastObs) (s : State) : State :=
  let s := putFast o s
  if unfed s || decide (8585 < s.pwr.vHb) then s
  else { (s |> setF HUB_STAT_UVEVT 1 |> raiseHub srcHbusUv 2) with hub := { s.hub with uvOn := true } }

/-- A cell in the sag shed (R209): DOWN, or CIRC with no current, and it stops at zero current. A phase that ramps out after a shed still
switches (R156). -/
def sagCell (s : State) (x : Phase) : Phase :=
  if x.active || x.rampDn != 0 then
    let c := if x.iL = 0 then Cell.circ else .down
    { x with cell := c.held x.holdA x.holdB, seq := (turnSeq x.cell c s).map (fun p => (p.1.held x.holdA x.holdB, p.2)), toZero := true }
  else x

/-- The upper bound is held at 0 while HBUS stays below the sag threshold (R210). -/
def sagHold (s : State) : State := setF PWR_STAT_SHGOV 1 { s with hub := { s.hub with shed := true } }

/-- SAG_SHED (R209, R211). While HBUS is source-carried and the converter does not switch, a trip holds the upper bound at 0 and sheds
nothing: it counts in neither HUB_SAGCNT nor SAGEVT (DESIGN CHOICE, log entry 189). A shed that comes before the fall of its
microsecond counts (log entry 206), and a trip while a shed is still in force does not (log entry 207): both are the model's choices. -/
def sagShedOp (o : FastObs) (s : State) : State :=
  let s := armFast o s
  if srcCarried s && s.hub.detArmed && !s.hub.shed && decide (s.pwr.vHb * 100 < sagThr s * 101) then
    if isRunning s then
      let s := { s with pwr := { s.pwr with iSel := min s.pwr.iSel 0 }, lnk := { s.lnk with sag := true }, chg := { s.chg with fShed := true } }
      sagHold (s |> modPhases (sagCell s) |> incSat HUB_SAGCNT_COUNT |> setF HUB_STAT_SAGEVT 1)
    else sagHold s
  else s

/-- SAG_RESTART (R210): HBUS above V_REF × (1 − SAG + 1 %). -/
def sagRestartOp (o : FastObs) (s : State) : State :=
  let s := putFast o s
  if s.hub.shed && decide (s.hub.vref * (202 - sagPct s) < s.pwr.vHb * 200) then
    softRestart { s with hub := { s.hub with shed := false } }
  else s

/-! ## Port measurement (R181, R184, R194) -/

/-- The coarse current of port `k` in 10 mA from VDS in 0.01 mV (R184); 0 while the pair is open. The manual gives neither the rounding
nor what a current beyond the register shows: it is rounded down and saturates (the model's choice, log entry 190). -/
def coarse (k : Nat) (vds : Int) (s : State) : Int :=
  let closed := portSt k s = 4 ∨ portSt k s = 7 ∨ (s.hub.hb.any (fun h => h.port == k && h.closing)) = true
  if closed then satS 16 (clampI (-100000) 100000 vds * 10 / (max 1 (hubF (HUB_PLIM_RDS k) s) : Nat)) else 0

/-- A field of a number limited to `lo` to `hi`. -/
def clampF (v h l lo hi : Nat) : Nat := putBits v h l (clampN lo hi (bitsOf v h l))

/-- 10 mV of VHBCEIL. -/
def vhb10 (s : State) : Nat := vhbceil s / 10

/-- The window of a port within VHBCEIL (R2, R219). -/
def clampWin (v : Nat) (s : State) : Nat :=
  let c := vhb10 s
  let hi := if c < 1000 then c else clampN 1000 (min 6000 c) (bitsOf v 28 16)
  putBits (putBits v 28 16 hi) 12 0 (max 900 (min (bitsOf v 12 0) (hi - 100)))

/-- HUB_WINk as the hardware uses it: its reset value in boot service and Fawn mode, within VHBCEIL (R2, R117). -/
def winOf (k : Nat) (s : State) : Nat :=
  clampWin (if hsvc s then (resetValue (HUB_WIN k)).toNat else lrd (HUB_WIN k) s) s

/-- The qualification timer moves by one step of 10 µs (R194, R195): it runs in QUAL, for S3 not while PSTRANS reads 1 (R234). -/
def qualStep (k : Nat) (s : State) : State :=
  modPort k (fun p => { p with
    qual := if portSt k s = 2 && !(k == 3 && flag TCP_STAT_PSTRANS s) then p.qual + 1 else 0 }) s

/-- A port goes out of window (R193, R194). -/
def outOfWin (k : Nat) (s : State) : State :=
  match portSt k s with
  | 2 => lossEvent k 1 s
  | 3 => if s.hub.hb.any (fun h => h.port == k) then handbackLoss s else lossEvent k 1 s
  | 4 => sourceLoss k s
  | 5 => lossEvent k 5 s
  | _ => s

/-- After a hard reset S3's type comes back once the source has removed VBUS and restored vSafe5V (R240): below 0.8 V, then within
4.75-5.5 V (PRESUMED: the levels of USB Power Delivery, log entry 115). -/
def vbusBack (mv : Nat) (s : State) : State :=
  let c := s.tcp
  let gone := c.hrGone || decide (mv < 800)
  if !c.hrOff then s
  else if gone ∧ 4750 ≤ mv ∧ mv ≤ 5500 then { s with tcp := { c with hrOff := false, hrGone := false } }
  else { s with tcp := { c with hrGone := gone } }

/-- One measurement of port `k`. -/
def measurePort (k mv : Nat) (vds : Int) (s : State) : State :=
  let lo := bitsOf (winOf k s) 12 0 * 10
  let hi := bitsOf (winOf k s) 28 16 * 10
  let inside := decide (lo ≤ mv ∧ mv ≤ hi)
  let p := port k s
  let s := modPort k (fun p => { p with
    mv := mv, inCnt := if inside then min 2 (p.inCnt + 1) else 0, outCnt := if inside then 0 else min 2 (p.outCnt + 1) }) s
  let s := s |> setF (HUB_PMEAS_V k) (min 65535 (mv / 10)) |> setF (HUB_PMEAS_I k) (unsgn 16 (coarse k vds s))
    |> setF (HUB_PSTAT_LCNT k) (lossList k s).length
  let s := if k = 3 then vbusBack mv s else s
  if portSt k s = 6 then s
  else
    let s :=
      if inside ∧ 1 ≤ p.inCnt ∧ !inWin k s then setF (HUB_PSTAT_INWIN k) 1 s
      else if !inside ∧ 1 ≤ p.outCnt ∧ inWin k s then outOfWin k (setF (HUB_PSTAT_INWIN k) 0 s)
      else s
    let s := qualStep k s
    if portSt k s = 1 ∧ inWin k s then portTo k 2 s else s

/-- The hold reference moves at SLEW by 10 µs during step 1 of a hand-back, and back after one that ended there (R204,
R206). -/
def holdMove (s : State) : State :=
  let d := hubF HUB_HBCFG_SLEW s
  let toward := fun (x t : Nat) => if x ≤ t then min t (x + d) else max t (x - d)
  match s.hub.hb with
  | some h => if h.closing then s else { s with hub := { s.hub with holdRef := toward s.hub.holdRef (hbTarget h) } }
  | none =>
    if s.hub.hbBack then
      let r := toward s.hub.holdRef (hbusHold s)
      { s with hub := { s.hub with holdRef := r, hbBack := r != hbusHold s } }
    else s

/-- The ports with the carrying one last: what another port does in the same 10 µs or at the same tick comes first in the table of R194
than a selection that the carrying port's end brings. -/
def carryLast (s : State) : List Nat :=
  (List.range 4).filter (fun k => cport s != some k) ++ (List.range 4).filter (fun k => cport s == some k)

/-- PORT_MEASUREMENT (R181, R184, R194). -/
def portMeasure (o : PortObs) (s : State) : State :=
  let s := putFast o.fast s
  let s := if 8500 ≤ s.pwr.vHb ∧ s.hub.uvOn then { s with hub := { s.hub with uvOn := false } } else s
  let s := if s.hub.belowFloor ∧ pkFloor s * 102 / 100 < s.pwr.vPk then { s with hub := { s.hub with belowFloor := false } } else s
  let s := (carryLast s).foldl (fun s k => measurePort k (o.mv.getD k 0) (o.vds.getD k 0) s) s
  s |> s1Enter |> holdMove |> armCheck |> rsvCheck |> hubSelect

/-- QUALIFICATION_COMPLETE (R194, R195): the timer has reached SRC_QUAL. -/
def qualDone (k : Nat) (s : State) : State :=
  if portSt k s = 2 && inWin k s && decide (hubF HUB_QUAL_QUAL s * 100 ≤ (port k s).qual) then hubSelect (portTo k 3 s) else s

/-- LOCKOUT_END (R194): LCNT cleared; the window is measured afresh. -/
def lockoutEndOp (k : Nat) (s : State) : State :=
  if portSt k s = 6 then
    s |> portTo k 1 |> modPort k (fun p => { p with losses := [], inCnt := 0, outCnt := 0 }) |> setF (HUB_PSTAT_LCNT k) 0
      |> setF (HUB_PSTAT_INWIN k) 0
  else s

/-! ## SID (R187, R188) -/

/-- The bin of a reading in 0.1 mV (R187). The bands of the table share their edges: a reading on one takes the higher bin, 1,100 mV
bin 0x7, for bin 0x8 is above it (the model's choice but for the two bands open at an edge, log entry 113). -/
def sidBin (v : Nat) : Nat :=
  if v < 500 then 0 else if v < 1500 then 1 else if v < 2500 then 2 else if v < 3500 then 3 else if v < 5000 then 4
  else if v < 7000 then 5 else if v < 9000 then 6 else if v ≤ 11000 then 7 else 8

/-- A bin is accepted (R187). -/
def sidAccept (b : Nat) (s : State) : State :=
  let s := s |> setF HUB_SID_BIN b |> setF HUB_SID_CHG 1
  let s := { s with hub := { s.hub with sidAt := some (nowUs s), sidMerge := false } }
  if b = 0 then (if flag HUB_SID_STUCK s then s else setF HUB_SID_DERATE 1 s)
  else { (setF HUB_SID_DERATE 0 s) with hub := { s.hub with s0Type := if b = 8 then 1 else b + 1 } }

/-- Is bin `b` a change: another bin than HUB_SID's, or a derate request made again after the mask of the stuck time (R188)? -/
def sidNew (b : Nat) (s : State) : Bool :=
  b != fld HUB_SID_BIN s || (b == 0 && !flag HUB_SID_DERATE s && !flag HUB_SID_STUCK s)

/-- Has a change been accepted within the last 100 ms (R188)? -/
def sidBusy (s : State) : Bool := s.hub.sidAt.any (fun t => decide (nowUs s < t + 100000))

/-- SID_READ (R187, R188). -/
def sidReadOp (v : Nat) (s : State) : State :=
  let b := sidBin v
  let n := if b = s.hub.sidCand then min 5 (s.hub.sidCnt + 1) else 1
  let edge := n = 5 ∧ ¬(b = s.hub.sidCand ∧ s.hub.sidCnt = 5)
  let out := if b = 0 then 0 else min 5 (s.hub.sidOut + 1)
  let s := { s with hub := { s.hub with sidCand := b, sidCnt := n, sidOut := out } }
  let s := if flag HUB_SID_STUCK s ∧ out = 5 then setF HUB_SID_STUCK 0 s else s
  if edge ∧ sidNew b s = true then
    if sidBusy s then incSat HUB_SID_MERGED { s with hub := { s.hub with sidMerge := true } }
    else sidAccept b s
  else s

/-- SID_RATE_WINDOW_END (R188). -/
def sidWindowEnd (s : State) : State :=
  if s.hub.sidMerge then
    let s := { s with hub := { s.hub with sidMerge := false } }
    if s.hub.sidCnt = 5 ∧ sidNew s.hub.sidCand s = true then sidAccept s.hub.sidCand s else s
  else s

/-- SID_STUCK (R188). -/
def sidStuckOp (s : State) : State :=
  if flag HUB_SID_DERATE s then
    { s with hub := { s.hub with sidOut := 0 } } |> setF HUB_SID_STUCK 1 |> setF HUB_SID_DERATE 0 |> raiseHub srcStuckIn 1
  else s

/-! ## Ticks (R26, R107, R189-R191) -/

/-- The enable of port `k` at a tick (R194). The port of a hand-back leaves it with a loss event (R206). -/
def penPort (k : Nat) (s : State) : State :=
  let en := bitOf (hubF HUB_CTL_PEN s) k
  match en, portSt k s with
  | false, 0 => s
  | false, 4 => if cport s = some k then plannedRelease k true s else portTo k 0 s
  | false, _ =>
    match s.hub.hb with
    | some h => if h.port = k then portTo k 0 (handbackEnd h (countLoss k s)) else portTo k 0 s
    | none => portTo k 0 s
  | true, 0 => portTo k 1 s
  | true, _ => s

/-- Port enables at a tick (R194): a disabled port is measured too (R181), so INWIN stands as it is. -/
def penTick (s : State) : State := (carryLast s).foldl (fun s k => penPort k s) s

/-- Port `k` takes type 0x0 (R189, R240): a carrying port is lost, and a hand-back to it ends early (R206). In step 1 of the
hand-back the port may still be in window, and R196 alone would keep it READY: it counts a loss event and goes to ABSENT (DESIGN
CHOICE, log entry 171). -/
def typeZero (k : Nat) (s : State) : State :=
  let s := setF (HUB_PSTAT_TYPE k) 0 s
  if portSt k s = 4 then sourceLoss k s
  else
    match s.hub.hb with
    | some h => if h.port = k then handbackLoss s else s
    | none => s

/-- Type codes at a tick (R189): type 0x0 makes a carrying port lost. -/
def typeTick (s : State) : State :=
  forN 4 (fun k s =>
    let t := typeOf k s
    if t = 0 then typeZero k s else setF (HUB_PSTAT_TYPE k) t s) s

/-- V_REF and the automatic HBUS_HOLD from the interval that ends, if a source carried through all of it (R152, R183). -/
def vrefTick (o : FrameObs) (s : State) : State :=
  let full := srcCarried s && s.hub.carriedAll
  let s := if full then { s with hub := { s.hub with vref := o.hb * 10, autoHold := some (o.hb * 10) } } else s
  setF HUB_VREF_VAL (min 65535 (s.hub.vref / 10)) { s with hub := { s.hub with carriedAll := srcCarried s } }

/-- The power path at a frame tick or boot tick. -/
def hubTick (wroteS1 : Bool) (o : FrameObs) (s : State) : State :=
  let s := s |> vrefTick o |> penTick |> typeTick |> s1Tick wroteS1
  let s := s |> rsvCheck |> hubSelect
  let s := if packC s && s.hub.hb.isNone && !s.hub.hbBack then { s with hub := { s.hub with holdRef := hbusHold s } } else s
  ilimUpdate s

end Sys2Proof.Machine
end

