-- ==== Sys2Proof/Machine/ChgOps.lean ====
section
/-!
DEFINITION. Charge control (R244-R282): the descriptor latch, the transition table, set-point clamps, temperature windows,
safety timers, the removal detectors and the lamps. Currents in mA, voltages in mV, temperatures in 0.125 °C.
-/

namespace Sys2Proof.Machine

open Sys2Proof

/-- CHG data that is not a register, changed. -/
def modChg (f : Chg → Chg) (s : State) : State := { s with chg := f s.chg }

/-- The latch is valid. -/
def dvalid (s : State) : Bool := flag CHG_STAT_DVALID s
/-- ICHMAX and IDSMAX (R249). -/
def ichMax (s : State) : Nat := fld CHG_DLAT2_ICHMAX s
def idsMax (s : State) : Nat := fld CHG_DLAT2_IDSMAX s
/-- VMAXP and VPRE. -/
def vMaxP (s : State) : Nat := fld CHG_DLAT1_VAL s
def vPre (s : State) : Nat := fld CHG_DLAT5_VAL s

/-! ## The descriptor latch (R248, R249, R336-R338) -/

/-- DESCRIPTOR_LATCH: a request outside those states has no effect. -/
def latchRequest (s : State) : State := if latchState s then modChg (fun c => { c with latPend := true, latGone := false }) s else s

/-- A signed byte, with 0x80 read as the default `d` (R336). -/
def edgeOf (b : Byte) (d : Int) : Int := if b = 0x80 then d else b.toInt

/-- The first failing check of R248 on a 128-byte descriptor, 0 for none. `vp` is VPKCEIL. -/
def latchCheck (d : List Byte) (vp : Nat) : Nat :=
  let b := fun i => (d.getD i 0).toNat
  let h := fun i => b i + 256 * b (i + 1)
  let t1 := edgeOf (d.getD 14 0) 0
  let t2 := edgeOf (d.getD 15 0) 10
  let t3 := edgeOf (d.getD 16 0) 45
  let t4 := edgeOf (d.getD 17 0) 55
  let cls := b 1
  if crc32c (d.take 124) ≠ BitVec.ofNat 32 (leNat ((d.drop 124).take 4)) then 1
  else if b 2 < 3 ∨ 20 < b 2 then 2
  else if !(cls == 1 && decide (h 6 ≤ 4200) || cls == 2 && decide (h 6 ≤ 3650) || decide (0x10 ≤ cls) && decide (cls ≤ 0x7F))
      ∨ min 86000 (vp - 2000) < b 2 * h 6 then 3
  else if !(decide (-20 ≤ t1) && decide (t1 ≤ t2) && decide (t2 ≤ t3) && decide (t3 ≤ t4) && decide (t4 ≤ 65)) then 4
  else if b 0 < 1 ∨ 3 < b 0 ∨ b 3 = 0 ∨ h 8 = 0 ∨ h 10 = 0 ∨ h 12 = 0 then 5
  else 0

/-- The latch registers from a descriptor that passed (R249), whose pins name presence from now on (R253). -/
def latchFill (d : List Byte) (s : State) : State :=
  let b := fun i => (d.getD i 0).toNat
  let h := fun i => b i + 256 * b (i + 1)
  let ser := b 2
  let vmax := ser * h 6
  let ich := min (h 10) (ipkceil s)
  let ids := min (h 12) (ipkceil s)
  let ipre := min (h 8) (min 2000 ich)
  let vpre := if b 1 = 1 then ser * 3000 else if b 1 = 2 then ser * 2500 else vmax * 7 / 10
  let pres := if b 4 / 2 % 4 = 0 then 1 else b 4 / 2 % 4
  let e := fun i dflt => unsgn 8 (edgeOf (d.getD i 0) dflt)
  s |> wr (CHG_DLAT 0) (b2n (b 0x40 == 1) * 2 ^ 31 + b 4 % 2 * 2 ^ 30 + b 0 % 4 * 2 ^ 28 + pres * 2 ^ 26 + b 1 * 2 ^ 16 + b 3 * 256 + ser)
    |> wr (CHG_DLAT 1) vmax |> wr (CHG_DLAT 2) (ids * 65536 + ich)
    |> wr (CHG_DLAT 3) (e 17 55 * 2 ^ 24 + e 16 45 * 2 ^ 16 + e 15 10 * 256 + e 14 0)
    |> wr (CHG_DLAT 4) (ipre * 65536 + h 8) |> wr (CHG_DLAT 5) vpre |> setF CHG_STAT_DVALID 1 |> setF CHG_STAT_LATERR 0 |> presStat

/-- LATCH_COMPLETE (R248): discarded where the state has left those of a latch since the request (R278). The check unit reads the
descriptor with its checks; a word it cannot read fails check 1. A latch that fails leaves an earlier valid latch as it is: DVALID and
CHG_DLATn stay beside LATFAIL (DESIGN CHOICE, log entry 155). -/
def latchDone (s : State) : State :=
  if !s.chg.latPend then s
  else
    let ok := latchState s && !s.chg.latGone
    let s := modChg (fun c => { c with latPend := false }) s
    if !ok then s |> setF CHG_STAT_LATERR 6 |> setF CHG_STAT_LATFAIL 1
    else
      match ramRead none 0x4400 128 s with
      | (.inl _, s) => s |> setF CHG_STAT_LATERR 1 |> setF CHG_STAT_LATFAIL 1
      | (.inr d, s) =>
        let e := latchCheck d (vpkceil s)
        if e = 0 then latchFill d s else s |> setF CHG_STAT_LATERR e |> setF CHG_STAT_LATFAIL 1

/-! ## Temperature windows (R264-R266) -/

/-- The latched edge `i` (0-3) in 0.125 °C; the default while DVALID is 0. -/
def edge8 (i : Nat) (s : State) : Int :=
  let v := if dvalid s then sgn 8 (bitsOf (rd (CHG_DLAT 3) s) (8 * i + 7) (8 * i))
    else match i with | 0 => 0 | 1 => 10 | 2 => 45 | _ => 55
  v * 8

/-- The band of a temperature; an edge belongs to the more restrictive band (R264): where T2 is T3 too, to warm. -/
def bandOf (t : Option Int) (s : State) : Nat :=
  match t with
  | none => 7
  | some t =>
    if t ≤ edge8 0 s then 0 else if edge8 3 s ≤ t then 4
    else if edge8 2 s ≤ t then 3 else if t ≤ edge8 1 s then 1 else 2

/-- How restrictive a band is by its factors: suspend and unknown 3, warm 2, cool 1, normal 0 (R264). -/
def bandRank (b : Nat) : Nat := match b with | 2 => 0 | 1 => 1 | 3 => 2 | _ => 3

/-- The band in force. -/
def band (s : State) : Nat := fld CHG_STAT_BAND s
/-- How restrictive band `b` is in the state in force: the unknown band halves the current in RECOVER as cool does, and is no suspend
band there (R264). -/
def rankIn (b : Nat) (s : State) : Nat := if b = 7 ∧ chgSt s = 3 then 1 else bandRank b
/-- A suspend band is in force. -/
def suspendBand (s : State) : Bool := rankIn (band s) s == 3

/-- Twice f_T in force (R264). -/
def fT2 (s : State) : Nat :=
  match band s with
  | 2 => 2 | 1 | 3 => 1 | 7 => if chgSt s = 3 then 1 else 0 | _ => 0
/-- g_T in force in 1/1000. -/
def gT (s : State) : Nat := match band s with | 0 | 4 => 0 | 3 => 975 | _ => 1000

/-- Is the pack-reported temperature the one in use? -/
def rtUsed (s : State) : Bool := dvalid s && flag CHG_DLAT0_TSRC s

/-- The pack temperature in use (R265): PKT, or the pack-reported one while fresh and known (0x8000 is unknown, R340). -/
def packTemp (pkt : Option Int) (s : State) : Option Int :=
  if rtUsed s then
    if s.chg.rtFresh && fld PKP_RTEMP_TEMP s != 0x8000 then some (sgn 16 (fld PKP_RTEMP_TEMP s)) else none
  else pkt

/-- The 80 µs update of CHG_PKTEMP and of the raw band. A band that is not less restrictive waits for the next tick, and so does
any move out of a suspend band, which R266 does not time (DEDUCED), and any into the unknown band (R265, R266). -/
def tempUpdate (pkt : Option Int) (s : State) : State :=
  let t := packTemp pkt s
  let b := bandOf t s
  let s := setF CHG_PKTEMP_TEMP (match t with | none => 0x8000 | some v => unsgn 16 v) s
  let due := (decide (rankIn (band s) s ≤ rankIn b s) || suspendBand s || b == 7) && b != band s
  modChg (fun c => { c with bandRaw := b, bandPend := if due then some b else none }) s

/-- The edges between which a band that is no suspend band lies, 0.125 °C. -/
def bandEdges (b : Nat) (s : State) : Option (Int × Int) :=
  match b with
  | 1 => some (edge8 0 s, edge8 1 s)
  | 2 => some (edge8 1 s, edge8 2 s)
  | 3 => some (edge8 2 s, edge8 3 s)
  | _ => none

/-- Is the temperature in use `d` degrees or more inside band `b`: as far from both its edges (R266)? -/
def insideBy (d : Int) (b : Nat) (s : State) : Bool :=
  let v := fld CHG_PKTEMP_TEMP s
  let t := sgn 16 v
  v != 0x8000 && (bandEdges b s).any (fun e => decide (e.1 + 8 * d ≤ t) && decide (t + 8 * d ≤ e.2))

/-- TEMPERATURE_BAND_CHANGE (R266): 1 s at 1 °C or more inside a less restrictive band, other than out of a suspend band. -/
def bandChange (s : State) : State :=
  let b := s.chg.bandRaw
  if rankIn b s < rankIn (band s) s ∧ rankIn (band s) s < 3 ∧ insideBy 1 b s = true then setF CHG_STAT_BAND b s else s

/-- A HW row waits for the next tick (R255). -/
def queueRow (row cause : Nat) (s : State) : State := modChg (fun c => { c with hwq := c.hwq ++ [(row, cause)] }) s

/-- SUSPEND_TEMP_EXIT (R266): in SUSPEND_TEMP, row 28 follows 10 s with a band in force that is no suspend band and the temperature
2 °C or more inside it. -/
def suspendExit (s : State) : State :=
  if chgSt s = 11 ∧ bandRank (band s) < 3 ∧ insideBy 2 (band s) s = true then queueRow 28 0 s else s

/-- TEMPERATURE_STALE (R265): a pack-reported temperature not written for 1 s; a write of this clock keeps it fresh (R339). Where it is
the temperature in use, the band becomes unknown. -/
def tempStale (s : State) : State :=
  if s.chg.rtFresh && decide (s.chg.rtUs + 1000000 ≤ nowUs s) then
    let s := setF CHG_STAT_TSTALE 1 (modChg (fun c => { c with rtFresh := false }) s)
    if rtUsed s then modChg (fun c => { c with bandRaw := 7, bandPend := some 7 }) (setF CHG_PKTEMP_TEMP 0x8000 s) else s
  else s

/-- PKP_RTEMP_WRITE (R265): the pack-reported temperature and its 1 s. In the clock of the expiry the write applies, and the band
of the expiry goes (R339). -/
def rtempWrite (v : Nat) (s : State) : State :=
  let same := flag CHG_STAT_TSTALE s && s.chg.rtUs + 1000000 == nowUs s
  let s := modChg (fun c => { c with rtFresh := true, rtUs := nowUs s }) (s |> wr PKP_RTEMP (v % 65536) |> setF CHG_STAT_TSTALE 0)
  if same && rtUsed s then tempUpdate none s else s

/-! ## Limits (R252, R261-R263) -/

/-- I_st of the state in force. -/
def iSt (s : State) : Nat :=
  match chgSt s with
  | 3 => let i := min (fld CHG_REC_ILIM s) 500; if dvalid s then min i (fld CHG_DLAT4_IPRE s) else i
  | 4 => fld CHG_DLAT4_IPRE s
  | 5 | 6 | 7 => ichMax s
  | 9 => min (fld CHG_CYCCFG_ITOP s * 10) (ichMax s)
  | _ => 0
/-- V_st of the state in force. -/
def vSt (s : State) : Nat :=
  match chgSt s with
  | 3 => let v := s.chg.vEntry + 12000; if dvalid s then min v (vMaxP s) else v
  | 4 | 5 | 6 | 7 | 9 => vMaxP s
  | _ => 0

/-- The effective current of R261, 0 until PK_DG is closed (R259). -/
def iEff (s : State) : Nat :=
  let i := min (lfld CHG_ISET_VAL s) (min (iSt s * fT2 s / 2) (ipkceil s))
  if chgSt s = 3 ∧ i < 20 then 0 else if s.chg.dg = .closed then i else 0

/-- The effective voltage of R261. -/
def vEff (s : State) : Nat :=
  let v := min (min (lfld CHG_VSET_VAL s) (vSt s * gT s / 1000)) (min 86000 (vpkceil s - 2000))
  let v := if v < 9000 then 0 else v
  let p := fld CHG_VLIVE_VAL s
  if [4, 5, 6, 7, 9].contains (chgSt s) ∧ 0 < v ∧ v < p then min p (max v (s.chg.vAvg * 100 / 103)) else v

/-- V_OV of R262. -/
def vOv (s : State) : Nat :=
  let v := fld CHG_VLIVE_VAL s
  if [4, 5, 6, 7, 9].contains (chgSt s) ∧ v ≠ 0 then min (vpkceil s) (v * 105 / 100)
  else if chgSt s = 3 ∧ dvalid s then min (vpkceil s) (vMaxP s * 105 / 100)
  else vpkceil s

/-- The effective set points and V_OV at a tick (R261, R262): a rise of V_OV applies now, a fall 20 µs later, which is the next
tick. While a ramp of R254 runs, the current is left to it. -/
def setPoints (s : State) : State :=
  let s := match s.chg.vovNext with
    | some v => modChg (fun c => { c with vov := v, vovNext := none }) s
    | none => s
  let i := iEff s
  let s := if s.chg.ramp.isSome ∧ i = 0 then s else modChg (fun c => { c with ramp := none }) (setF CHG_ILIVE_VAL i s)
  let s := if i < lfld CHG_ISET_VAL s then setF CHG_STAT_CLPI 1 s else s
  let v := vEff s
  let s := setF CHG_VLIVE_VAL v s
  let s := if v ≠ lfld CHG_VSET_VAL s then setF CHG_STAT_CLPV 1 s else s
  let o := vOv s
  if s.chg.vov ≤ o then modChg (fun c => { c with vov := o }) s else modChg (fun c => { c with vovNext := some o }) s

/-- Thresholds of PK_OC, forward and reverse (R263). -/
def ocThr (fwd : Bool) (s : State) : Nat :=
  let c := ipkceil s * 11 / 10
  if dvalid s then min ((if fwd then ichMax s else idsMax s) * 5 / 4) c else c

/-! ## HW rows that act at once (R254 rows 1-3) -/

/-- Row 3: PK_OC, TH_HARD or a safe stop. -/
def chgRow3 (cause : Nat) (s : State) : State :=
  if [0, 1, 2, 12, 13].contains (chgSt s) then s
  else s |> chgEnter 12 cause true |> dgOpen |> rsvCheck

/-- Row 2: Fawn mode. A PK_DG that R108 does not permit closed opens without a ramp (R260). -/
def chgRow2 (s : State) : State :=
  let s := if chgSt s = 0 ∨ chgSt s = 13 then s
    else modChg (fun c => { c with ramp := none }) (setF CHG_ILIVE_VAL 0 (chgEnter 12 0xA true s))
  if dgPermit s || s.chg.dg == .open' then s else dgOpen s

/-- A removal is declared by detector `by'` (R275, R276): LOSTBY, row 1, all switching stopped until the state leaves PACK_LOST
(R277), PK_DG open, the pack bus and the sequencers released (R339). After a PK_OC of the same microsecond PREV stays (R278). -/
def removal (by' : Nat) (s : State) : State :=
  let o := chgSt s
  let s := if fld CHG_STAT_LOSTBY s = 0 then setF CHG_STAT_LOSTBY by' s else s
  let s := if s.chg.ocUs = some (nowUs s) then s else setF CHG_STATE_PREV o s
  let s := { s with chg := { s.chg with
    lostPend := true, since := nowUs s, attEnd := if o = 3 then some (nowUs s) else s.chg.attEnd } }
  let s := s |> setF CHG_STATE_STATE 13 |> setF CHG_FCAUSE_CAUSE 0 |> latchClear |> latchLeave |> notify 4
  s |> stopFor .lost |> dgOpen |> pkRemoval |> rsvCheck

/-- Is PK_DG closed, as DGCL shows, or was it until a PK_OC of this microsecond (R275, R278)? -/
def dgOn (s : State) : Bool := flag CHG_STAT_DGCL s || s.chg.ocUs == some (nowUs s)

/-- PACK_OV_TRIP (R262, R275), which raises PK_OV in boot service too, as PACK_OC_TRIP raises PK_OC: R107's words "does not raise a fault
source" are taken of the HBUS service itself (the model's choice, log entry 195). Pack-side switching stops while PK_OV holds; with
PK_DG closed a removal is declared, and one that is closing opens in the same 200 ns (R82). The comparator's accuracy is 0.5 %. -/
def packOvTripOp (o : FastObs) (s : State) : State :=
  let s := putFast o s
  if s.pwr.vPk * 1000 < s.chg.vov * 995 then s
  else
    let on := dgOn s
    let s := s |> raise' srcPkOv 3 none 0 |> stopFor .pkOv |> modChg (fun c => { c with ovOn := true })
    if on then removal 1 s else rsvCheck (if s.chg.dg == .open' then s else dgOpen s)

/-- PACK_OC_TRIP (R263, row 3). The comparator's accuracy is 1.5 % (R82). -/
def packOcTripOp (o : FastObs) (s : State) : State :=
  let s := putFast o s
  if s.pwr.iPk.natAbs * 1000 < ocThr (decide (0 ≤ s.pwr.iPk)) s * 985 then s
  else
    let us := if dgOn s then some (nowUs s) else s.chg.ocUs
    s |> raise' srcPkOc 3 none 0 |> stopFor .pkOc |> modChg (fun c => { c with ocOn := true, ocUs := us }) |> chgRow3 6 |> rsvCheck

/-- PRESENCE_OPEN_DETECT (R275). -/
def presOpenOp (s : State) : State := if dgOn s then s |> raise' srcPkLost 2 none 0 |> removal 2 else s

/-- Has the forward current collapsed since one of the last 10 samples: from above 1 A to below 20 %, V_PK up by 0.5 % (R275)? -/
def collapsed (s : State) : Bool :=
  s.pwr.hist.any (fun w => decide (1000 < w.2) && decide (s.pwr.iPk * 5 < w.2) && decide (w.1 * 201 ≤ s.pwr.vPk * 200))

/-- CURRENT_COLLAPSE_DETECT (R275): armed in forward operation. -/
def collapseOp (o : FastObs) (s : State) : State :=
  let s := putFast o s
  if dgOn s && !packC s && collapsed s then s |> raise' srcPkLost 2 none 0 |> removal 3 else s

/-- The levels of PK_OV and PK_OC end with their conditions (R262, R263, R256); the stops they left end at the next tick, with the
effective current of that tick in force (R167, R277). -/
def chgLevels (s : State) : State :=
  let s := if s.chg.ovOn ∧ s.pwr.vPk ≤ s.chg.vov then modChg (fun c => { c with ovOn := false }) s else s
  if s.chg.ocOn ∧ s.pwr.iPk.natAbs ≤ ocThr (decide (0 ≤ s.pwr.iPk)) s then
    modChg (fun c => { c with ocOn := false, ocOff := nowUs s }) s
  else s

/-- At a tick the stops of PK_OV and PK_OC that are no longer in force are lifted. -/
def chgStops (s : State) : State :=
  let s := if s.chg.ovOn then s else liftStop .pkOv s
  if s.chg.ocOn then s else liftStop .pkOc s

/-- PACK_ABSENT (row 6) and PACK_PRESENCE (row 7). -/
def packAbsentOp (s : State) : State := if packPresent s then s else queueRow 6 0 s
def packPresenceOp (s : State) : State := if packPresent s then queueRow 7 0 s else s

/-! ## HW rows at a tick (R254, R255) -/

/-- Does row `r` apply in the present state? -/
def rowApplies (r : Nat) (s : State) : Bool :=
  let st := chgSt s
  match r with
  | 3 => !([0, 1, 2, 12, 13].contains st)
  | 4 => isForward st || st == 8 || st == 10 || st == 11
  | 5 => st == 14 && fld CHG_STATE_RESUME s != 12
  | 6 => st == 1 || st == 2 || st == 12 || st == 13
  | 7 => st == 0
  | 9 => st == 2
  | 11 => st == 3 && fld CHG_REC_ATT s < 5
  | 12 => st == 3 && 5 ≤ fld CHG_REC_ATT s
  | 16 => st == 4
  | 18 => st == 5 || st == 6 || st == 7
  | 23 => st == 8
  | 25 => st == 9
  | 27 => isForward st && suspendBand s
  | 28 => st == 11 && decide (bandRank (band s) < 3)
  | 29 => packC s && [5, 6, 7, 8, 9, 10, 11].contains st
  | 30 => !packC s && st == 14
  | 34 => isForward st && engDown .csq s
  | _ => false

/-- The action of row `r`. -/
def rowAct (r : Nat) (s : State) : State :=
  match r with
  | 3 => s |> chgRow3 9
  | 4 => s |> rampStart |> chgEnter 12 7 true
  | 5 => s |> setF CHG_STATE_RESUME 12 |> setF CHG_FCAUSE_CAUSE 7 |> chgLog
  | 6 => chgEnter 0 0 true s
  | 7 => chgEnter 1 0 true s
  | 9 => chgEnter 12 1 true s
  | 11 => s |> rampStart |> chgEnter 2 0 true
  | 12 => s |> rampStart |> chgEnter 12 5 true
  | 16 => chgEnter 12 3 true s
  | 18 => chgEnter 12 4 true s
  | 23 => chgEnter 10 0 true s
  | 25 => s |> rampStart |> chgEnter 10 0 true
  | 27 => s |> rampStart |> chgEnter 11 0 true
  | 28 => chgEnter (fld CHG_STATE_RESUME s) 0 true s
  | 29 => chgEnter 14 0 true s
  | 30 =>
    let r := fld CHG_STATE_RESUME s
    if isForward r ∧ bandRank (band s) = 3 then chgEnter 11 0 true s else chgEnter r 0 true s
  | 34 => chgEnter 12 0xB true s
  | _ => s

/-- The rows whose condition holds as a level at a tick, with the queued rows (R254). `exp` is the row of a safety timer that
expires at this tick. -/
def dueRows (exp : Option Nat) (s : State) : List Nat :=
  let lvl := (if s.flt.stops.isEmpty then [] else [3]) ++ (if s.chg.tstopOn then [4, 5] else []) ++ [27, 29, 30, 34]
  (s.chg.hwq.map (·.1)) ++ lvl ++ exp.toList

/-- At one tick the lowest row that applies is taken, and the others are not (R255); row 29 comes before row 27. -/
def takeRow (exp : Option Nat) (s : State) : State :=
  let l := (dueRows exp s).filter (fun r => rowApplies r s)
  let l := if l.contains 29 then l.filter (fun r => r != 27) else l
  let s := modChg (fun c => { c with hwq := [] }) s
  match (sortBy (fun r => r) l).head? with
  | some r => rowAct r s
  | none => s

/-! ## Requests (R254, R256, R530) -/

/-- May row 32 leave FAULT (R256)? -/
def faultCleared (s : State) : Bool :=
  match fld CHG_FCAUSE_CAUSE s with
  | 1 | 2 => true
  | 6 => !s.chg.ocOn && decide (s.chg.ocOff + 1000000 ≤ nowUs s)
  | 7 => !s.chg.tstopOn
  | 8 => !s.chg.thardOn
  | 9 => s.flt.stops.isEmpty
  | 0xB => !engDown .csq s
  | _ => false

/-- Does the request for state `r` meet a CSQ row? -/
def reqOk (r : Nat) (s : State) : Bool :=
  let st := chgSt s
  let model := flag CHG_DLAT0_MODEL s
  let main := r == 5 || r == 7 || (r == 6 && model)
  let ccpmc := r == 5 || (r == 6 && model)
  if !s.flt.stops.isEmpty && isForward r then false
  else if r = 12 then !(st == 0 || st == 12 || st == 13)
  else match st with
    | 1 => r == 2
    | 2 =>
      (r == 3 && decide (fld CHG_REC_ATT s < 5) && (match s.chg.attEnd with | none => true | some t => decide (t + 1000000 ≤ nowUs s)))
      || (r == 4 && dvalid s && decide (s.chg.vAvg < vPre s)) || (ccpmc && dvalid s && decide (vPre s ≤ s.chg.vAvg))
      || (r == 10 && dvalid s)
    | 3 => r == 2 || (r == 4 && dvalid s && decide (s.chg.vAvg < vPre s))
    | 4 => ccpmc && dvalid s && decide (vPre s ≤ s.chg.vAvg)
    | 5 | 6 | 7 => main || r == 8
    | 8 => (r == 9 && fld CHG_TMRCFG_TOP s != 0) || r == 10
    | 9 => r == 10
    | 10 => ccpmc && flag CHG_STAT_RECHG s
    | 12 => r == 1 && faultCleared s
    | 13 => r == 1 && packPresent s && decide (s.chg.since + 1000000 ≤ nowUs s)
    | _ => false

/-- A request for state `r` that went live (R254): taken, without effect for the state in force, else refused with SREF. -/
def chgRequest (r : Nat) (s : State) : State :=
  let st := chgSt s
  if r = 15 ∨ r = st then s
  else if reqOk r s then
    let s := if (r = 8 ∧ isForward st) ∨ (st = 9 ∧ r = 10) then rampStart s else s
    chgEnter r (if r = 12 then 2 else 0) false s
  else setF CHG_STAT_SREF 1 s

/-! ## Reductions and timers (R268-R271) -/

/-- Was the frame that ends reduced (R268)? -/
def reducedFrame (s : State) : Bool :=
  fT2 s != 2 || s.thm.grazed || decide (10 ≤ s.chg.fGov) || decide (10 ≤ s.chg.fCap) || s.chg.fShed || s.hub.shed

/-- The sums of the frame that ends (R270), with the set point live in it. The time before the first frame is no frame. -/
def chgSums (o : FrameObs) (s : State) : State :=
  let st := chgSt s
  let c := { s.chg with vAvg := (o.vPk / 100).toNat }
  if !s.clk.running then { s with chg := c }
  else
    { s with
      chg :=
        { c with
          sProg := c.sProg + min (lfld CHG_ISET_VAL s) (min (iSt s) (ipkceil s))
          sDel := c.sDel + avgIpk o s
          sFrames := c.sFrames + 1
          sHalf := c.sHalf + b2n (fT2 s == 1)
          sRed := c.sRed || reducedFrame s
          sPre := c.sPre || st == 4
          sFast := c.sFast || st == 5 || st == 6 || st == 7
          sTop := c.sTop || st == 9 } }

/-- The counters of R268 and the marks of R299 for the frame that begins. -/
def chgFrame (s : State) : State :=
  modChg (fun c => { c with fGov := 0, fCap := 0, fShed := s.hub.shed, fHold := hoHold s }) s

/-- The rate of the superframe that closes (R270): 1 half, 2 full; that of the previous superframe after a shortened one. -/
def sfHalf (s : State) : Bool :=
  if s.clk.shortSf then flag CHG_STAT_HALF s
  else
    let c := s.chg
    let n := max 1 c.sFrames
    (c.sRed && decide (c.sDel * 2 < (c.sProg * 10 : Nat) ∧ n ≠ 0)) || decide (25 ≤ c.sHalf)

/-- The timers with the counts of the closing superframe added (R269). -/
def chgCount (s : State) : State :=
  let r := if sfHalf s then 1 else 2
  let s := if s.chg.sPre then wr CHG_TPRE (rd CHG_TPRE s + r) s else s
  let s := if s.chg.sFast then wr CHG_TFAST (rd CHG_TFAST s + r) s else s
  if s.chg.sTop then wr CHG_TTOP (rd CHG_TTOP s + 2) s else s

/-- The row of a timer that has expired for the state in force (R271). -/
def expiredRow (s : State) : Option Nat :=
  match chgSt s with
  | 4 => if 120000 * fld CHG_TMRCFG_PRE s ≤ rd CHG_TPRE s then some 16 else none
  | 5 | 6 | 7 => if 120000 * fld CHG_TMRCFG_FAST s ≤ rd CHG_TFAST s then some 18 else none
  | 9 => if 120000 * fld CHG_TMRCFG_TOP s ≤ rd CHG_TTOP s then some 25 else none
  | _ => none

/-- Charge control at a superframe boundary (R269-R271): CHG_SFAVG, HALF, RED, the timers. -/
def chgSuper (s : State) : State :=
  let c := s.chg
  let n := max 1 c.sFrames
  let half := sfHalf s
  let s := chgCount s
  let s := if s.clk.shortSf then s
    else s |> setF CHG_SFAVG_IPROG (min 65535 (c.sProg / (10 * n))) |> setF CHG_SFAVG_IDEL (unsgn 16 (satS 16 (c.sDel / (100 * n : Nat))))
  let s := s |> setB CHG_STAT_HALF half |> setB CHG_STAT_RED c.sRed
  modChg (fun c => { c with
    sProg := 0, sDel := 0, sFrames := 0, sHalf := 0, sRed := false, sPre := false, sFast := false, sTop := false }) s

/-- RECHG (R274): V_RCH, and its clearing at V_RCH × 1.005. -/
def vRch (s : State) : Nat := vMaxP s * (1000 - fld CHG_CYCCFG_RDELTA s) / 1000
def rechargeOp (s : State) : State := if chgSt s = 10 ∧ s.chg.vAvg < vRch s then setF CHG_STAT_RECHG 1 s else s

/-! ## Lamps (R279-R281) -/

/-- The pattern code and n that STAT0 shows in hardware mode (R252, R280). -/
def stat0Hw (s : State) : Nat × Nat :=
  let code := fun (c : Nat) => match c with
    | 1 | 2 => 1 | 0xA => 2 | 3 | 4 => 3 | 5 => 4 | 6 => 5 | 7 | 8 => 6 | _ => 7
  let pat := fun (st : Nat) => match st with
    | 0 => (0, 1) | 1 | 2 | 3 | 4 | 5 | 6 | 7 => (2, 1) | 8 | 9 | 10 => (1, 1) | 11 => (3, 1)
    | 12 => (4, code (fld CHG_FCAUSE_CAUSE s))
    | 13 => if packPresent s then (4, 5) else (0, 1)
    | _ => (0, 1)
  if chgSt s = 14 then pat (fld CHG_STATE_RESUME s) else pat (chgSt s)

/-- The pattern a lamp is to show (R280, R281); a pattern code above 4 is off. -/
def lampWant (i : Nat) (s : State) : Nat × Nat :=
  let prog := fun (p n : Nat) => if p ≤ 4 then (p, max 1 n) else (0, 1)
  if i = 0 then
    if inFawn s then (4, 2)
    else if fld CHG_LAMP_S0MODE s = 1 then prog (fld CHG_LAMP_S0PAT s) (fld CHG_LAMP_S0N s) else stat0Hw s
  else if inFawn s then (0, 1)
  else if fld CHG_LAMP_S1MODE s = 1 then prog (fld CHG_LAMP_S1PAT s) (fld CHG_LAMP_S1N s) else (0, 1)

/-- Is the output on in interval `iv` of a pattern? -/
def lampOn (p n iv : Nat) : Bool :=
  match p with
  | 1 => true
  | 2 | 3 => iv % 2 == 0
  | 4 => iv % 2 == 0 && decide (iv < 2 * n)
  | _ => false
/-- Intervals of a pattern. -/
def lampLen (p n : Nat) : Nat := match p with | 2 | 3 => 2 | 4 => 2 * n | _ => 1

/-- A lamp takes its pattern; a changed pattern restarts from its first interval. -/
def lampSync1 (l : Lamp) (w : Nat × Nat) : Lamp :=
  if l.pat = w.1 ∧ (l.n = w.2 ∨ w.1 ≠ 4) then l else ⟨w.1, w.2, 0, lampOn w.1 w.2 0⟩
def lampSync (s : State) : State :=
  modChg (fun c => { c with lamp0 := lampSync1 c.lamp0 (lampWant 0 s), lamp1 := lampSync1 c.lamp1 (lampWant 1 s) }) s

/-- LAMP_PATTERN_STEP (R279). -/
def lampStep1 (l : Lamp) : Lamp :=
  let iv := (l.iv + 1) % lampLen l.pat l.n
  { l with iv := iv, on := lampOn l.pat l.n iv }
def lampStepOp (i : Nat) (s : State) : State :=
  modChg (fun c => if i = 0 then { c with lamp0 := lampStep1 c.lamp0 } else { c with lamp1 := lampStep1 c.lamp1 }) s

/-! ## The tick (R246, R255) -/

/-- Actions of a removal that wait for the tick (R276 step 4). -/
def lostTick (s : State) : State :=
  if s.chg.lostPend then
    let s := modChg (fun c => { c with lostPend := false, ramp := none }) s
    s |> setF CHG_ILIVE_VAL 0 |> setF CHG_VLIVE_VAL 0 |> setF CHG_STAT_LOSTEVT 1 |> chgLog
  else s

/-- RECHG clears at V_RCH × 1.005 (R274). -/
def rechgTick (s : State) : State :=
  if flag CHG_STAT_RECHG s ∧ vRch s * 1005 ≤ s.chg.vAvg * 1000 then setF CHG_STAT_RECHG 0 s else s

/-- Charge control at a frame tick, after the sums of the ended frame: `boundary` says the tick closes a superframe, `req` is the
request that went live. HW rows come before the request (R255). -/
def chgTick (o : FrameObs) (boundary : Bool) (req : Option Nat) (s : State) : State :=
  let s := s |> lostTick |> rechgTick
  let s := match s.chg.bandPend with
    | some b => modChg (fun c => { c with bandPend := none }) (setF CHG_STAT_BAND b s)
    | none => s
  let exp := if boundary then expiredRow (chgCount s) else none
  let before := chgSt s
  let s := takeRow exp s
  let s := match exp with
    | some _ => if chgSt s != before then setF CHG_STAT_TMREXP 1 s else s
    | none => s
  let s := match req with | some r => chgRequest r s | none => s
  s |> dgFollow o.vCs |> rsvCheck |> setPoints |> chgStops |> lampSync

/-- The state at the first frame and on leaving Fawn mode (R257): a state that is IDLE already is not entered. -/
def chgFirst (s : State) : State :=
  if packC s then setF CHG_STATE_RESUME 1 (chgEnter 14 0 true s)
  else if chgSt s = 0 then s else chgEnter 0 0 true s

/-- One µs of the counters of R268. -/
def govCount (s : State) : State :=
  let g := fld PWR_STAT_GOV s
  modChg (fun c => { c with
    fGov := if g = 2 ∨ g = 3 ∨ g = 6 then c.fGov + 1 else c.fGov, fCap := if flag PWR_STAT_CAPGOV s then c.fCap + 1 else c.fCap }) s

/-- SELECTOR_UPDATE as the part runs it: the comparators armed by its samples (R183), the selector, the ramp to unfed, the pre-charge of
PK_DG, the levels of PK_OV and PK_OC, the counters of R268. -/
def selectorOp (o : FastObs) (s : State) : State := s |> armFast o |> selectorUpdate o |> unfedRampEnd |> preStep |> chgLevels |> govCount

/-- PORT_MEASUREMENT with the same levels. -/
def portMeasureOp (o : PortObs) (s : State) : State := s |> portMeasure o |> chgLevels

end Sys2Proof.Machine
end

