-- ==== Sys2Proof/Machine/TempOps.lean ====
section
/-!
DEFINITION. Temperatures from what the sensors measure (R314, R504, R505), in 0.125 °C: the curve of a thermistor, the two-current
method of a diode, and the reading of each of the 12 sensors.
-/

namespace Sys2Proof.Machine

open Sys2Proof

/-- Fraction bits of a binary logarithm, from a mantissa in units of 2^-30. -/
def log2Bits : Nat → Nat → Nat → Nat
  | 0, _, acc => acc
  | b + 1, m, acc =>
    let q := m * m / 2 ^ 30
    if 2 ^ 31 ≤ q then log2Bits b (q / 2) (2 * acc + 1) else log2Bits b q (2 * acc)

/-- The binary logarithm of a positive number, in 2^-24. -/
def log2Fix (n : Nat) : Nat :=
  let e := Nat.log2 n
  log2Bits 24 (n * 2 ^ 30 / 2 ^ e) e

/-- A quotient of integers rounded to the nearest. -/
def ratio (a b : Int) : Int := if b < 0 then idivRound (-a) b.natAbs else idivRound a b.natAbs

/-- A computed temperature as a register holds it; where the formula gives none that it can hold, the free value `c`. -/
def tempIn (c : Nat) (t : Option Int) : Int :=
  match t with
  | some t => if t.natAbs ≤ 32767 then t else ((c % 65535 : Nat) : Int) - 32767
  | none => ((c % 65535 : Nat) : Int) - 32767

/-- 1 / (1 / 298.15 K + ln(num / den) / B) − 273.15 °C in 0.125 °C, rounded to the nearest (R314, R505); none where the formula has
no value. 206.661831 is 298.15 × ln 2. -/
def ntcTemp (num den b : Nat) : Option Int :=
  if num = 0 ∨ den = 0 ∨ b = 0 then none
  else
    let unit : Int := 16777216000000
    let d := (b : Int) * unit + ((log2Fix num : Int) - log2Fix den) * 206661831
    if d = 0 then none else some (ratio (23852 * b * unit - 21852 * d) (10 * d))

/-- ΔV / (n × 198.4 µV/K) − 273.15 °C in 0.125 °C with ΔV in µV and n = 1 + `nid` / 8192 (R505). -/
def diodeTemp (dv : Int) (nid : Nat) : Int :=
  let k : Nat := (8192 + nid) * 1984
  idivRound (dv * 6553600 - 21852 * k) (10 * k)

/-- The NTC bias current of remote input `n` in µA (R505). -/
def biasUa (n : Nat) (s : State) : Nat :=
  match fld (THM_TRCFG_BIAS n) s with | 0 => 10 | 2 => 200 | _ => 50

/-- What remote input `n` measured. -/
def remObs (o : ThermObs) (n : Nat) : RemObs := o.tr.getD n ⟨0, 0, 0⟩

/-- The temperature of remote input `n` in its mode (R505); none while it is off (R517). -/
def remTemp (o : ThermObs) (n : Nat) (s : State) : Option Int :=
  let r := remObs o n
  let x := fld (THM_TRCFG_R25 n) s
  let c := Config.tempCorner r.ntc (rd (THM_TRCFG n) s)
  match fld (THM_TRCFG_MODE n) s with
  | 1 => some (tempIn c (ntcTemp r.ntc (biasUa n s * x * 25) (fld (THM_TRCFG_BETA n) s)))
  | 2 => some (tempIn c (some (diodeTemp ((r.hi : Int) - r.lo) x)))
  | _ => none

/-- The temperature of PKT in its thermistor range, by the fixed curve of 10 kΩ and 3,435 K (R313, R314): r is VAL × 25 / 3 Ω. -/
def pktTemp (s : State) : Option Int :=
  if fld PKP_STAT_TBAND s = 1 then
    some (tempIn (Config.tempCorner (fld PKP_PKT_VAL s) 0) (ntcTemp (fld PKP_PKT_VAL s * 25) 30000 3435))
  else none

/-- Does the measurement of remote input `n` meet its condition of R506? -/
def remBad (o : ThermObs) (n : Nat) (s : State) : Bool :=
  let r := remObs o n
  if fld (THM_TRCFG_MODE n) s = 1 then decide (r.ntc < 1000 * biasUa n s ∨ 200000 * biasUa n s < r.ntc)
  else decide (r.lo < 200000 ∨ 900000 < r.lo)

end Sys2Proof.Machine
end

