-- ==== Sys2Proof/Machine/ThmOps.lean ====
section
/-!
DEFINITION. Thermal management (R504-R515) and the watchdog's periods, token and tasks (R492-R500). Temperatures are in
0.125 °C.
-/

namespace Sys2Proof.Machine

open Sys2Proof

/-! ## Sensors (R504-R507) -/

/-- Is a remote input off (R517)? -/
def remoteOff (n : Nat) (s : State) : Bool := n ≥ 7 && n ≤ 10 && (fld (THM_TRCFG_MODE (n - 7)) s == 0 || fld (THM_TRCFG_MODE (n - 7)) s == 3)

/-- The reading of sensor `n` in an update (R504); none for an input that is off and for PKT outside its range. -/
def sensOf (o : ThermObs) (n : Nat) (s : State) : Option Int :=
  if n < 7 then some (clampI (-32767) 32767 (o.die.getD n 0)) else if n = 11 then pktTemp s else remTemp o (n - 7) s

/-- The median of the die sensors. -/
def dieMedian (o : ThermObs) (s : State) : Int :=
  let l := sortBy (fun (i : Int) => (i + 100000).toNat) ((List.range 7).filterMap (fun n => sensOf o n s))
  l.getD (l.length / 2) 0

/-- Does this update of sensor `n` meet a condition of R506? -/
def sensBad (o : ThermObs) (n : Nat) (s : State) : Bool :=
  if n = 11 || remoteOff n s then false
  else if n < 7 then (match sensOf o n s with | none => true | some t => decide (80 < (t - dieMedian o s).natAbs))
  else remBad o (n - 7) s

/-- Is sensor `n` invalid? -/
def sensInv (n : Nat) (s : State) : Bool := bitOf (fld THM_STAT_INV s) n

/-- One update of sensor `n`: after 4 consecutive contrary updates its validity changes (R506). -/
def sensStep (o : ThermObs) (n : Nat) (s : State) : State :=
  let t := sensOf o n s
  let s := setF (THM_SENS_TEMP n) (match t with | none => 0x8000 | some v => unsgn 16 v) s
  let bad := sensBad o n s
  let c := if bad = sensInv n s then 0 else vAt s.thm.cnt n + 1
  let put := fun k s => { s with thm := { s.thm with cnt := vPut s.thm.cnt n k } }
  if c < 4 then put c s
  else
    let s := put 0 (setF THM_STAT_INV (putBit (fld THM_STAT_INV s) n bad) s)
    if bad then setF THM_STAT_INVEVT 1 s else s

/-- The larger of two temperatures that may be absent. -/
def maxOpt (a b : Option Int) : Option Int :=
  match a, b with
  | none, x => x
  | x, none => x
  | some x, some y => some (max x y)

/-- The die maximum over the valid die sensors. -/
def dieMax (o : ThermObs) (s : State) : Option Int :=
  (List.range 7).foldl (fun m n => if sensInv n s then m else maxOpt m (sensOf o n s)) none

/-- The group maximum over THM_GCFG.MASK (R507): an invalid remote sensor counts as 125 °C, an off input is left out, PKT counts in its
range only. An invalid die sensor is left out of the die maximum (R506), not of this one. -/
def groupMax (o : ThermObs) (s : State) : Option Int :=
  (List.range 12).foldl (fun m n =>
    if !bitOf (fld THM_GCFG_MASK s) n || remoteOff n s then m
    else if 7 ≤ n && sensInv n s then maxOpt m (some 1000)
    else maxOpt m (sensOf o n s)) none

/-- A temperature register's content. -/
def tempCode (t : Option Int) : Nat := match t with | none => 0x8000 | some v => unsgn 16 v
/-- A temperature from its register. -/
def tempOf (v : Nat) : Option Int := if v = 0x8000 then none else some (sgn 16 v)
/-- Is a temperature at or above `c` °C? -/
def atLeast (t : Option Int) (c : Nat) : Bool := match t with | none => false | some v => decide ((c * 8 : Nat) ≤ v)
/-- THM_DIE in whole °C, the detail of the thermal sources (R538). -/
def dieDet (s : State) : Nat := unsgn 16 (sgn 16 (rd THM_DIE s) / 8)

/-- The number of invalid die sensors. -/
def dieInvCount (s : State) : Nat := popCount 7 (fld THM_STAT_INV s)

/-- The 80 µs count falls in every fourth frame from the first after start-up (R34). -/
def thermTick (s : State) : State :=
  if s.clk.frames % 4 = 0 then { s with thm := { s.thm with due := true } } else s

/-- Is the HFO locked to XI or to the link (R37, R51)? -/
def hfoLocked (s : State) : Bool := fld GLB_CLKSTAT_CLKSRC s == 1 || fld GLB_CLKSTAT_CLKSRC s == 2

/-! ## Thresholds (R508-R510) -/

/-- TH_WARN, die stop and group stop at an update (R508). -/
def thresholds (s : State) : State :=
  let d := tempOf (rd THM_DIE s)
  let g := tempOf (rd THM_GMAX s)
  let w := fld THM_JTH_WARN s
  let s :=
    if atLeast d w then
      (if flag THM_STAT_WARN s then s
        else s |> setF THM_STAT_WARN 1 |> setF THM_STAT_WARNEVT 1 |> raise' srcThWarn 1 none (dieDet s))
    else if atLeast d (w - 5) then s else setF THM_STAT_WARN 0 s
  let stop := atLeast d (fld THM_JTH_STOP s) || decide (3 ≤ dieInvCount s)
  let gst := fld THM_GCFG_GSTOP s != 0 && atLeast g (fld THM_GCFG_GSTOP s)
  let s' := s |> when' stop (setF THM_STAT_STOP 1) |> when' gst (setF THM_STAT_GSTP 1)
  if (stop || gst) && !s.chg.tstopOn then
    { s' with chg := { s'.chg with tstopOn := true } } |> setF THM_STAT_STOPEVT 1 |> raise' srcThStop 2 none (dieDet s) |> keepCount
  else s'

/-- Since when a condition has held: `now` where it begins (R508). -/
def heldSince (was : Option Nat) (now : Nat) (holds : Bool) : Option Nat := if holds then some (was.getD now) else none

/-- Has a condition held for 1 s (R508)? -/
def heldSecond (was : Option Nat) (s : State) : Bool := was.any (fun t => decide (t + 1000000 ≤ nowUs s))

/-- An update carries on the times since which the maxima lie below the releases of R508. -/
def coolTimes (s : State) : State :=
  let d := tempOf (rd THM_DIE s)
  let g := tempOf (rd THM_GMAX s)
  { s with
    thm :=
      { s.thm with
        coolDie := heldSince s.thm.coolDie (nowUs s) (!(atLeast d (fld THM_JTH_STOP s - 10) || decide (3 ≤ dieInvCount s)))
        coolGrp := heldSince s.thm.coolGrp (nowUs s) (!(fld THM_GCFG_GSTOP s != 0 && atLeast g (fld THM_GCFG_GSTOP s - 10)))
        coolHard := heldSince s.thm.coolHard (nowUs s) (!atLeast d (fld THM_JTH_HARD s - 20)) } }

/-- The thermal bound (R514). -/
def thermBound (s : State) : State :=
  let v := match tempOf (rd THM_GMAX s) with
    | none => 6000
    | some g =>
      let x : Int := g - (fld THM_DRATE_START s * 8 : Nat)
      if fld THM_DRATE_SLOPE s ≠ 0 ∧ 0 < x then (6000 - 10 * (fld THM_DRATE_SLOPE s : Int) * x / 8).toNat else 6000
  setF PWR_THDR_VAL v s

/-- THERMAL_UPDATE (R34, R507, R514): the 80 µs count of every fourth frame. Only a locked HFO has no correction of its own (R51). -/
def thermalUpdateOp (o : ThermObs) (s : State) : State :=
  if !s.thm.due then s
  else
    let s := { s with thm := { s.thm with due := false } }
    let s := forN 12 (fun n s => sensStep o n s) s
    let s := s |> wr THM_DIE (tempCode (dieMax o s)) |> wr THM_GMAX (tempCode (groupMax o s))
    let s := { s with thm := { s.thm with gSeen := maxOpt s.thm.gSeen (groupMax o s) } }
    s |> thresholds |> coolTimes |> thermBound |> setF GLB_OSCCOR_COR (if hfoLocked s then 0 else unsgn 12 o.osc) |> tempUpdate (pktTemp s)

/-- TH_HARD_TRIP (R508, R510): a die sensor at `die` eighths of a degree. Its comparator may trip from 3 °C below HARD on (R82): all
switching stopped, row 3, no pack reserve. -/
def thHardTripOp (die : Int) (s : State) : State :=
  if flag THM_STAT_HARD s || decide (die < (fld THM_JTH_HARD s : Int) * 8 - 24) then s
  else
    { s with chg := { s.chg with thardOn := true }, thm := { s.thm with coolHard := none } } |> setF THM_STAT_HARD 1 |> setF THM_STAT_HARDEVT 1
      |> raise' srcThHard 3 none (dieDet s) |> stopFor .thHard |> chgRow3 8 |> rsvCheck

/-- TH_STOP_RELEASE (R508): each stop whose maximum has lain below its threshold less 10 °C for 1 s. -/
def thStopReleaseOp (s : State) : State :=
  let s := if heldSecond s.thm.coolDie s then setF THM_STAT_STOP 0 s else s
  let s := if heldSecond s.thm.coolGrp s then setF THM_STAT_GSTP 0 s else s
  { s with chg := { s.chg with tstopOn := flag THM_STAT_STOP s || flag THM_STAT_GSTP s } }

/-- TH_HARD_RELEASE (R508): the die maximum has lain below HARD less 20 °C for 1 s. -/
def thHardReleaseOp (s : State) : State :=
  if flag THM_STAT_HARD s && heldSecond s.thm.coolHard s then
    liftStop .thHard { (setF THM_STAT_HARD 0 s) with chg := { s.chg with thardOn := false } }
  else s

/-! ## Graze frames (R511-R513) -/

/-- Is frame index `j` a graze frame at the level in force (R513), outside Fawn mode and boot service (R511)? -/
def grazeAt (j : Nat) (s : State) : Bool :=
  let g := fld THM_GLVL_G s
  let k := (j + fld THM_GLVL_STAG s) % 50
  !svc s && (k + 1) * g / 50 - k * g / 50 == 1

/-- The frame that opens is a graze frame or not (R511): it has its effect while a source carries HBUS. Soft start restarts after each
graze frame that had it (R166). -/
def grazeTick (s : State) : State :=
  let now := grazeAt s.clk.fidx s
  let had := s.thm.grazed
  let s := { s with thm := { s.thm with graze := now, grazed := now && srcCarried s } }
  if had && !s.thm.grazed then softRestart s else s

/-- The graze level, target and stagger at a superframe boundary (R512, R513). An INDEX of NN or more gives a stagger of 50 or more: STAG
takes it modulo 50, which places the same frames (DESIGN CHOICE, log entry 211). -/
def grazeSuper (s : State) : State :=
  let target := match s.thm.gSeen with
    | none => 0
    | some g =>
      let x : Int := g - (fld THM_GRAZE_TGS s * 8 : Nat)
      if x < 0 then 0 else min 45 (x.toNat / max 1 (fld THM_GRAZE_GSTEP s) + 1)
  let old := fld THM_GLVL_G s
  let h := if old ≤ target then target else max target (old - fld THM_GRAZE_GDEC s)
  let role := fld LNK_STAT_ROLE s
  let nn := fld LNK_POS_NN s
  let stag := if isMember s && (role == 3 || role == 4) && decide (2 ≤ nn) then fld LNK_POS_INDEX s * 50 / nn else 0
  let s := s |> setF THM_GLVL_G (max h (fld THM_GRAZE_GMIN s)) |> setF THM_GLVL_TARGET target |> setF THM_GLVL_STAG (stag % 50)
  grazeTick { s with thm := { s.thm with gSeen := none } }

/-! ## Watchdog (R492-R500) -/

/-- LFO cycles of a period of `ms` (R492). -/
def lfoCycles (ms : Nat) : Nat := (ms * 32768 + 500) / 1000
/-- LFO cycles gone of the running period. -/
def wdgGone (s : State) : Nat := (nowUs s - s.wdg.start) * 32768 / 1000000
/-- May the LFO, which runs within 2 % of its nominal rate (R40), have counted `c` cycles since the time `start`? -/
def lfoSince (c start : Nat) (s : State) : Bool := decide (c * 100000000 ≤ (nowUs s + 1 - start) * 32768 * 102)
/-- May it have counted `c` cycles of the running period? -/
def lfoMay (c : Nat) (s : State) : Bool := lfoSince c s.wdg.start s
/-- WDG_LEFT (R492). -/
def wdgLeft (s : State) : Nat := if flag WDG_STAT_RUN s then s.wdg.cyc - wdgGone s else 0

/-- A period of `ms` starts with its open window and no check-in (R494, R500). -/
def wdgPeriod (ms : Nat) (s : State) : State :=
  { s with wdg := { s.wdg with cyc := lfoCycles ms, start := nowUs s, task := regGet s.regs WDG_TASK } }
    |> setF WDG_STAT_OPEN 1 |> setF WDG_STAT_BADCNT 0 |> setF WDG_CHKD_MASK 0

/-- The first period after a start or an expiry: 500 ms, or PER under software start (R493, R494). -/
def wdgFirst (s : State) : State := wdgPeriod (if flag WDG_CTL_HWST s then 500 else fld WDG_PER_PER s) s

/-- WATCHDOG_START (R493). -/
def wdgStart (s : State) : State :=
  if flag WDG_STAT_RUN s || inFawn s then s else s |> parWrite WDG_CTL 1 |> setF WDG_CTL_RUN 1 |> setF WDG_STAT_RUN 1 |> wdgFirst

/-- The start at the first frame tick under WDGST (R493); a part that comes up in Fawn mode starts it on leaving that mode (R502). -/
def wdgHardStart (s : State) : State := if inFawn s then { s with wdg := { s.wdg with wasRun := true } } else wdgStart s

/-- The next question (R495). -/
def wdgNextQ (q : Nat) : Nat := (((BitVec.ofNat 8 q) <<< 1) ^^^ (if bitOf q 7 then 0x71#8 else 0#8)).toNat
/-- The token of question `q` under `key` (R495). -/
def wdgToken (key : Word) (q : Nat) : Word := (key ^^^ BitVec.ofNat 32 (q * 0x9E3779B1)).rotateLeft (q % 32)

/-- Is task `k` registered in the running period, and to whom (R499)? 0-3 an engine, 4 the host. -/
def wdgOwner (k : Nat) (s : State) : Option Nat :=
  let v := s.wdg.task.toNat
  let o := bitsOf v (4 * k + 2) (4 * k)
  if bitOf v (4 * k + 3) && decide (o ≤ 4) then some o else none

/-- The mask of registered tasks. -/
def wdgTasks (s : State) : Nat := ((List.range 8).map (fun k => if (wdgOwner k s).isSome then 2 ^ k else 0)).sum
/-- The mask of registered tasks that have not checked in. -/
def wdgMissing (s : State) : Nat :=
  ((List.range 8).map (fun k => if (wdgOwner k s).isSome && !bitOf (fld WDG_CHKD_MASK s) k then 2 ^ k else 0)).sum

/-- A valid service (R497): Q advances and a period of PER starts. -/
def wdgValid (s : State) : State :=
  s |> setF WDG_Q_Q (wdgNextQ (fld WDG_Q_Q s)) |> setF WDG_STAT_SVCEVT 1 |> wdgPeriod (fld WDG_PER_PER s)

/-- WATCHDOG_KEY_WRITE (R496). -/
def wdgKeyWrite (v : Nat) (s : State) : State :=
  if flag WDG_STAT_KEYLK s then setF WDG_ERR_KEYREF 1 s
  else { (setF WDG_STAT_KEYLK 1 s) with wdg := { s.wdg with key := BitVec.ofNat 32 v } }

/-- Are writes of WDG_PER and WDG_TASK accepted now (R500)? -/
def wdgCfgOpen (s : State) : Bool := !flag WDG_STAT_RUN s || flag WDG_STAT_OPEN s

/-- The part as it was before the first service of the clock of `b`. -/
def WdgBack.old (b : WdgBack) (s : State) : State := { s with toBlock := b.was }

/-- Did a valid service in clock `c` start the running period from the open window? Then a write of WDG_PER in that clock applies to it
(R503). -/
def servedOpen (c : Nat) (s : State) : Bool := s.wback.any (fun b => b.clk == c && b.valid && flag WDG_STAT_OPEN (b.old s))

/-- A write of WDG_PER in clock `c`: clamped to 1-4,096 (R500, R503). -/
def perWrite (c v : Nat) (s : State) : State :=
  let ms := clampN 1 4096 (v % 8192)
  let s := wr WDG_PER ms s
  if servedOpen c s then { s with wdg := { s.wdg with cyc := lfoCycles ms } } else s

/-- WATCHDOG_CONFIG_WRITE in clock `c` (R500): accepted while stopped or in the open window. -/
def wdgCfgWrite (c a v : Nat) (s : State) : State :=
  if wdgCfgOpen s then parWrite a 0xFFFFFFFF (if a = WDG_PER then perWrite c v s else wr WDG_TASK v s)
  else setF WDG_ERR_CFGREF 1 s

/-- OPEN_WINDOW_CLOSE (R492): the LFO edge after floor(C / 8) cycles of the period. -/
def wdgWindowClose (s : State) : State := if lfoMay (s.wdg.cyc / 8) s then setF WDG_STAT_OPEN 0 s else s

/-- The watchdog stops in Fawn mode (R502). -/
def wdgFawn (s : State) : State :=
  let r := flag WDG_STAT_RUN s
  { s with wdg := { s.wdg with wasRun := r } } |> setF WDG_STAT_RUN 0 |> setF WDG_CTL_RUN 0 |> setF WDG_STAT_OPEN 0

/-- It restarts on leaving Fawn mode if it ran, with a 500 ms period (R502). -/
def wdgFawnExit (s : State) : State :=
  if s.wdg.wasRun then
    { s with wdg := { s.wdg with wasRun := false } } |> setF WDG_STAT_RUN 1 |> setF WDG_CTL_RUN 1 |> wdgPeriod 500
  else s

end Sys2Proof.Machine
end

