-- ==== Sys2Proof/Machine/ImpOps.lean ====
section
/-!
DEFINITION. The impedance unit and the ADC (R283-R302, R311, R387): the check of a sweep descriptor, groups, records and
outcomes, the frame averages, and ADC-CONV.
-/

namespace Sys2Proof.Machine

open Sys2Proof

/-! ## The descriptor (R293, R294) -/

/-- A point from its 8 bytes; none when a reserved bit is set. -/
def ptOf (b : List Byte) : Option ImpPt :=
  let w := leNat (b.take 4)
  let c := (b.getD 7 0).toNat
  if 16 ≤ c then none
  else some ⟨w / 2 ^ 28, w / 2 ^ 20 % 256, w % 2 ^ 20, leNat ((b.drop 4).take 2), (b.getD 6 0).toNat, c⟩

/-- Ranges and the grid of one point (R288, R293). -/
def ptOk (p : ImpPt) : Bool :=
  decide (1 ≤ p.h) && decide (10 ≤ p.d ∧ p.d ≤ 1000000) && decide (20 ≤ p.amp ∧ p.amp ≤ 5000) && decide (1 ≤ p.ncyc) &&
    decide (p.h * 10 ≤ p.d)

/-- The runs of consecutive points with one GRP. -/
def groupsOf : List ImpPt → List (List ImpPt)
  | [] => []
  | p :: t =>
    match groupsOf t with
    | (q :: g) :: r => if p.grp = q.grp then (p :: q :: g) :: r else [p] :: (q :: g) :: r
    | r => [p] :: r

/-- The conditions of R294 on a group. -/
def groupOk (g : List ImpPt) : Bool :=
  match g with
  | [] => false
  | p :: _ =>
    g.all (fun q => q.d == p.d && q.ncyc == p.ncyc && q.lead == p.lead) && decide (g.length ≤ 8) &&
      decide ((g.map (fun q => q.h)).Nodup) && decide ((g.map (fun q => q.amp)).sum ≤ 5000)

/-- A descriptor at `a` with its checks (R294): RETRY, CONT, RESADDR and the points, or none. -/
def sweepCheck (a : Nat) (s : State) : Option (Bool × Bool × Nat × List ImpPt) × State :=
  let inArea := fun x n => decide (0x4480 ≤ x) && inRam x n
  if a % 4 ≠ 0 || !inArea a 8 then (none, s)
  else
    match ramRead none a 8 s with
    | (.inl _, s) => (none, s)
    | (.inr hd, s) =>
      let npt := (hd.getD 0 0).toNat
      let fl := (hd.getD 1 0).toNat
      let res := leNat ((hd.drop 4).take 2)
      if npt = 0 ∨ 16 < npt ∨ 4 ≤ fl then (none, s)
      else if !inArea a (8 + 8 * npt) || !inArea res (8 + 16 * npt) then (none, s)
      else
        match ramRead none (a + 8) (8 * npt) s with
        | (.inl _, s) => (none, s)
        | (.inr body, s) =>
          match (List.range npt).mapM (fun i => ptOf ((body.drop (8 * i)).take 8)) with
          | none => (none, s)
          | some pts =>
            let gs := groupsOf pts
            let ok := pts.all ptOk && gs.all groupOk && decide ((gs.map (fun g => (g.head?.map (fun p => p.grp)).getD 0)).Nodup)
              && (decide (a + 8 + 8 * npt ≤ res) || decide (res + 8 + 16 * npt ≤ a)) && leNat ((hd.drop 2).take 2) == 0
              && leNat (hd.drop 6) == 0
            (if ok then some (bitOf fl 0, bitOf fl 1, res, pts) else none, s)

/-- The result area that the descriptor at `a` names, where its header can be read and the area lies wholly where R293 has it and clear
of the descriptor. -/
def sweepArea (a : Nat) (s : State) : Option Nat :=
  match (ramRead none a 8 s).1 with
  | .inl _ => none
  | .inr hd =>
    let npt := (hd.getD 0 0).toNat
    let res := leNat ((hd.drop 4).take 2)
    if a % 4 = 0 ∧ 0x4480 ≤ a ∧ 0x4480 ≤ res ∧ inRam res (8 + 16 * npt) ∧ (a + 8 + 8 * npt ≤ res ∨ res + 8 + 16 * npt ≤ a) then
      some res
    else none

/-! ## The end of a job (R296-R298) -/

/-- The header of the result area. -/
def impHeader (res outcome nDone nRetry : Nat) (s : State) : State :=
  (ramStoreBytes none res ([BitVec.ofNat 8 outcome, BitVec.ofNat 8 nDone, BitVec.ofNat 8 nRetry, 0] ++ leBytes 4 s.clk.frm.toNat) s).2

/-- A job ends with `outcome`: the result header, IMP_STAT, the CC bound back (R287), and the completion with the outcome as DETAIL
(R291, R298). -/
def impEnd (j : ImpJob) (outcome : Nat) (s : State) : State :=
  s |> putJob none |> impHeader j.resAddr outcome j.nDone j.nRetry |> setF IMP_STAT_OUTCOME outcome
    |> when' (decide (3 ≤ outcome)) (setF IMP_STAT_ABEVT 1) |> impIdle
    |> complete j.tag 0 outcome (j.nDone + 256 * j.nRetry)

/-- A sweep is refused with outcome 0x06 or 0x09 (R294, R295). -/
def impRefuse (tag outcome : Nat) (s : State) : State :=
  s |> setF IMP_STAT_OUTCOME outcome |> setF IMP_STAT_ABEVT 1 |> impIdle |> complete tag 0 outcome 0

/-- IMP_SWEEP (R295): the unit takes the running operation; a job that passes starts its first group at the next tick. A refused one
writes its outcome into the result area too, which only 0x07 does not reach (R298); after 0x06 where the descriptor names one that
lies as R293 says (DEDUCED, log entry 47). -/
def impSweepOp (s : State) : State :=
  match unitOp 2 s with
  | none => s
  | some t =>
    if s.imp.job.isSome then s
    else
      let a := entH t.ent 8
      match sweepCheck a s with
      | (none, u) => impRefuse t.tag 6 (match sweepArea a s with | some res => impHeader res 6 0 0 u | none => u)
      | (some (rt, ct, res, pts), s) =>
        if !(flag IMP_CTL_EN s && impState s) then impRefuse t.tag 9 (impHeader res 9 0 0 s)
        else
          s |> putJob (some
              { tag := t.tag, pts := pts, retryEn := rt, cont := ct, resAddr := res, startPend := true, first := 0, amps := [],
                sums := [], ieff := 0, temp0 := 0x8000, step := false, intr := false, clip := false, us := 0, govUs := 0,
                retried := false, nDone := 0, nRetry := 0, bad := false, cancel := false })
            |> impHeader res 0 0 0 |> setF IMP_STAT_OUTCOME 0 |> setF IMP_STAT_BUSY 1 |> wr IMP_JADDR a

/-! ## Groups (R286, R287, R295) -/

/-- The points of the group that begins at index `i`. -/
def groupAt (pts : List ImpPt) (i : Nat) : List ImpPt :=
  let l := pts.drop i
  match l with
  | [] => []
  | p :: _ => l.takeWhile (fun q => q.grp == p.grp)

/-- Would an amplitude be below 20 mA, with the sum `apk` in 0.1 mA (R286, R287)? -/
def tooWeak (amps : List Nat) (apk : Nat) : Bool := amps.any (fun a => decide (a * apk < 200 * amps.sum))

/-- Step 1 of R295: the group at `first` starts at this tick. A_pk is that of the descriptor, at most 5 A and a tenth of i_eff, and i_c
the rest of i_eff (R286). -/
def groupStart (j : ImpJob) (s : State) : State :=
  let g := groupAt j.pts j.first
  let ie := fld CHG_ILIVE_VAL s
  let amps := g.map (fun p => p.amp)
  let apk := min (10 * amps.sum) (min 50000 ie)
  if tooWeak amps apk then impEnd j 5 s
  else
    let lead := (g.head?.map (fun p => p.lead)).getD 0
    let j := { j with
      startPend := false, amps := amps, sums := amps.map (fun _ => ⟨0, 0, 0, 0⟩), ieff := ie, temp0 := rd CHG_PKTEMP s, step := false, intr := false, clip := false
      us := 0, govUs := 0 }
    s |> putJob (some j) |> putProbe apk (10 * ie - apk) |> wr IMP_ELAP 0
      |> setF IMP_STAT_HOLD 1 |> setF IMP_STAT_GRPPT j.first |> setB IMP_STAT_RETRY j.retried
      |> setB IMP_STAT_LEADIN (lead != 0) |> setB IMP_STAT_INTEG (lead == 0)

/-- LEAD × D and N × D of the running group, frames (R295). -/
def groupSpan (j : ImpJob) : Nat × Nat :=
  match (j.pts.drop j.first).head? with
  | some p => (p.lead * p.d, p.ncyc * p.d)
  | none => (0, 0)

/-- IMP_GROUP_LEAD_IN_END (R295 step 4), from F_g + L × D on. -/
def leadInEnd (s : State) : State :=
  match s.imp.job with
  | some j =>
    if flag IMP_STAT_LEADIN s && decide ((groupSpan j).1 ≤ rd IMP_ELAP s) then s |> setF IMP_STAT_LEADIN 0 |> setF IMP_STAT_INTEG 1
    else s
  | none => s

/-- R287 at a tick at which i_eff has fallen. -/
def impFall (j : ImpJob) (s : State) : State :=
  let ie := fld CHG_ILIVE_VAL s
  if j.ieff ≤ ie then putJob (some { j with ieff := ie }) s
  else
    let apk := min s.imp.apk ie
    if apk < s.imp.apk ∧ tooWeak j.amps apk then impEnd j 5 s
    else
      let cut := decide (10 * ie < s.imp.ic + apk)
      s |> putProbe apk (if cut then 10 * ie - apk else s.imp.ic)
        |> putJob (some { j with ieff := ie, step := j.step || decide (apk < s.imp.apk) || cut })

/-! ## The lock-in (R283, R284) -/

/-- The skew between the channels, in ps (R84). -/
def skewPs : Int := clampI (-5000) 5000 Config.impSkew

/-- sin(2π · x / den) and cos(2π · x / den) in 2^-30. -/
def sinCos (x : Int) (den : Nat) : Int × Int :=
  let n := (x % (den : Int)).toNat
  (sinTurn n den, sinTurn (4 * n + den) (4 * den))

/-- One sample pair joins the sums of a tone of harmonic `h` on divider `d`: `n` samples after the window's first. The skew is
corrected in the demodulation of the voltage. -/
def impSample (h d : Nat) (skew : Int) (n : Nat) (x : Int × Int) (m : ImpSum) : ImpSum :=
  let t : Int := (n * 625000 : Nat)
  let v := sinCos (h * (t + skew)) (d * 20000000)
  let i := sinCos (h * t) (d * 20000000)
  ⟨m.vr + x.1 * v.2, m.vi + x.1 * v.1, m.sr + x.2 * i.2, m.si + x.2 * i.1⟩

/-- The samples of frame `e` of the window join a tone's sums. -/
def impFrame (h d : Nat) (skew : Int) (e : Nat) (l : List (Int × Int)) (m : ImpSum) : ImpSum :=
  forN 32 (fun i m => impSample h d skew (32 * e + i) (l.getD i (0, 0)) m) m

/-- The ended frame's samples, where it lies in the integration window. -/
def lockIn (o : FrameObs) (j : ImpJob) (s : State) : ImpJob :=
  let (a, n) := groupSpan j
  let e := rd IMP_ELAP s
  if a ≤ e ∧ e < a + n then
    let g := groupAt j.pts j.first
    { j with
      sums := (List.range j.sums.length).map (fun k =>
        let p := g.getD k ⟨0, 1, 1, 0, 1, 0⟩
        impFrame p.h p.d skewPs (e - a) o.imp (j.sums.getD k ⟨0, 0, 0, 0⟩))
      clip := j.clip || o.imp.any (fun x => vOut x.1 || iOut x.2) }
  else j

/-- The integer square root of a 200-bit number. -/
def isqrt (n : Nat) : Nat := isqrtBits 100 n 0

/-- |I| of a tone in mA over `m` samples, RSNS_PK being `r` × 10 µΩ (R284, R586). -/
def toneMa (x : ImpSum) (m r : Nat) : Nat := divRound (isqrt (x.sr * x.sr + x.si * x.si).toNat * 20) (m * r * 2 ^ 30)

/-- Re Z, Im Z in µΩ of a tone: the quotient of its phasors (R284); none where it carries no current. -/
def toneZ (x : ImpSum) (r : Nat) : Option (Int × Int) :=
  let d := (x.sr * x.sr + x.si * x.si).toNat
  if d = 0 then none
  else some (idivRound ((x.vr * x.sr + x.vi * x.si) * (r * 1000 : Nat)) d, idivRound ((x.vr * x.si - x.vi * x.sr) * (r * 1000 : Nat)) d)

/-- What tone `k` of the group measured: Re Z, Im Z, |I|. Without current the manual gives no Z: a free value. A PWR_SNS.RPK that goes
live inside the group converts the whole of it, with the value held at the end of the integration (DESIGN CHOICE, log entry 149). -/
def toneOf (j : ImpJob) (k : Nat) (s : State) : Int × Int × Nat :=
  let x := j.sums.getD k ⟨0, 0, 0, 0⟩
  let z := (toneZ x (rPk s)).getD ((Config.freeWord (s.seed + 2 * k)).toInt, (Config.freeWord (s.seed + 2 * k + 1)).toInt)
  (z.1, z.2, toneMa x (32 * (groupSpan j).2) (rPk s))

/-- The impedance unit at a frame tick (R302): a job that became ORPHAN is reported; then cancel, the charge state, a group
start, or the ended frame of the group. `str`: that frame was lengthened or shortened (R440). -/
def impTick (str : Bool) (o : FrameObs) (s : State) : State :=
  let s := if s.imp.orphan then
      { (if flag IMP_STAT_BUSY s then s else setF IMP_STAT_OUTCOME 7 s) with imp := { s.imp with orphan := false } }
    else s
  match s.imp.job with
  | none => s
  | some j =>
    if j.cancel then impEnd j 8 s
    else if !impState s then impEnd j 4 s
    else if j.startPend then groupStart j s
    else
      let j := lockIn o j s
      let j := { j with intr := j.intr || str || s.thm.grazed || s.chg.fShed || s.hub.shed || s.chg.fHold || hoHold s }
      impFall j (s |> putJob (some j) |> wr IMP_ELAP (rd IMP_ELAP s + 1))

/-! ## Records (R297-R301) -/

/-- VFLAGS of a point without the VALID bit: the group's flags, LOWI and RANGE (R299). `amp` is the descriptor's amplitude, whose share
in A_pk is the one in force. -/
def vflags (j : ImpJob) (amp : Nat) (z : Int × Int × Nat) (s : State) : Nat :=
  let range := decide (0x7FFFFFFF < z.1.natAbs ∨ 0x7FFFFFFF < z.2.1.natAbs ∨ z.2.2 < 5)
  let t := rd CHG_PKTEMP s
  let temp := t == 0x8000 || j.temp0 == 0x8000 || decide (8 < (sgn 16 t - sgn 16 j.temp0).natAbs)
  let gov := decide (j.us < j.govUs * 100)
  let low := decide (z.2.2 * 20 * j.amps.sum < amp * s.imp.apk)
  b2n range * 128 + b2n temp * 64 + b2n j.step * 32 + b2n j.intr * 16 + b2n gov * 8 + b2n low * 4 + b2n j.clip * 2

/-- The TEMP byte of a record: 0.5 °C, 0x80 unknown. -/
def tempByte (s : State) : Byte :=
  let t := rd CHG_PKTEMP s
  if t = 0x8000 then 0x80 else BitVec.ofInt 8 (clampI (-127) 127 (sgn 16 t / 4))

/-- Record `p` is written (R297, R301). -/
def putRecord (res p : Nat) (z : Int × Int × Nat) (vf : Nat) (s : State) : State :=
  let v := if vf = 0 then 1 else vf
  let sat := fun (x : Int) => clampI (-0x7FFFFFFF) 0x7FFFFFFF x
  let bytes := leBytes 4 (unsgn 32 (sat z.1)) ++ leBytes 4 (unsgn 32 (sat z.2.1)) ++ leBytes 2 (min 0xFFFF z.2.2)
    ++ [BitVec.ofNat 8 v, tempByte s] ++ leBytes 4 s.clk.frm.toNat
  let s := (ramStoreBytes none (res + 8 + 16 * p) bytes s).2
  let s := if vf = 0 then s else incSat IMP_CNT_BADPT s
  if bitOf vf 7 || bitOf vf 1 then s |> setF IMP_STAT_RNGEVT 1 |> raise' srcImpRange 1 (some uImp) 0 else s

/-- NDONE and NRETRY of the result header (R297). -/
def impCount (j : ImpJob) (s : State) : State :=
  (ramStoreBytes none (j.resAddr + 1) [BitVec.ofNat 8 j.nDone, BitVec.ofNat 8 j.nRetry] s).2

/-- IMP_GROUP_INTEGRATION_END (R295-R301), from F_g + (L + N) × D on: the records are written, then the group is repeated, the job
stops or ends, or the next group starts at this tick. -/
def integrationEnd (s : State) : State :=
  match s.imp.job with
  | none => s
  | some j =>
    if !flag IMP_STAT_INTEG s || decide (rd IMP_ELAP s < (groupSpan j).1 + (groupSpan j).2) then s
    else
      let n := j.amps.length
      let z := fun k => toneOf j k s
      let vf := fun k => vflags j (j.amps.getD k 0) (z k) s
      let s' := forN n (fun k t => putRecord j.resAddr (j.first + k) (z k) (vf k) t) s
      let bad := (List.range n).any (fun k => vf k != 0)
      let soft := (List.range n).all (fun k => vf k % 8 == 0 && vf k < 128)
      let s' := setF IMP_STAT_INTEG 0 { s' with seed := s'.seed + 2 * n }
      let j1 := { j with nDone := if j.retried then j.nDone else j.nDone + n }
      if bad && j.retryEn && soft && !j.retried then
        let j1 := { j1 with retried := true, nRetry := j.nRetry + 1 }
        groupStart j1 (impCount j1 s')
      else
        let j1 := { j1 with bad := j.bad || bad, retried := false }
        let s' := impCount j1 s'
        if bad && !j.cont then impEnd j1 3 s'
        else if j.pts.length ≤ j.first + n then impEnd j1 (if j1.bad then 2 else 1) s'
        else groupStart { j1 with first := j.first + n } s'

/-- IMP_CANCEL (R302). -/
def impCancelOp (s : State) : State :=
  match s.imp.job with
  | some j => putJob (some { j with cancel := true }) s
  | none => s

/-- The fence of the impedance unit (R302, R394): the injection is removed and OUTCOME stays 0. -/
def impFence (s : State) : State :=
  let s := fenceUnitOp 2 s
  match s.imp.job with
  | some _ => s |> putJob none |> impIdle |> setF IMP_STAT_OUTCOME 0
  | none => s

/-- One µs of the GOV count of a group in integration (R299). -/
def impGov (s : State) : State :=
  match s.imp.job with
  | some j =>
    if flag IMP_STAT_INTEG s then
      let other := fld PWR_STAT_GOV s != 0 || flag PWR_STAT_CAPGOV s || flag PWR_STAT_SSGOV s || flag PWR_STAT_SHGOV s
      putJob (some { j with us := j.us + 1, govUs := j.govUs + b2n other }) s
    else s
  | none => s

/-! ## ADC (R311, R387) -/

/-- The frame averages at a tick: they cover the frame that ends, whose FRM is `frm` (R26, R311). -/
def adcTick (frm : Nat) (o : FrameObs) (s : State) : State :=
  s |> wr ADC_VPK (clampI 0 0xFFFFFF o.vPk).toNat |> wr ADC_IPK (unsgn 24 (satS 24 (avgIpk o s))) |> wr ADC_AVGFRM frm
    |> setB ADC_STAT_VOVR (vOver o) |> setB ADC_STAT_IOVR (iOver o)
    |> when' (vOver o) (setF ADC_STAT_VOVREV 1) |> when' (iOver o) (setF ADC_STAT_IOVREV 1)

/-- Is a conversion of channel `ch` over range (R387)? -/
def adcOver (ch : Nat) (v : Int) : Bool :=
  if 5 ≤ ch ∧ ch ≤ 8 then decide (100000 < v.natAbs) else decide (v < 0) || (if ch ≤ 4 then decide (6400 < v) else decide (12000 < v))

/-- ADC_CONV (R387): `vals` are the conversions in the channel's unit; RESULT0 is their rounded average. The operation is complete with
its CNT conversions, not before. -/
def adcConvOp (vals : List Int) (s : State) : State :=
  match unitOp 1 s with
  | none => s
  | some t =>
    let ch := entB t.ent 8
    let l := vals.take (entB t.ent 9)
    if l.length < entB t.ent 9 then s
    else complete t.tag 0 (b2n (l.any (fun v => adcOver ch v))) (unsgn 32 (idivRound l.sum l.length)) s

end Sys2Proof.Machine
end

