-- ==== Sys2Proof/Machine/PortOps.lean ====
section
/-!
DEFINITION. The pack port (R312-R331): readings and bins, presence, ownership, the end of a sequencer cell, and PKB's
transactions.
-/

namespace Sys2Proof.Machine

open Sys2Proof

/-! ## Readings (R312-R315) -/

/-- PKT's band in 0.1 mV (R313). -/
def pktBand (v : Nat) : Nat := if v < 150 then 3 else if v ≤ 10000 then 1 else if v ≤ 11000 then 2 else 0
/-- PKI's band (R313). -/
def pkiBand (v : Nat) : Nat := if v < 150 then 2 else if v ≤ 11400 then 1 else 0
/-- The bin of a PKI reading in the bin band (R315). -/
def binOf (v : Nat) : Nat :=
  ([230, 300, 390, 500, 660, 850, 1110, 1450, 1880, 2450, 3190, 4150, 5410, 7050, 9170].filter (fun e => decide (e ≤ v))).length

/-- Presence as the registers report it (R253, R316). -/
def presSync (s : State) : State :=
  s |> setB PKP_STAT_PREST (pktPres s) |> setB PKP_STAT_PRESI (pkiPres s) |> presStat

/-- The stuck mask of a pin ends once it has read outside short for 100 ms (R316). -/
def unstick (short : Bool) (now : Nat) (p : PkPin) : PkPin :=
  if !p.stuck then p
  else if short then { p with outUs := none }
  else match p.outUs with
    | none => { p with outUs := some now }
    | some t => if t + 100000 ≤ now then { p with stuck := false, outUs := none } else p

/-- PKT_READ (R312). -/
def pktReadOp (v : Nat) (s : State) : State :=
  let b := pktBand v
  let s := { s with pk := { s.pk with pkt := unstick (b == 3) (nowUs s) s.pk.pkt } }
  s |> setF PKP_PKT_VAL (min 65535 v) |> setF PKP_STAT_TBAND b |> setB PKP_STAT_STUCKT s.pk.pkt.stuck |> presSync

/-- PKI_READ (R315). -/
def pkiReadOp (v : Nat) (s : State) : State :=
  let b := pkiBand v
  let bin := binOf v
  let n := if b ≠ 1 then 0 else if bin = s.pk.binCand then min 5 (s.pk.binCnt + 1) else 1
  let s := { s with pk := { s.pk with pki := unstick (b == 2) (nowUs s) s.pk.pki, binCand := bin, binCnt := n } }
  let s := s |> setF PKP_PKI_VAL (min 65535 v) |> setF PKP_STAT_IBAND b |> setB PKP_STAT_STUCKI s.pk.pki.stuck
  let s := if n = 5 ∧ bin ≠ fld PKP_STAT_BIN s then s |> setF PKP_STAT_BIN bin |> setF PKP_STAT_BINCHG 1 else s
  presSync s

/-! ## Presence (R316) -/

/-- A pin's record changed. -/
def modPin (pki : Bool) (f : PkPin → PkPin) (s : State) : State :=
  if pki then { s with pk := { s.pk with pki := f s.pk.pki } } else { s with pk := { s.pk with pkt := f s.pk.pkt } }
/-- A pin's record. -/
def getPin (pki : Bool) (s : State) : PkPin := if pki then s.pk.pki else s.pk.pkt

/-- PRESENCE_CHANGE: the open comparator has held its state for 1 ms. -/
def presChangeOp (pki opened : Bool) (s : State) : State :=
  let p := getPin pki s
  let s := modPin pki (fun p => { p with openNow := opened }) s
  if p.filt = !opened then s
  else if p.lastUs.any (fun t => decide (nowUs s < t + 10000)) then
    incSat PKP_STAT_MERGED (modPin pki (fun p => { p with merge := true }) s)
  else presSync (modPin pki (fun p => { p with filt := !opened, lastUs := some (nowUs s), merge := false }) s)

/-- PRESENCE_RATE_WINDOW_END: presence is evaluated again. -/
def presWindowEnd (pki : Bool) (s : State) : State :=
  let p := getPin pki s
  if p.merge then
    if p.filt = !p.openNow then modPin pki (fun p => { p with merge := false }) s
    else presSync (modPin pki (fun p => { p with filt := !p.openNow, lastUs := some (nowUs s), merge := false }) s)
  else s

/-- PRESENCE_STUCK: a pin short for 10 s. -/
def presStuckOp (pki : Bool) (s : State) : State :=
  let short := if pki then fld PKP_STAT_IBAND s == 2 else fld PKP_STAT_TBAND s == 3
  if !short || (getPin pki s).stuck then s
  else
    let s := modPin pki (fun p => { p with stuck := true, outUs := none }) s
    s |> setF (if pki then PKP_STAT_STUCKI else PKP_STAT_STUCKT) 1 |> setF PKP_STAT_STUCKEVT 1 |> raise' srcStuckIn 1 none 0
      |> presSync

/-! ## Ownership (R320) -/

/-- One field of a write to PKP_OWN by pin engine `me` (1 or 2): its new value, and whether the write was refused. -/
def ownField (me old new : Nat) (busy : Bool) : Nat × Bool :=
  if new = old then (old, false)
  else if (old = 0 ∨ old = me ∨ (old = 3 ∧ !busy)) ∧ (new = 0 ∨ new = me ∨ new = 3) then (new, false)
  else (old, true)

/-- Is the engine of an owner code halted or fenced? Codes 0 and 3 name none. -/
def ownerDown (c : Nat) (s : State) : Bool := if c = 1 then engDown .pe0 s else if c = 2 then engDown .pe1 s else true

/-- The clock of engine `e` in 10 ns: its frame's start, and the ticks before its release and of its cycles. -/
def engClock (e : EngId) (s : State) : Nat := s.clk.us * 100 + max s.clk.sft (200 + (getEng e s).cyc)

/-- The write of pin engine `me` to PKP_OWN, whose content was `old`: both fields, OWNREF where one is refused (R320). -/
def ownApply (me old v : Nat) (busy : Bool) (s : State) : State :=
  let (d', r1) := ownField me (old % 4) (v % 4) busy
  let (c', r2) := ownField me (old / 4 % 4) (v / 4 % 4) busy
  s |> setF PKP_OWN_PKD d' |> setF PKP_OWN_PKC c' |> when' (r1 || r2) (setF PKP_STAT_OWNREF 1)

/-- Is a host write of PKP_OWN accepted (R320): every engine named in a field it changes halted or fenced, and PKB idle? -/
def hostOwnOk (v : Nat) (s : State) : Bool :=
  let d := fld PKP_OWN_PKD s
  let c := fld PKP_OWN_PKC s
  let nd := v % 4
  let nc := v / 4 % 4
  (nd == d || (ownerDown d s && ownerDown nd s)) && (nc == c || (ownerDown c s && ownerDown nc s)) && !flag PKB_STAT_BUSY s

/-- PKP_OWN_WRITE by a pin engine, or by the host (none). CSQ and HSQ hold no right here. Of two writes in one clock that of PE0
applies, in whichever order they come: it is judged by what PE1's found, and one of PE1 after it changes nothing. -/
def ownWrite (who : Option EngId) (v : Nat) (s : State) : State :=
  let busy := flag PKB_STAT_BUSY s
  let d := fld PKP_OWN_PKD s
  let c := fld PKP_OWN_PKC s
  let nd := v % 4
  let nc := v / 4 % 4
  match who with
  | none =>
    if hostOwnOk v s then s |> setF PKP_OWN_PKD nd |> setF PKP_OWN_PKC nc else setF PKP_STAT_OWNREF 1 s
  | some e =>
    if e == .csq || e == .hsq then s
    else
      let me := engNo e - 1
      let old := d + 4 * c
      let now := engClock e s
      let note := fun (t : State) => { t with pk := { t.pk with ownLast := some (me, now, old) } }
      match s.pk.ownLast with
      | some (w, t, o) =>
        if t = now ∧ w = 1 ∧ me = 2 then s
        else if t = now ∧ w = 2 ∧ me = 1 then note (ownApply me o v busy s)
        else note (ownApply me old v busy s)
      | none => note (ownApply me old v busy s)

/-! ## Sequencer cells (R322-R326) -/

/-- SEQUENCER_CELL_END: the running cell of sequencer `e` ends, at an edge or at its length; `lvl` is the line's level then (of a
SAMP, at POS), and `time` the time from its start in 10 ns. A LOW that drove the line says nothing of its other side. -/
def cellEnd (e : Nat) (edge lvl : Bool) (time : Nat) (s : State) : State :=
  match (getSeq e s).run with
  | none => s
  | some w =>
    let c := w.toNat
    let op := c / 2 ^ 29
    let pin := bitOf c 28
    let unit := if bitOf c 27 then 100 else 1
    let pos := bitsOf c 26 16
    let len := max 1 (c % 65536) * unit
    let own := seqOwns e pin s
    let wait := op == 3 || op == 4
    let tmo := !own || (wait && !edge)
    let t := if wait then (if edge && own then min time len else len) else if op = 2 then pos * unit else pos
    let word := op * 2 ^ 29 + b2n tmo * 2 ^ 28 + b2n lvl * 2 ^ 27 + t % 2 ^ 24
    let drove := own && op == 0
    let s := if drove then s else { s with pk := if pin then { s.pk with lvlC := lvl } else { s.pk with lvlD := lvl } }
    let s := putSeq e { getSeq e s with run := none } s
    let s := if own then s else setF (PKP_SEQSTAT_NOWN e) 1 s
    let s := if 2 ≤ op then seqResult e (BitVec.ofNat 32 word) s else s
    if wait && tmo && pos % 2 == 1 then setF (PKP_SEQSTAT_ABRT e) 1 (seqFlushTx e s) else seqStart e s

/-- SEQUENCER_FLUSH (R340). -/
def seqFlushOp (e : Nat) (s : State) : State := seqFlush e s
/-- SEQUENCER_DISABLE (R326). -/
def seqDisableOp (e : Nat) (s : State) : State :=
  putSeq e { getSeq e s with run := none } (setF (PKP_SEQCTL_EN e) 0 s)

/-! ## PKB (R327-R331) -/

/-- `n` bytes that the manual leaves open. -/
def freeBytes (n : Nat) (s : State) : List Byte :=
  (List.range n).map (fun i => BitVec.ofNat 8 (bitsOf (Config.freeWord (s.seed + i)).toNat 7 0))

/-- The bytes a unit takes from shared RAM; those of an uncorrectable word are open (R583). -/
def unitRead (a n : Nat) (s : State) : List Byte × State :=
  match ramRead none a n s with
  | (.inr l, s) => (l, s)
  | (.inl _, s) => (freeBytes n s, { s with seed := s.seed + n })

/-- The end of a transaction with DETAIL `d`; IDX of a failure and RESULT0 (R329, R386). -/
def pkbEnd (t : TagRec) (d stored cnt bus : Nat) (s : State) : State :=
  { s with pkb := { s.pkb with retries := 0 } } |> setF PKB_STAT_BUSY 0 |> setF PKB_STAT_BUS bus
    |> complete t.tag 0 d (stored + 256 * cnt + 65536 * fld PKB_STAT_IDX s)

/-- The place of a failure. -/
def pkbPlace (idx : Nat) (s : State) : State := setF PKB_STAT_IDX (idx % 128) s

/-- A STOP of another controller and the bus-free time have been seen (R330, R341): the bus is free. After an arbitration lost in a
STOP or repeated START this ends the unknown state if it comes within 35 ms. -/
def pkbFree (s : State) : State :=
  if fld PKB_STAT_BUS s = 2 then setF PKB_STAT_BUS 0 s
  else if s.pkb.unknown && s.pkb.arbUs.any (fun t => decide (nowUs s ≤ t + 35000)) then
    setF PKB_STAT_BUS 0 { s with pkb := { s.pkb with unknown := false, arbUs := none } }
  else s

/-- Recovery before a START (R331): on an unknown bus, or one whose SDA or SCL has been low for 35 ms. -/
def pkbRecover (low : Bool) (ev : PkbEv) (s : State) : State :=
  if s.pkb.unknown || low || ev == .hang then
    { s with pkb := { s.pkb with unknown := false, arbUs := none } } |> incSat PKB_CNT_HANG |> setF PKB_STAT_HANGEVT 1
  else s

/-- The end of a transaction that the device answered throughout (R328, R329): `w` the bytes written, `rx` those read. -/
def pkbAnswered (t : TagRec) (w rx : List Byte) (s : State) : State :=
  let form := entB t.ent 9 % 4
  let pec := bitOf (entB t.ent 9) 2
  let m := entB t.ent 11
  let rx := fun i => rx.getD i 0xFF
  let aw := BitVec.ofNat 8 (entB t.ent 8 * 2)
  let ar := BitVec.ofNat 8 (entB t.ent 8 * 2 + 1)
  let c := (rx 0).toNat
  if form = 0 then
    let wire := aw :: w
    let wire := if pec then wire ++ [crc8 wire] else wire
    pkbEnd t 0 0 0 0 { s with pkb := { s.pkb with wire := wire } }
  else
    let head := (if form = 1 then [] else aw :: w) ++ [ar]
    if form = 3 ∧ (c = 0 ∨ m < c) then
      pkbEnd t 0x0A 0 c 0 (pkbPlace head.length { s with pkb := { s.pkb with wire := head ++ [rx 0] } })
    else
      let skip := if form = 3 then 1 else 0
      let k := if form = 3 then c else m
      let wire := head ++ (List.range (skip + k)).map rx
      let data := (List.range k).map (fun i => rx (skip + i))
      let s := { s with pkb := { s.pkb with wire := if pec then wire ++ [rx (skip + k)] else wire } }
      let bad := pec && ((crc8 wire != rx (skip + k)) != (injBits 5 s != 0))
      let s := if pec then injDone 5 s else s
      let s := opStore t (entH t.ent 14) data s
      let cnt := if form = 3 then c else 0
      if bad then
        pkbEnd t 3 k cnt 0 (s |> pkbPlace wire.length |> setF PKB_STAT_PECEVT 1 |> incSat PKB_CNT_PEC
          |> raise' srcPkbPec 2 (some uPkb) 0)
      else pkbEnd t 0 k cnt 0 s

/-- What the bus did in an attempt of transaction `t`, whose write bytes are `w` (R328-R331). -/
def pkbOutcome (t : TagRec) (w : List Byte) (ev : PkbEv) (s : State) : State :=
  match ev with
  | .free => s
  | .hang => pkbEnd t 8 0 0 3 (pkbPlace 0 { s with pkb := { s.pkb with unknown := true } })
  | .nack i =>
    let form := entB t.ent 9 % 4
    pkbEnd t (if i = 0 ∨ (2 ≤ form ∧ i = entB t.ent 10 + 1) then 1 else 2) 0 0 0 (s |> pkbPlace i |> incSat PKB_CNT_NACK)
  | .arb i bit =>
    let s := s |> pkbPlace i |> setF PKB_STAT_ARBBIT (bit % 8) |> setF PKB_STAT_ARBEVT 1 |> incSat PKB_CNT_ARB
    if 3 ≤ s.pkb.retries then pkbEnd t 4 0 0 2 (raise' srcPkbArb 2 (some uPkb) 0 s)
    else { s with pkb := { s.pkb with retries := s.pkb.retries + 1 } } |> setF PKB_STAT_BUSY 1 |> setF PKB_STAT_BUS 2
  | .arbStop i =>
    pkbEnd t 5 0 0 3 (s |> pkbPlace i |> setF PKB_STAT_ARBEVT 1 |> incSat PKB_CNT_ARB |> raise' srcArbStop 2 (some uPkb) 0
      |> fun s => { s with pkb := { s.pkb with unknown := true, arbUs := some (nowUs s) } })
  | .srack i => pkbEnd t 6 0 0 2 (s |> pkbPlace i |> setF PKB_STAT_SRACKEVT 1 |> raise' srcPkbSrack 2 (some uPkb) 0)
  | .done rx => pkbAnswered t w rx s

/-- One attempt of the running transaction, with what the bus did (R328-R331); `low`: SDA or SCL was low for 35 ms before it. -/
def pkbRun (low : Bool) (ev : PkbEv) (s : State) : State :=
  match unitOp 3 s with
  | none => s
  | some t =>
    if !pkbOwns s then pkbEnd t 9 0 0 (if fld PKB_STAT_BUS s = 1 then 0 else fld PKB_STAT_BUS s) s
    else
      let s := pkbRecover low ev s
      let n := entB t.ent 10
      let (w, s) := if n = 0 then ([], s) else unitRead (entH t.ent 12) n s
      pkbOutcome t w ev s

/-- PKB_XFER: a transaction not yet under way, or what frees the bus. PKB_ARB_RETRY: its next attempt after a lost arbitration
(R330). -/
def pkbXferOp (low : Bool) (ev : PkbEv) (s : State) : State :=
  if ev == .free then pkbFree s else if s.pkb.retries ≠ 0 then s else pkbRun low ev s
def pkbRetryOp (low : Bool) (ev : PkbEv) (s : State) : State :=
  if ev == .free then pkbFree s else if s.pkb.retries ≠ 0 then pkbRun low ev s else s

/-- PKB_CLOCK_TIMEOUT (R330): at byte `idx`. -/
def pkbTimeoutOp (idx : Nat) (s : State) : State :=
  match unitOp 3 s with
  | some t => pkbEnd t 7 0 0 3 (pkbPlace idx { s with pkb := { s.pkb with unknown := true, arbUs := none } })
  | none => s

/-- The fence of PKB (R321, R394), and its release (R528): PKB holds nothing any more, and the state of a bus it held is unknown,
as after the release (DEDUCED, log entry 156). No STOP that is seen later makes up for the recovery that the release asks for. -/
def pkbFence (s : State) : State :=
  { s with pkb := { s.pkb with retries := 0, arbUs := none } } |> fenceUnitOp 3 |> setF PKB_STAT_BUSY 0
    |> when' (fld PKB_STAT_BUS s == 1) (setF PKB_STAT_BUS 3) |> ownRelease 3
def pkbUnfence (s : State) : State := { s with pkb := { s.pkb with unknown := true, arbUs := none } } |> setF PKB_STAT_BUS 3

end Sys2Proof.Machine
end

