-- ==== Sys2Proof/Machine/TmrOps.lean ====
section
/-!
DEFINITION. The timer array (R545-R559) and the scan engine of the check unit (R560-R567).
-/

namespace Sys2Proof.Machine

open Sys2Proof

/-! ## Timer array -/

/-- The channel's own data. -/
def tmrCh (n : Nat) (s : State) : TmrCh := vAt s.tmr.chans n

/-- The channel's own data changed. -/
def modTmr (n : Nat) (f : TmrCh → TmrCh) (s : State) : State :=
  { s with tmr := { s.tmr with chans := vPut s.tmr.chans n (f (tmrCh n s)) } }

/-- The accumulator cleared. -/
def tmrAcc0 (n : Nat) (s : State) : State := modTmr n (fun c => { c with acc := 0 }) s

/-- Channel `n` runs: EN is set and the array is not fenced (R550, R558). -/
def tmrRuns (n : Nat) (s : State) : Bool := flag (TMR_CFG_EN n) s && !fencedU uTmr s

/-- The staged compare value goes into force (R555). -/
def tmrUnstage (n : Nat) (s : State) : State :=
  match (tmrCh n s).stage with
  | none => s
  | some v => s |> wr (TMR_CMP n) v.toNat |> parWrite (TMR_CMP n) 0xFFFFFFFF |> setF (TMR_CAPSTAT_SPEND n) 0
    |> modTmr n (fun c => { c with stage := none })

/-- The output level of a channel that drives its pin. -/
def tmrOut (n : Nat) (b : Bool) (s : State) : State :=
  if flag (TMR_CFG_OE n) s then setB (TMR_CAPSTAT_OUTLVL n) b s else s

/-- The output action of a reload (R556). -/
def tmrReloadAct (n : Nat) (s : State) : State :=
  match fld (TMR_CFG_OACT n) s with
  | 0 => tmrOut n true s
  | 3 => tmrOut n false s
  | _ => s

/-- The output action of a match (R556). -/
def tmrMatchAct (n : Nat) (s : State) : State :=
  match fld (TMR_CFG_OACT n) s with
  | 0 => tmrOut n false s
  | 1 => tmrOut n (!flag (TMR_CAPSTAT_OUTLVL n) s) s
  | _ => tmrOut n true s

/-- A reload (R547, R549): the counter is 0, a staged compare value goes into force, and the reload action is taken. -/
def tmrReload (n : Nat) (s : State) : State :=
  s |> wr (TMR_CNT n) 0 |> setF (TMR_CAPSTAT_RLDEVT n) 1 |> tmrUnstage n |> tmrReloadAct n

/-- A count edge (R547, R554-R556): a pulse of OACT 0b10 ends, the counter reloads or adds 1, and a match is tested against
the value in force for this edge; the match action stands where both fall on one edge. -/
def tmrEdge (n : Nat) (s : State) : State :=
  let s := if fld (TMR_CFG_OACT n) s = 2 then tmrOut n false s else s
  let s := if rd (TMR_PER n) s ≤ rd (TMR_CNT n) s then tmrReload n s else wr (TMR_CNT n) (rd (TMR_CNT n) s + 1) s
  if rd (TMR_CNT n) s = rd (TMR_CMP n) s then s |> setF (TMR_CAPSTAT_MATCH n) 1 |> tmrMatchAct n else s

/-- A source edge through the prescaler (R546). -/
def tmrSource (n : Nat) (s : State) : State :=
  let a := (tmrCh n s).acc + 256
  let d := fld (TMR_PRE_DIV n) s
  if d ≤ a then tmrEdge n (modTmr n (fun c => { c with acc := a - d }) s) else modTmr n (fun c => { c with acc := a }) s

/-- An edge refused by the event rate (R552). -/
def tmrRefused (n : Nat) (s : State) : State := incSat (TMR_CAPSTAT_EDGOVF n) s

/-- The filtered level of TIO pin `k` (R566). -/
def tioLvl (k : Nat) (b : Bool) (s : State) : State := setB ⟨TMR_TIO, k, k⟩ b s

/-- A source edge at channel `n` (R545, R546, R548, R552), of a clock pin a rise of its filtered level: `gate` is the level of the
gate pin, `gap` the system clocks since the last accepted edge of the clock pin. The frame tick is a source edge of the tick
itself. -/
def countEdgeOp (n : Nat) (gate : Bool) (gap : Nat) (s : State) : State :=
  let clk := fld (TMR_CFG_CLK n) s
  let s := if clk = 3 then tioLvl (fld (TMR_CFG_CPIN n) s) true s else s
  if !tmrRuns n s || clk == 1 then s
  else if clk == 3 && decide (gap < 4) then tmrRefused n s
  else if flag (TMR_CFG_GATE n) s && gate != flag (TMR_CFG_GLVL n) s then s
  else tmrSource n s

/-- A count edge at or above PER (R547). -/
def timerReloadOp (n : Nat) (s : State) : State :=
  if tmrRuns n s && decide (rd (TMR_PER n) s ≤ rd (TMR_CNT n) s) then tmrEdge n s else s

/-- A count edge that moves the counter to the compare value in force for it (R554). -/
def timerMatchOp (n : Nat) (s : State) : State :=
  let t := tmrEdge n s
  if tmrRuns n s && decide (rd (TMR_CNT n) t = rd (TMR_CMP n) t) then t else s

/-- A capture (R551): the counter is copied, NEW is set, and OVR where NEW stood. -/
def tmrCapture (n : Nat) (s : State) : State :=
  let s := if flag (TMR_CAPSTAT_NEW n) s then setF (TMR_CAPSTAT_OVR n) 1 s else s
  s |> wr (TMR_CAP n) (rd (TMR_CNT n) s) |> setF (TMR_CAPSTAT_NEW n) 1

/-- An accepted level change of the capture pin (R551, R552); `gap` as in `countEdgeOp`. The frame tick's capture is the
tick's own. -/
def timerCaptureOp (n : Nat) (rising : Bool) (gap : Nat) (s : State) : State :=
  let pin := fld (TMR_CFG_IPIN n) s
  let edge := fld (TMR_CFG_EDGE n) s
  let s := tioLvl pin rising s
  if !tmrRuns n s || !flag (TMR_CFG_CAPEN n) s then s
  else
    let s := if rising != flag (TMR_CFG_ACT n) s then setF (TMR_CAPSTAT_STUCK n) 0 s else s
    if !(edge == 3 || edge == (if rising then 1 else 2)) || flag (TMR_CAPSTAT_STUCK n) s then s
    else if gap < 4 then tmrRefused n s
    else tmrCapture n s

/-- A capture pin held at ACT for the stuck time (R552), so that its level is ACT. -/
def tioStuckOp (n : Nat) (s : State) : State :=
  if tmrRuns n s && flag (TMR_CFG_CAPEN n) s && fld (TMR_CFG_STUCK n) s != 0 && !flag (TMR_CAPSTAT_STUCK n) s then
    s |> tioLvl (fld (TMR_CFG_IPIN n) s) (flag (TMR_CFG_ACT n) s) |> setF (TMR_CAPSTAT_STUCK n) 1
      |> setF (TMR_CAPSTAT_STUCKEVT n) 1 |> raise' srcStuckIn 1 none 0
  else s

/-- A write to TMR_CNTn loads the counter and clears the accumulator (R546, R550). -/
def tmrLoad (n v : Nat) (s : State) : State := s |> wr (TMR_CNT n) v |> tmrAcc0 n

/-- A write to TMR_CMPn: live, or to the staged shadow (R554, R555). -/
def tmrCmpWrite (n : Nat) (v : Word) (s : State) : State :=
  if flag (TMR_CFG_STAGE n) s && flag (TMR_CFG_EN n) s then
    s |> modTmr n (fun c => { c with stage := some v }) |> setF (TMR_CAPSTAT_SPEND n) 1
  else parWrite (TMR_CMP n) 0xFFFFFFFF (wr (TMR_CMP n) v.toNat s)

/-- A write of TMR_PREn: a divider below 1.0 is clamped (R546). -/
def tmrPreWrite (n v : Nat) (s : State) : State := parWrite (TMR_PRE n) 0xFFFFFF (wr (TMR_PRE n) (max 256 (v % 2 ^ 24)) s)

/-- A write of TMR_PERn (R547). -/
def tmrPerWrite (n v : Nat) (s : State) : State := parWrite (TMR_PER n) 0xFFFFFFFF (wr (TMR_PER n) v s)

/-- Does a lower-numbered channel with OE drive the same pin (R556)? -/
def tmrShadowed (n : Nat) (s : State) : Bool :=
  (List.range n).any (fun k => flag (TMR_CFG_OE k) s && fld (TMR_CFG_OPIN k) s == fld (TMR_CFG_OPIN n) s)

/-- A write of TMR_CFGn (R546, R555, R556): EN rising clears the accumulator, EN clear puts a staged value in force, OE rising
starts the output low, and two outputs on one pin set OUTREF. Bits [2:0] are reserved (R566). -/
def tmrCfgWrite (n v : Nat) (s : State) : State :=
  let en := flag (TMR_CFG_EN n) s
  let oe := flag (TMR_CFG_OE n) s
  let s := parWrite (TMR_CFG n) 0xFFFFFFF8 (wr (TMR_CFG n) (v / 8 % 2 ^ 29 * 8) s)
  let s := if !en && flag (TMR_CFG_EN n) s then tmrAcc0 n s else s
  let s := if flag (TMR_CFG_EN n) s then s else tmrUnstage n s
  let s := if !oe && flag (TMR_CFG_OE n) s then setF (TMR_CAPSTAT_OUTLVL n) 0 s else s
  if (List.range 8).any (fun k => flag (TMR_CFG_OE k) s && tmrShadowed k s) then setF TMR_STAT_OUTREF 1 s else s

/-- An engine load that includes the low byte of TMR_CAPn (R551). -/
def timerCaptureReadOp (n : Nat) (s : State) : State := setF (TMR_CAPSTAT_NEW n) 0 s

/-- A stagger load (R557). -/
def staggerOp (mask : Nat) (s : State) : State :=
  let ms := (List.range 8).filter (fun k => bitOf mask k)
  let m := ms.length
  let f := ms.headD 0
  let same k := fld (TMR_CFG_CLK k) s == fld (TMR_CFG_CLK f) s && fld (TMR_CFG_CPIN k) s == fld (TMR_CFG_CPIN f) s
    && fld (TMR_PRE_DIV k) s == fld (TMR_PRE_DIV f) s && rd (TMR_PER k) s == rd (TMR_PER f) s
  let s := setF TMR_STAG_MASK mask s
  if m < 2 || !ms.all same then setF TMR_STAT_STAGREF 1 s
  else
    (List.range m).foldl (fun s j => tmrLoad (ms.getD j 0) (j * (rd (TMR_PER f) s + 1) / m) s) s

/-- The channel that drives TIO pin `k` (R556, R558); none before the first frame and in ship mode (R68). -/
def tioDriver (k : Nat) (s : State) : Option Nat :=
  if fencedU uTmr s || s.sup.power != .on then none
  else (List.range 8).find? (fun n => flag (TMR_CFG_OE n) s && fld (TMR_CFG_OPIN n) s == k)

/-- The level of TIO pin `k`: a driven pin reads as driven (R556, R566). -/
def tioLevel (k : Nat) (s : State) : Bool :=
  match tioDriver k s with
  | some n => flag (TMR_CAPSTAT_OUTLVL n) s
  | none => flag ⟨TMR_TIO, k, k⟩ s

/-- The level at which TIO pin `k` stands at a tick, without the filter (R548): a driven pin's own, else what bit 4 + k of `o`
gives. -/
def tioRaw (o : BitVec 8) (k : Nat) (s : State) : Bool :=
  match tioDriver k s with
  | some n => flag (TMR_CAPSTAT_OUTLVL n) s
  | none => bitOf o.toNat (4 + k)

/-- What the frame tick does in the array (R545, R549, R551): a frame reset discards the tick's own count edge, a channel clocked
by the tick counts where its gate is open, and a channel that captures at the tick copies its counter. Bits [3:0] of `o` are the
filtered levels of the pins at the tick, as TMR_TIO shows those that nothing drives (R566), and bits [7:4] the unfiltered ones,
which gates see. -/
def tmrTick (o : BitVec 8) (s : State) : State :=
  forN 8 (fun n s =>
    if !tmrRuns n s then s
    else
      let s :=
        if flag (TMR_CFG_RSTF n) s then s |> tmrReload n |> tmrAcc0 n
        else if fld (TMR_CFG_CLK n) s = 1 then
          if flag (TMR_CFG_GATE n) s && tioRaw o (fld (TMR_CFG_GSRC n) s) s != flag (TMR_CFG_GLVL n) s
          then s else tmrSource n s
        else s
      if flag (TMR_CFG_CAPEN n) s && fld (TMR_CFG_EDGE n) s == 0 then tmrCapture n s else s)
    (forN 4 (fun k s => tioLvl k (bitOf o.toNat k) s) s)

/-- The bits of TMR_TIO: each driven pin reads as driven (R556, R566). -/
def tioRead (s : State) : Nat :=
  (List.range 4).foldl (fun v k =>
    putBit (putBit v (4 + k) (tioDriver k s).isSome) k (tioLevel k s)) 0

/-- RUN of TMR_STAT: channels enabled and not fenced. -/
def tmrRun (s : State) : Nat := (List.range 8).foldl (fun v k => putBit v k (tmrRuns k s)) 0

/-! ## Scan engine (R562, R563) -/

/-- Feed a range of a bank line by line: the bytes, or the line that stopped the scan. -/
def scanBank (b : Bool) (a n : Nat) (s : State) : (Nat ⊕ List Byte) × State :=
  let l0 := a / 64
  let ls := (List.range ((a + n + 63) / 64 - l0)).map (fun i => l0 + i)
  let (bad, s) := ls.foldl (fun (acc : Option Nat × State) l =>
    match acc.1 with
    | some _ => acc
    | none =>
      let (ok, s) := psReadLine none false b l acc.2
      (if ok then none else some l, s)) (none, s)
  match bad with
  | some l => (.inl (64 * l), s)
  | none => (.inr (psBytes b a n s), s)

/-- The prefix record at `p` (R562): its bytes, or the DETAIL and RESULT0 that end the scan. The bytes of a record that runs
past shared RAM are open. -/
def scanPrefix (p : Nat) (s : State) : ((Nat × Nat) ⊕ List Byte) × State :=
  if p = 0 then (.inr [], s)
  else
    match ramRead none p 1 s with
    | (.inl w, s) => (.inl (2, w), s)
    | (.inr h, s) =>
      let n := (h.headD 0).toNat
      match ramRead none (p + 1) 1 s with
      | (.inl w, s) => (.inl (2, w), s)
      | (.inr z, s) =>
        if n = 0 || 16 < n || z.headD 0 != 0 then (.inl (3, 0), s)
        else if !inRam (p + 2) n then
          (.inr (freeBytes n s), { s with seed := s.seed + n })
        else
          match ramRead none (p + 2) n s with
          | (.inl w, s) => (.inl (2, w), s)
          | (.inr bs, s) => (.inr bs, s)

/-- The end of a scan: the counts, the events and the completion (R563, R567). -/
def scanEnd (tag detail res pos : Nat) (s : State) : State :=
  let s := s |> setF CRC_STAT_DONEEVT 1 |> incWrap CRC_CNT_JOBS |> wr SCAN_LAST res |> wr SCAN_POS (pos % 65536)
    |> wr SCAN_TAG tag |> setF CRC_STAT_SBUSY 0
  let s := if detail = 0 then s else s |> setF CRC_STAT_STOPEVT 1 |> incSat CRC_CNT_STOPS
  complete tag 0 detail res s

/-- A CRC-SCAN at the scan engine (R562, R563). -/
def crcScanOp (s : State) : State :=
  match unitOp 4 s with
  | none => s
  | some t =>
    let sp := entB t.ent 8 % 4
    let store := bitOf (entB t.ent 8) 7
    let start := entH t.ent 10
    let len := if entH t.ent 12 = 0 then 65536 else entH t.ent 12
    match scanPrefix (entH t.ent 14) s with
    | (.inl (d, r), s) => scanEnd t.tag d r start s
    | (.inr pre, s) =>
      let (r, s) := if sp = 0 then ramRead none start len s else scanBank (sp == 2) start len s
      match r with
      | .inl x => scanEnd t.tag (if sp = 0 then 2 else 1) x x s
      | .inr bs =>
        let c := (crc32c (pre ++ bs)).toNat
        if store then
          match ramCheckStore start len s with
          | some w => scanEnd t.tag 2 w (start + len) (opStore t (start + len) (leBytes 4 c) s)
          | none => scanEnd t.tag 0 c (start + len) (opStore t (start + len) (leBytes 4 c) s)
        else scanEnd t.tag 0 c (start + len) s
where
  /-- The first word of the stored CRC that is only partly covered and uncorrectable (R583). -/
  ramCheckStore (start len : Nat) (s : State) : Option Nat :=
    let a := start + len
    if a % 4 = 0 then none
    else if 2 ≤ ramErrAt (a / 4 * 4) s then some (a / 4 * 4)
    else if 2 ≤ ramErrAt (a / 4 * 4 + 4) s then some (a / 4 * 4 + 4) else none

end Sys2Proof.Machine
end

