-- ==== Sys2Proof/Machine/TcpOps.lean ====
section
/-!
DEFINITION. The USB Type-C sink port (R220-R243): attach and detach, the Rp level, received messages, commands, the timers,
the resets and the fixed policy. Data objects are read as USB Power Delivery lays them out (PRESUMED: the manual names the
objects and not their bits).
-/

namespace Sys2Proof.Machine

open Sys2Proof

/-- The port's own data changed. -/
def modTcp (f : Tcp → Tcp) (s : State) : State := { s with tcp := f s.tcp }

/-- May the port send (R229, R241)? -/
def tcpSends (s : State) : Bool := !fencedU uTcp s && !s.tcp.stopped

/-! ## Data objects -/

/-- A PDO's deal bounds: AVS, lowest and highest voltage in 10 mV, and its greatest current in 10 mA at voltage `v`; none for
a kind that R220 does not request. -/
def pdoOf (w : Word) (v : Nat) : Option (Bool × Nat × Nat × Nat) :=
  let n := w.toNat
  match bitsOf n 31 30 with
  | 0 =>
    let u := bitsOf n 19 10 * 5
    if 500 ≤ u ∧ u ≤ 2000 then some (false, u, u, bitsOf n 9 0) else none
  | 3 =>
    if bitsOf n 29 28 = 1 then
      some (true, max 1500 (bitsOf n 15 8 * 10), min 4800 (bitsOf n 25 17 * 10), if v = 0 then 0 else bitsOf n 7 0 * 10000 / v)
    else none
  | _ => none

/-- The capabilities mark the source EPR-capable (R235). -/
def capsEprOk (s : State) : Bool := bitOf (s.tcp.caps.headD 0).toNat 23

/-- Object position of a request data object. -/
def rdoPos (r : Word) : Nat := bitsOf r.toNat 31 28
/-- The object a request data object names. -/
def rdoPdo (r : Word) (s : State) : Option Word := if rdoPos r = 0 then none else s.tcp.caps[rdoPos r - 1]?

/-- The deal a request data object asks for. An AVS voltage in steps of 25 mV is rounded down to the 10 mV of TCP_CONTRACT.V, in the
checks too (the model's choice, log entry 192). -/
def rdoDeal (r : Word) (s : State) : Option TcpDeal :=
  match rdoPdo r s with
  | none => none
  | some w =>
    if bitsOf w.toNat 31 30 = 3 then
      some ⟨true, rdoPos r, bitsOf r.toNat 6 0 * 5, bitsOf r.toNat 20 9 * 25 / 10⟩
    else some ⟨false, rdoPos r, bitsOf r.toNat 19 10, bitsOf w.toNat 19 10 * 5⟩

/-- The deal that a Request asks for. -/
def TcpMsg.deal (m : TcpMsg) (s : State) : Option TcpDeal :=
  match m with
  | .request r | .eprRequest r _ => rdoDeal r s
  | _ => none

/-- The check of R231 on a request. EPR_Request (`epr`) may name any PDO of the supported kinds, and Request none that is AVS (the model's
choice, log entry 208). -/
def rdoOk (r : Word) (epr : Bool) (s : State) : Bool :=
  match rdoPdo r s, rdoDeal r s with
  | some w, some d =>
    match pdoOf w d.v with
    | some (avs, lo, hi, imax) =>
      (epr || !avs) && decide (d.i ≤ imax) && decide (lo ≤ d.v) && decide (d.v ≤ hi) && decide (d.v * 10 ≤ vhbceil s)
        && decide (d.v ≤ bitsOf (winOf 3 s) 28 16)
    | none => false
  | _, _ => false

/-! ## Sending -/

/-- The result of HSQ's command (R243), where `c` says the message is its; `fin` ends it. -/
def tcpRes (c : Bool) (code : Nat) (fin : Bool) (s : State) : State :=
  if c && flag TCP_STAT_BUSY s then
    let s := setF TCP_TXRES_RES code s
    if fin then setF TCP_STAT_BUSY 0 s else s
  else s

/-- TCP_ERR. -/
def tcpErr (s : State) : State := s |> setF TCP_STAT_ERREVT 1 |> raise' srcTcpErr 2 (some uTcp) 0

/-- A soft reset, sent or received (R239). The wait for the reply to a Request that is out goes on (DESIGN CHOICE, log entry 162). -/
def tcpSoft (s : State) : State :=
  s |> setF TCP_STAT_SRSTEVT 1 |> incSat TCP_CNT_SRST |> modTcp (fun c => { c with txId := 0, rxId := none, waitCap := true })

/-- Is the message a Request? -/
def TcpMsg.isRequest : TcpMsg → Bool
  | .request _ | .eprRequest _ _ => true
  | _ => false

/-- EPR ends (R236): no EPR_KeepAlive is sent or awaited any more, for that is done while EPR is set (R237). -/
def eprEnd (s : State) : State :=
  s |> setF TCP_STAT_EPR 0 |> modTcp (fun c => { c with
    eprWait := false, kaWait := false
    txq := c.txq.filter (fun x => x.1 != .keepAlive)
    held := c.held.filter (fun x => x.1 != .keepAlive) })

/-- A message leaves (R227): a Request ends the wait for it, Soft_Reset and EPR_Mode (Exit) take effect, and Not_Supported counts
(R228, R236, R239). -/
def tcpPut (m : TcpMsg) (cmd : Bool) (s : State) : State :=
  let s := modTcp (fun c => { c with
    tx := some (m, 0), txCmd := cmd, wait := if m.isRequest && c.wait == .request then .none else c.wait }) s
  match m with
  | .softReset => tcpSoft s
  | .eprExit => eprEnd s
  | .notSupported => incSat TCP_CNT_NS s
  | _ => s

/-- A message is sent: after the one in flight and those that wait behind it. -/
def tcpSend (m : TcpMsg) (cmd : Bool) (s : State) : State :=
  if !tcpSends s then s
  else if s.tcp.tx.isSome then modTcp (fun c => { c with txq := c.txq ++ [(m, cmd)] }) s
  else tcpPut m cmd s

/-- Is a sink-initiated sequence held now (R224)? -/
def tcpHolds (s : State) : Bool := flag TCP_STAT_CONTRACT s && fld TCP_STAT_RPLVL s != 3

/-- Is a message held now: one that begins a sequence of the sink's? The answer to received capabilities, and any other reply, is not
(R224). -/
def tcpKept (m : TcpMsg) (s : State) : Bool :=
  tcpHolds s && (match m with
    | .accept | .notSupported => false
    | .request _ | .eprRequest _ _ => s.tcp.wait != .request
    | _ => true)

/-- S3 carries and the deal asks for a lower voltage than the contract's (R234). -/
def lowersS3 (d : TcpDeal) (s : State) : Bool :=
  cport s == some 3 && decide (d.v < fld TCP_CONTRACT_V s)

/-- A planned release of S3 would leave HBUS unfed. -/
def wouldUnfeed (s : State) : Bool := !rsv s && (chosen s).isNone

/-- Must the planned release that a deal needs be refused (R234)? -/
def lowerRefused (s : State) : Bool := wouldUnfeed s && !flag TCP_CTL_UNFED s

/-- A Request waits for the planned release of S3 that its deal needs (R234). -/
def tcpDefer (m : TcpMsg) (cmd : Bool) (s : State) : State :=
  plannedRelease 3 false (modTcp (fun c => { c with defer := some (m, cmd) }) s)

/-- The next message that waits leaves once none is in flight. One that is to be held now is held (R224), and a Request whose deal has
come to lower the voltage of a carrying S3 meanwhile waits for its release, or is refused (R234). -/
def tcpNextN : Nat → State → State
  | 0, s => s
  | fuel + 1, s =>
    if s.tcp.tx.isSome || !tcpSends s then s
    else
      match s.tcp.txq with
      | [] => s
      | (m, c) :: t =>
        let s := modTcp (fun x => { x with txq := t }) s
        if tcpKept m s then tcpNextN fuel (modTcp (fun x => { x with held := x.held ++ [(m, c)] }) s)
        else if (m.deal s).any (fun d => lowersS3 d s) then
          (if lowerRefused s then tcpNextN fuel (tcpRes c 5 true s)
          else tcpNextN fuel (tcpDefer m c s))
        else tcpPut m c s

/-- `tcpNextN` over all that waits. -/
def tcpNext (s : State) : State := tcpNextN (s.tcp.txq.length + 1) s

/-- A sink-initiated message: held or sent (R224). -/
def tcpSeq (m : TcpMsg) (cmd : Bool) (s : State) : State :=
  if !tcpSends s then s
  else if tcpHolds s then modTcp (fun c => { c with held := c.held ++ [(m, cmd)] }) s
  else tcpSend m cmd s

/-- Nothing is sent, held or awaited any more. -/
def tcpDrop (s : State) : State :=
  modTcp (fun c => { c with
    tx := none, txCmd := false, txq := [], held := [], defer := none, asked := none, trans := none, wait := .none, enterWait := false
    kaWait := false, eprWait := false }) s

/-- Contract, EPR state and MessageIDs cleared (R222, R240). -/
def tcpClear (s : State) : State :=
  s |> wr TCP_CONTRACT 0 |> setF TCP_STAT_CONTRACT 0 |> setF TCP_STAT_EPR 0 |> setF TCP_STAT_PSTRANS 0 |> tcpDrop
    |> modTcp (fun c => { c with txId := 0, rxId := none })

/-- A hard reset, sent or received (R240): S3's type is 0x0 at once, and Source_Capabilities are awaited (R229). -/
def tcpHardReset (s : State) : State :=
  s |> setF TCP_STAT_HRSTEVT 1 |> incSat TCP_CNT_HRST |> tcpRes true 4 true |> tcpClear
    |> modTcp (fun c => { c with hrOff := true, hrGone := false, waitCap := true }) |> typeZero 3

/-- A hard reset the hardware sends. -/
def tcpSendHard (s : State) : State := if tcpSends s then tcpHardReset s else s

/-- The hardware sends Soft_Reset, held as any sequence it begins (R224, R230). -/
def tcpSendSoft (s : State) : State := tcpSeq .softReset false s

/-! ## Requests (R231, R234) -/

/-- A request that passed its check: sent at once, or after a planned release of S3; true when it was refused (R234). -/
def tcpAsk (m : TcpMsg) (d : TcpDeal) (cmd : Bool) (s : State) : Bool × State :=
  if lowersS3 d s then
    if lowerRefused s then (true, s) else (false, tcpDefer m cmd s)
  else (false, tcpSend m cmd s)

/-! ## The fixed policy (R242) -/

/-- Is the fixed policy in force? -/
def tcpFixed (s : State) : Bool := inFawn s || s.sup.boot || engDown .hsq s || flag TCP_AUTO_EN s

/-- The SPR fixed object (position from 1, voltage in 10 mV, current in 10 mA) that R242 requests. -/
def fixedChoice (s : State) : Option (Nat × Nat × Nat) :=
  let l := (List.range 7).filterMap (fun i =>
    match s.tcp.caps[i]? with
    | some w =>
      match pdoOf w 0 with
      | some (false, v, _, a) => some (i + 1, v, a)
      | _ => none
    | none => none)
  let ok := l.filter (fun x => decide (bitsOf (winOf 3 s) 12 0 ≤ x.2.1) && decide (x.2.1 ≤ bitsOf (winOf 3 s) 28 16)
    && decide (x.2.1 ≤ fld TCP_AUTO_VMAX s * 10) && decide (x.2.1 * 10 ≤ vhbceil s))
  match ok.foldl (fun (b : Option (Nat × Nat × Nat)) x =>
      match b with
      | some y => if y.2.1 < x.2.1 then some x else b
      | none => some x) none with
  | some x => some x
  | none => l.find? (fun x => x.2.1 == 500)

/-- A fixed-supply request data object: position, operating and maximum current. -/
def fixedRdo (pos i : Nat) : Word := BitVec.ofNat 32 (pos * 2 ^ 28 + i * 1024 + i)

/-- The answer of the fixed policy. -/
def fixedAnswer (s : State) : State :=
  match fixedChoice s with
  | none => s
  | some (p, v, i) =>
    let r := fixedRdo p i
    let m := if flag TCP_STAT_EPR s then TcpMsg.eprRequest r (s.tcp.caps.getD (p - 1) 0) else .request r
    (tcpAsk m ⟨false, p, i, v⟩ false s).2

/-! ## Received messages (R228) -/

/-- Is a message received by a port that is attached, not fenced and still in the protocol? One that has stopped sending (R229) ignores
what it receives too: the rule stops its sending only (the model's choice, log entry 193). -/
def tcpHears (s : State) : Bool := flag TCP_STAT_ATT s && tcpSends s

/-- A message with MessageID `id` is received (R227): GoodCRC answers it, and a repeat is discarded. -/
def tcpHear (id : Nat) (f : State → State) (s : State) : State :=
  if !tcpHears s then s
  else
    let s := modTcp (fun c => { c with ack := some id }) s
    if s.tcp.rxId = some id then s else f (modTcp (fun c => { c with rxId := some id }) s)

/-- MessageID of a header. -/
def hdrId (hdr : BitVec 16) : Nat := bitsOf hdr.toNat 11 9

/-- A message for HSQ stands in TCP_RXBUF (R228). -/
def tcpDeliver (hdr : BitVec 16) (objs : List Word) (s : State) : State :=
  let s := if flag TCP_RXSTAT_RDY s then setF TCP_RXSTAT_OVW 1 s else s
  let h := hdr.toNat
  let bytes := leBytes 2 h ++ objs.flatMap (fun w => leBytes 4 w.toNat)
  let s := forN 16 (fun k s => wr (TCP_RXBUF k) (leNat ((bytes.drop (4 * k)).take 4)) s) s
  s |> setF TCP_RXSTAT_RDY 1 |> setF TCP_RXSTAT_LEN (min 64 bytes.length)
    |> setF TCP_RXSTAT_TYPE (bitsOf h 4 0 + if bitOf h 15 then 32 else 0)

/-- A Request that has been sent and not answered is abandoned (R241). -/
def tcpAbandon (s : State) : State :=
  let flying := s.tcp.tx.any (fun x => x.1.isRequest)
  if s.tcp.wait == .reply || flying then
    modTcp (fun c => { c with tx := if flying then none else c.tx, asked := none })
      (tcpRes ((flying && s.tcp.txCmd) || s.tcp.asked.any (fun a => a.2)) 4 true s)
  else s

/-- SOURCE_CAPABILITIES_RX (R228, R229, R241, R242). -/
def sourceCapsOp (epr : Bool) (hdr : BitVec 16) (objs : List Word) (s : State) : State :=
  tcpHear (hdrId hdr) (fun s =>
    let objs := objs.take 11
    let s := modTcp (fun c => { c with caps := objs, capsEpr := epr, waitCap := false, hrCnt := 0, wait := .request }) (tcpAbandon s)
    let s := tcpDeliver hdr objs s
    tcpNext (if tcpFixed s then fixedAnswer s else s)) s

/-- ACCEPT_RX (R228, R233). -/
def acceptOp (id : Nat) (s : State) : State :=
  tcpHear id (fun s =>
    if s.tcp.wait == .reply then
      s |> modTcp (fun c => { c with wait := .none, trans := c.asked, asked := none }) |> setF TCP_STAT_PSTRANS 1
        |> tcpRes (s.tcp.asked.any (fun a => a.2)) 7 false
    else s) s

/-- REJECT_RX and WAIT_RX (R228). -/
def declineOp (code id : Nat) (s : State) : State :=
  tcpHear id (fun s =>
    if s.tcp.wait == .reply then
      s |> tcpRes (s.tcp.asked.any (fun a => a.2)) code true |> modTcp (fun c => { c with wait := .none, asked := none })
    else s) s

/-- PS_RDY_RX (R232). -/
def psRdyOp (id : Nat) (s : State) : State :=
  tcpHear id (fun s =>
    match flag TCP_STAT_PSTRANS s, s.tcp.trans with
    | true, some (d, cmd) =>
      s |> setB TCP_CONTRACT_AVS d.avs |> setF TCP_CONTRACT_POS d.pos |> setF TCP_CONTRACT_I d.i |> setF TCP_CONTRACT_V d.v
        |> setF TCP_STAT_CONTRACT 1 |> setF TCP_STAT_PSTRANS 0 |> tcpRes cmd 0xA true
        |> modTcp (fun c => { c with trans := none })
    | _, _ => s) s

/-- EPR_MODE_RX (R228, R236). -/
def eprModeRxOp (act : EprAct) (hdr : BitVec 16) (objs : List Word) (s : State) : State :=
  tcpHear (hdrId hdr) (fun s =>
    let s := tcpDeliver hdr objs s
    match act with
    | .enterAck =>
      if s.tcp.enterWait then
        s |> modTcp (fun c => { c with enterWait := false, eprWait := true }) |> tcpRes true 2 true
      else s
    | .enterSucceeded =>
      if s.tcp.eprWait then s |> modTcp (fun c => { c with eprWait := false }) |> setF TCP_STAT_EPR 1 else s
    | .enterFailed =>
      let s := modTcp (fun c => { c with eprWait := false }) s
      if s.tcp.enterWait then s |> modTcp (fun c => { c with enterWait := false }) |> tcpRes true 2 true else s
    | .exit => eprEnd s) s

/-- SOFT_RESET_RX (R228, R239). It clears the MessageIDs before its own counts as received, so it is never a repeat (PRESUMED: USB
Power Delivery, log entry 115). -/
def softResetRxOp (hdr : BitVec 16) (s : State) : State :=
  if tcpHears s then
    s |> tcpSoft |> modTcp (fun c => { c with ack := some (hdrId hdr), rxId := some (hdrId hdr) }) |> tcpSend .accept false
      |> tcpDeliver hdr []
  else s

/-- HARD_RESET_RX (R240): its signalling reaches a fenced port too (R241). -/
def hardResetRxOp (s : State) : State := if flag TCP_STAT_ATT s then tcpHardReset s else s

/-- EPR_KEEPALIVE_ACK_RX (R237). -/
def keepAliveAckOp (id : Nat) (s : State) : State := tcpHear id (modTcp (fun c => { c with kaWait := false })) s

/-- UNSUPPORTED_MESSAGE_RX (R228). -/
def unsupportedOp (id : Nat) (s : State) : State := tcpHear id (tcpSend .notSupported false) s

/-- PING_RX (R228): no reply but GoodCRC. -/
def pingOp (id : Nat) (s : State) : State := tcpHear id (fun s => s) s

/-! ## Attach, detach and Rp (R221-R226) -/

/-- TYPEC_ATTACH (R221, R229). -/
def attachOp (cc2 : Bool) (s : State) : State :=
  if flag TCP_STAT_ATT s then s
  else s |> setF TCP_STAT_ATT 1 |> setB TCP_STAT_POL cc2
    |> modTcp (fun c => { c with waitCap := true, hrCnt := 0, stopped := false, hrOff := false, hrGone := false, rpCnt := 0 })

/-- TYPEC_DETACH (R222): by VBUS, or by CC where no contract is in force. RPLVL keeps the level last accepted, through a new
attach too, until 10 reads of that give another (DESIGN CHOICE, log entry 160). -/
def detachOp (vbus : Bool) (s : State) : State :=
  if !flag TCP_STAT_ATT s || (!vbus && flag TCP_STAT_CONTRACT s) then s
  else s |> setF TCP_STAT_ATT 0 |> tcpRes true 3 true |> tcpClear
    |> modTcp (fun c => { c with waitCap := false, hrCnt := 0, stopped := false, hrOff := false, hrGone := false, caps := [] })

/-- The Rp band of a CC voltage in mV (R223). The table puts 0.66 V into two bands: it reads 0b01 (DESIGN CHOICE, log entry 159). -/
def rpBand (mv : Nat) : Nat := if mv < 200 then 0 else if mv ≤ 660 then 1 else if mv ≤ 1230 then 2 else 3

/-- A held message leaves (R224): a Request is checked again, for the capabilities may have changed (R231). -/
def tcpResume (m : TcpMsg) (cmd : Bool) (s : State) : State :=
  let ask := fun (r : Word) (epr : Bool) =>
    match rdoDeal r s with
    | some d =>
      if rdoOk r epr s then (let (no, t) := tcpAsk m d cmd s; if no then tcpRes cmd 5 true s else t) else tcpRes cmd 6 true s
    | none => tcpRes cmd 6 true s
  match m with
  | .request r => ask r false
  | .eprRequest r _ => ask r true
  | _ => tcpSend m cmd s

/-- What is held leaves when RPLVL reads 0b11 (R224). -/
def tcpUnhold (s : State) : State :=
  if fld TCP_STAT_RPLVL s = 3 then
    s.tcp.held.foldl (fun s x => tcpResume x.1 x.2 s) (modTcp (fun c => { c with held := [] }) s)
  else s

/-- RP_LEVEL_READ (R223, R224). Under an explicit contract the manual gives RPLVL no filter: the one of 10 reads holds then too (the model's
choice, log entry 194). -/
def rpReadOp (mv : Nat) (s : State) : State :=
  if !flag TCP_STAT_ATT s then s
  else
    let b := rpBand mv
    let n := if b = s.tcp.rpCand then min 10 (s.tcp.rpCnt + 1) else 1
    let s := modTcp (fun c => { c with rpCand := b, rpCnt := n }) s
    if n = 10 then tcpUnhold (setF TCP_STAT_RPLVL b s) else s

/-! ## Timers (R227-R237) -/

/-- SINK_WAIT_CAP_TIMER (R229). After the second Hard_Reset the port waits for no VBUS cycle of a source that ignored it: its type
is 0xC until detach. -/
def sinkWaitOp (s : State) : State :=
  if !s.tcp.waitCap || !tcpHears s then s
  else if s.tcp.hrCnt < 2 then s |> tcpSendHard |> modTcp (fun c => { c with hrCnt := c.hrCnt + 1 })
  else s |> tcpErr |> modTcp (fun c => { c with waitCap := false, stopped := true, hrOff := false, hrGone := false })

/-- A message failed after its retries (R230). -/
def tcpFailed (m : TcpMsg) (s : State) : State :=
  let s := tcpRes s.tcp.txCmd 3 true (tcpErr s)
  let s := modTcp (fun c => { c with tx := none, txCmd := false }) s
  match m with
  | .softReset => tcpSendHard s
  | _ => tcpNext (tcpSendSoft s)

/-- RETRANSMISSION_TIMER (R227, R230). -/
def retransmitOp (s : State) : State :=
  match s.tcp.tx with
  | none => s
  | some (m, n) =>
    if !tcpSends s then s
    else if n < 2 then s |> modTcp (fun c => { c with tx := some (m, n + 1) }) |> incSat TCP_CNT_RETRY
    else tcpFailed m s

/-- SENDER_RESPONSE_TIMER (R228, R230, R237): Hard_Reset, with TCP_ERR where a reply or EPR_KeepAlive_Ack was awaited. -/
def senderResponseOp (s : State) : State :=
  let c := s.tcp
  let err := c.wait == .reply || c.enterWait || c.kaWait
  if (c.wait == .none && !err) || !tcpHears s then s else tcpSendHard (if err then tcpErr s else s)

/-- PS_TRANSITION_TIMER (R230). -/
def psTransitionOp (s : State) : State :=
  if flag TCP_STAT_PSTRANS s && tcpHears s then s |> tcpErr |> tcpSendHard else s

/-- Is EPR_KeepAlive on its way already? -/
def kaPending (s : State) : Bool :=
  s.tcp.tx.any (fun x => x.1 == .keepAlive) || s.tcp.txq.any (fun x => x.1 == .keepAlive) || s.tcp.held.any (fun x => x.1 == .keepAlive)

/-- EPR_KEEPALIVE_TIMER (R237), held as R224 says; its Ack is awaited once it has been sent. -/
def keepAliveOp (s : State) : State :=
  if flag TCP_STAT_EPR s && tcpHears s && !kaPending s then tcpSeq .keepAlive false s else s

/-- EPR_ENTRY_TIMEOUT (R236). -/
def eprTimeoutOp (s : State) : State := modTcp (fun c => { c with eprWait := false }) s

/-- GOODCRC_RECEIVED (R227): the message is acknowledged; a command reads sent, and one that has no reply ends; the next message
leaves. A Request that the source has awaits its answer with the deal it asks for. -/
def goodCrcOp (s : State) : State :=
  match s.tcp.tx with
  | none => s
  | some (m, _) =>
    let cmd := s.tcp.txCmd
    let s := modTcp (fun c => { c with tx := none, txCmd := false, txId := (c.txId + 1) % 8 }) s
    tcpNext (match m with
      | .request _ | .eprRequest _ _ =>
        s |> modTcp (fun c => { c with wait := .reply, asked := (m.deal s).map (fun d => (d, cmd)) }) |> tcpRes cmd 2 false
      | .eprEnter _ => s |> modTcp (fun c => { c with enterWait := true }) |> tcpRes cmd 2 false
      | .getSourceCap | .eprExit | .softReset => tcpRes cmd 2 true s
      | .keepAlive => modTcp (fun c => { c with kaWait := flag TCP_STAT_EPR s }) s
      | _ => s)

/-! ## Commands (R224, R231-R240) -/

/-- A command is accepted: BUSY and the result 0x01. -/
def tcpStart (s : State) : State := s |> setF TCP_STAT_BUSY 1 |> setF TCP_TXRES_RES 1

/-- A refused command (R231, R234, R235). -/
def tcpRefuse (code : Nat) (s : State) : State := setF TCP_TXRES_RES code s

/-- A command may be taken: none is pending and the port sends (R241). One written while the port is fenced, or after it has stopped
sending (R229), is dropped: TCP_TXRES keeps its code and BUSY reads 0 (DESIGN CHOICE, log entry 161). -/
def tcpFree (s : State) : Bool := !flag TCP_STAT_BUSY s && tcpSends s

/-- A sink-initiated message of HSQ: held or sent. -/
def tcpCommand (m : TcpMsg) (s : State) : State := tcpSeq m true (tcpStart s)

/-- The object in TCP_TXBUF. -/
def txObj (s : State) : Word := BitVec.ofNat 32 (rd (TCP_TXBUF 0) s)

/-- PD_REQUEST (`epr` false) and EPR_REQUEST (R231, R234): the answer to received capabilities is never held (R224). -/
def requestOp (epr : Bool) (s : State) : State :=
  let s := setF TCP_TXCMD_CMD (if epr then 2 else 1) s
  if flag TCP_STAT_BUSY s then s
  else
    let r := txObj s
    match rdoDeal r s with
    | none => tcpRefuse 6 s
    | some d =>
      if !rdoOk r epr s then tcpRefuse 6 s
      else if !tcpFree s then s
      else
        let m := if epr then TcpMsg.eprRequest r ((rdoPdo r s).getD 0) else .request r
        if tcpKept m s then
          modTcp (fun c => { c with held := c.held ++ [(m, true)] }) (tcpStart s)
        else
          let (no, t) := tcpAsk m d true (tcpStart s)
          if no then tcpRefuse 5 s else t

/-- PD_REQUEST_AFTER_RELEASE (R234), held as any sequence of the sink's (R224). Capabilities that have come meanwhile do not bring a new
check (the model's choice, log entry 209). -/
def requestReleasedOp (s : State) : State :=
  match s.tcp.defer with
  | some (m, c) =>
    if portSt 3 s = 4 then s
    else
      let s := modTcp (fun c => { c with defer := none }) s
      if tcpKept m s then modTcp (fun x => { x with held := x.held ++ [(m, c)] }) s else tcpSend m c s
  | none => s

/-- GET_SOURCE_CAP (R228). -/
def getSourceCapOp (s : State) : State :=
  let s := setF TCP_TXCMD_CMD 3 s
  if tcpFree s then tcpCommand .getSourceCap s else s

/-- EPR_MODE_ENTER (R235). -/
def eprEnterOp (s : State) : State :=
  let s := setF TCP_TXCMD_CMD 4 s
  if flag TCP_STAT_BUSY s then s
  else if flag TCP_STAT_CONTRACT s && !flag TCP_CONTRACT_AVS s && !flag TCP_STAT_EPR s && capsEprOk s then
    (if tcpFree s then tcpCommand (.eprEnter (txObj s)) s else s)
  else tcpRefuse 6 s

/-- EPR_MODE_EXIT (R236). -/
def eprExitOp (s : State) : State :=
  let s := setF TCP_TXCMD_CMD 5 s
  if tcpFree s then tcpCommand .eprExit s else s

/-- SOFT_RESET_CMD (R239). -/
def softResetOp (s : State) : State :=
  let s := setF TCP_TXCMD_CMD 6 s
  if tcpFree s then tcpCommand .softReset s else s

/-- HARD_RESET_CMD (R240): never held (R224). -/
def hardResetOp (s : State) : State :=
  let s := setF TCP_TXCMD_CMD 7 s
  if tcpFree s then s |> tcpHardReset |> setF TCP_TXRES_RES 2 else s

/-! ## Fence (R241, R528) and power-on (R226) -/

/-- The port is fenced: nothing is sent any more; contract and type are held. -/
def tcpFence (s : State) : State :=
  s |> tcpRes true 4 true |> setF TCP_STAT_PSTRANS 0 |> tcpDrop |> modTcp (fun c => { c with waitCap := false })

/-- The port at VCC power-on, where a source attached earlier with the orientation `att` (R226, R229). -/
def tcpPowerOn (att : Option Bool) (s : State) : State :=
  match att with
  | some cc2 => s |> setF TCP_STAT_ATT 1 |> setB TCP_STAT_POL cc2 |> modTcp (fun c => { c with waitCap := true })
  | none => s

/-- The fence is released (R528). -/
def tcpUnfence (s : State) : State :=
  if !flag TCP_STAT_ATT s then s
  else if flag TCP_STAT_CONTRACT s then tcpSendSoft s
  else modTcp (fun c => { c with waitCap := true }) s

end Sys2Proof.Machine
end

