-- ==== Sys2Proof/Machine/LnkOps.lean ====
section
/-!
DEFINITION. Herd Link (R426-R466): roles, training and alignment, election, roll call, the budget, cadence, messages and
breaks. Items arrive and leave as their bytes; a control character stands as the octet that 8b/10b names it by.
-/

namespace Sys2Proof.Machine

open Sys2Proof

/-- The link's own data changed. -/
def modLnk (f : Lnk → Lnk) (s : State) : State := { s with lnk := f s.lnk }

/-- ROLE (R426). -/
def lnkRole (s : State) : Nat := fld LNK_STAT_ROLE s
/-- Own address. -/
def lnkAddr (s : State) : Nat := fld LNK_ADDR_ADDR s
/-- The node transmits the stream: node, lead or passive. -/
def lnkOn (s : State) : Bool := lnkRole s == 3 || lnkRole s == 4 || lnkRole s == 5
/-- Is the node eligible to lead (R442)? -/
def lnkEligible (s : State) : Bool :=
  flag GLB_CLKSTAT_XIOK s && fld GLB_FUSE1_LEADEL s == 0 && !inFawn s && !fencedU uLnk s && flag LNK_CTL_EN s
    && !s.clk.bkosc

/-- An item discarded by R437. -/
def lnkCrcBad (s : State) : State :=
  s |> setF LNK_STAT_CRCEVT 1 |> incSat LNK_ERRCNT_CRC |> raise' srcLnkCrc 1 (some uLnk) 0

/-- REFEVT, with its notify cause (R485). -/
def lnkRef (s : State) : State := s |> setF LNK_STAT_REFEVT 1 |> notify 5

/-! ## Items and their CRCs (R432-R436) -/

/-- Byte `i` of an item. -/
def lb (bs : List Byte) (i : Nat) : Nat := (bs.getD i 0).toNat
/-- Little-endian halfword at `i`. -/
def lh (bs : List Byte) (i : Nat) : Nat := lb bs i + 256 * lb bs (i + 1)
/-- Little-endian word at `i`. -/
def lw (bs : List Byte) (i : Nat) : Nat := leNat ((bs.drop i).take 4)

/-- CRC of the covered bytes under a folded prefix. -/
def lnkCrc (pre covered : List Byte) : Word := crc32c (pre ++ covered)

/-- The check of a received item, an armed injection included (R437, R542). -/
def lnkCheck (err : Bool) (pre covered : List Byte) (crc : Nat) (s : State) : Bool × State :=
  let ok := !err && (decide ((lnkCrc pre covered).toNat = crc)) != (injBits 4 s != 0)
  let s := injDone 4 s
  (ok, if ok then s else lnkCrcBad s)

/-- Prefix of a lead address. -/
def foldLead (a : Nat) : List Byte := leBytes 2 a
/-- Prefix of an address and a frame. -/
def foldFrm (a : Nat) (f : Word) : List Byte := leBytes 2 a ++ leBytes 4 f.toNat

/-- A beacon (R432) of the given flags, FRM, FIDX, HOPC and HOPD. -/
def mkBeacon (lead flags frm fidx hopc hopd : Nat) : List Byte :=
  let cov := leBytes 1 flags ++ leBytes 4 frm ++ leBytes 1 fidx ++ [0]
  0x3C :: cov ++ leBytes 2 hopc ++ leBytes 2 hopd
    ++ leBytes 4 (lnkCrc (if bitOf flags 1 then foldLead 0 else foldLead lead) cov).toNat

/-- The node's claim (R442). -/
def mkClaim (s : State) : List Byte := mkBeacon 0 2 (rd LNK_UID s) (fld LNK_CTL_LPRI s) 1 0

/-! ## Link slots (R455) -/

/-- Depth of link ring `n` (24-31). -/
def lnkDepth (n : Nat) (s : State) : Nat := ringDepth n s
/-- Address of slot `k` of ring `n`. -/
def lnkSlot (n k : Nat) (s : State) : Nat := ringBase n s + 64 * k

/-- Slots of ring `n` in use. -/
def lnkUsed (n : Nat) (s : State) : List Nat :=
  if n < 28 then (s.lnk.txq.filter (fun t => t.cls == n - 24)).map (·.slot)
  else (s.lnk.rxq.filter (fun t => t.1 == n - 28)).map (fun t => t.2.1)

/-- The next free slot of ring `n`: from the place after the last one taken; none when the ring is full or disabled. -/
def lnkFree (n : Nat) (s : State) : Option Nat :=
  if !ringEn n s then none
  else
    let d := lnkDepth n s
    let used := lnkUsed n s
    ((List.range d).map (fun i => (vAt s.lnk.nxt (n - 24) + i) % d)).find? (fun k => !used.contains k)

/-- A link slot is written (R455). -/
def lnkSlotWrite (n k st len peer mseq : Nat) (frm : Word) (pay : List Byte) (s : State) : State :=
  let bytes := leBytes 1 st ++ leBytes 1 len ++ leBytes 2 peer ++ leBytes 2 mseq ++ leBytes 2 0 ++ leBytes 4 frm.toNat
    ++ leBytes 4 0 ++ pay ++ List.replicate (48 - pay.length) 0
  let s := (ramStoreBytes none (lnkSlot n k s) bytes s).2
  { s with lnk := { s.lnk with nxt := vPut s.lnk.nxt (n - 24) ((k + 1) % lnkDepth n s) } }

/-- STATUS of a transmit slot. -/
def lnkStatus (t : LnkTx) (st : Nat) (s : State) : State :=
  (ramStoreBytes none (lnkSlot (24 + t.cls) t.slot s) [BitVec.ofNat 8 st] s).2

/-- A received message or order is placed in its ring: true when it was taken. -/
def lnkDeliver (cls st peer mseq len : Nat) (all : Bool) (pay : List Byte) (s : State) : Bool × State :=
  match lnkFree (28 + cls) s with
  | none => (false, s)
  | some k =>
    let s := lnkSlotWrite (28 + cls) k st len peer mseq s.clk.frm pay s
    (true, modLnk (fun l => { l with rxq := l.rxq ++ [(cls, k, all)] }) s)

/-- A transmit slot ends with a final STATUS: free for reuse (R458). -/
def lnkFinish (t : LnkTx) (st : Nat) (s : State) : State :=
  let s := lnkStatus t st s
  let s := modLnk (fun l => { l with txq := l.txq.filter (fun x => !(x.cls == t.cls && x.slot == t.slot)) }) s
  if st = 0x13 then incSat LNK_MSGCNT_LOSTM s else if st = 0x11 then incSat LNK_MSGCNT_NAK s else s

/-- Messages on the wire, and with `all` the queued ones too, end with STATUS 0x14 (R458, R464). -/
def lnkAbort (all : Bool) (s : State) : State :=
  (s.lnk.txq.filter (fun t => all || t.sent.isSome)).foldl (fun s t => lnkFinish t 0x14 s) s

/-! ## Roles (R426, R438, R464) -/

/-- CLKSRC of a role (R37, R42); a locked HFO has no correction (R51). -/
def lnkClk (s : State) : State :=
  let s := setF GLB_CLKSTAT_CLKSRC (if s.clk.bkosc then 3 else if lnkRole s = 4 then 1 else if flag LNK_STAT_LOCK s then 2 else 0) s
  if hfoLocked s then setF GLB_OSCCOR_COR 0 s else s

/-- The tick stays where it is (R36, R440): a frame whose sub-frame ticks 190-199 are past keeps its length. -/
def Lnk.still (sft : Nat) (l : Lnk) : Lnk := { l with stretch := if sft < 190 then 0 else l.stretch, moveLeft := 0 }

/-- The role becomes `r`: a role other than node or lead ends what is on the wire, and a claimer or a lead keeps its own tick. -/
def lnkTo (r : Nat) (s : State) : State :=
  let s := s |> setF LNK_STAT_ROLE r |> setB LNK_STAT_BYP (r < 2)
  let s := if r = 2 || r = 4 then modLnk (fun l => { l.still s.clk.sft with adopt := none }) s else s
  let s := if r = 3 || r = 4 then s else lnkAbort false s
  let s := if r = 4 then s else modLnk (fun l => { l with relay := [], rollSend := false, rollDue := false }) s
  lnkClk s

/-- Training starts (R438 step 1). -/
def lnkTrain (s : State) : State :=
  s |> modLnk (fun l => { l.still s.clk.sft with
      hops := [], trained := false, adopt := none, lost := false, claims := 0, claimBack := false })
    |> setF LNK_STAT_ACCT 0 |> setF LNK_STAT_LOCK 0 |> setF GLB_CLKSTAT_TALIGN 0 |> lnkTo 1

/-- Stand-alone (R426): EN cleared, a fence, the backup oscillator or ship mode. -/
def lnkAlone (s : State) : State :=
  s |> modLnk (fun l => { l.still s.clk.sft with
      hops := [], trained := false, adopt := none, lost := false, claims := 0, claimBack := false })
    |> setF LNK_STAT_ACCT 0 |> setF LNK_STAT_LOCK 0 |> setF GLB_CLKSTAT_TALIGN 0 |> lnkTo 0

/-- May the link run at all? -/
def lnkMay (s : State) : Bool := flag LNK_CTL_EN s && !fencedU uLnk s && !s.clk.bkosc && !s.sup.shipBegun

/-- LINK_ENABLE_WRITE (R426). -/
def linkEnableOp (en : Bool) (s : State) : State :=
  let was := flag LNK_CTL_EN s
  let s := setB LNK_CTL_EN en s
  if was = en then s else if en then (if lnkMay s then lnkTrain s else s) else lnkAlone s

/-- Entry to Fawn mode (R464). -/
def lnkFawn (s : State) : State :=
  match lnkRole s with
  | 3 | 4 => s |> lnkAbort true |> lnkTo 5
  | 2 => s |> lnkAbort true |> lnkTrain
  | _ => s

/-- RECEIVE_LOCK_LOSS (R39, R429): the node keeps its own FRM, index and tick. -/
def lockLossOp (s : State) : State :=
  if flag LNK_STAT_LOCK s then
    s |> setF LNK_STAT_LOCK 0 |> setF GLB_CLKSTAT_TALIGN 0 |> setF GLB_CLKSTAT_LOCKLOST 1 |> lnkClk
      |> modLnk (fun l => { l.still s.clk.sft with adopt := none })
  else s

/-- LINK_TRAINING (R438 step 2, R439, R466): lock to the recovered clock; in training a measurement from its start, and in any
node that is measuring anew its latency. A lead that receives its own stream again has its lock back (R429, R463). -/
def linkTrainingOp (lat : Nat) (s : State) : State :=
  if !lnkMay s || lnkRole s == 0 then s
  else if lnkRole s == 4 then lnkClk (setF LNK_STAT_LOCK 1 s)
  else
    let s := s |> setF LNK_STAT_LOCK 1 |> lnkClk
    if lnkRole s = 1 then modLnk (fun l => { l with lat := lat % 256, hops := [], trained := false }) s
    else if !s.lnk.trained then modLnk (fun l => { l with lat := lat % 256 }) s
    else s

/-- The node becomes lead (R443). Its tick is the ring's: TALIGN reads 1, and a loss of lock clears it as in any node (DESIGN CHOICE,
log entry 175). -/
def becomeLead (s : State) : State :=
  let s := if lnkAddr s = 0 then setF LNK_ADDR_ADDR 1 s else s
  let a := lnkAddr s
  s |> lnkTo 4 |> setF LNK_STAT_MEMBER 1 |> setF LNK_POS_INDEX 0 |> setF GLB_CLKSTAT_TALIGN 1 |> incSat LNK_ERRCNT_REFORM |> lnkRef
    |> modLnk (fun l => { l with
      lead := a, claims := 0, rollDue := true, rollSend := false, roll := 0, recs := [], table := [], badRecs := [], assigns := []
      lost := false, nRet := 1, cad := 1, cph := 0, trained := true })

/-- CLAIM_START (R442). Before the first frame the bypass stays closed (R68), and no claim starts (DEDUCED, log entry 210). -/
def claimStartOp (s : State) : State :=
  if s.clk.running && lnkRole s = 1 && !flag LNK_STAT_LOCK s && lnkMay s && lnkEligible s then
    modLnk (fun l => { l with claims := 0, claimBack := false }) (lnkTo 2 s)
  else s

/-- CLAIM_AFTER_LOSS (R461): a member in ROLE node, or still passive after Fawn mode. -/
def claimAfterLossOp (s : State) : State :=
  if (lnkRole s == 3 || lnkRole s == 5) && s.lnk.lost && lnkMay s && lnkEligible s then
    modLnk (fun l => { l with claims := 0, claimBack := false }) (lnkTo 2 s)
  else s

/-- A claiming node that has stopped being eligible trains again (R442). -/
def claimCheck (s : State) : State := if lnkRole s = 2 && !lnkEligible s then lnkTrain s else s

/-- LNK_LOST (R461, R462). -/
def lnkLost (s : State) : State :=
  s |> setF LNK_STAT_LOSTEVT 1 |> notify 5 |> incSat LNK_ERRCNT_LOST |> setF LNK_STAT_STATIC 1 |> setF LNK_STAT_ACCT 0
    |> modLnk (fun l => { l.still s.clk.sft with lost := true }) |> raise' srcLnkLost 2 (some uLnk) 0

/-- BEACON_LOSS (R461). -/
def beaconLossOp (s : State) : State :=
  if (lnkRole s == 3 || lnkRole s == 5) && !s.lnk.lost then lnkLost s else s

/-- LEAD_HEADER_LOSS (R462). -/
def headerLossOp (s : State) : State := if lnkRole s == 4 && !s.lnk.lost then lnkLost s else s

/-! ## Ring term (R449) -/

/-- Level of a priority: 0xFFFF is unlimited. -/
def levelOf (p : Nat) (s : State) : Nat :=
  match p with
  | 0 => fld LNK_LEV01_L0 s | 1 => fld LNK_LEV01_L1 s | 2 => fld LNK_LEV23_L2 s | _ => fld LNK_LEV23_L3 s

/-- SRC and value of the ring term now (R449). -/
def lnkTerm (s : State) : Nat × Nat :=
  if !isMember s then (4, 5000)
  else if flag LNK_STAT_SHED s then (3, 0)
  else if !(lnkRole s == 3 || lnkRole s == 4) || s.lnk.lost || !flag LNK_STAT_BUDV s then (1, fuseShare s)
  else
    match flag LNK_STAT_ACCT s, s.lnk.lrec with
    | true, some r =>
      let l := levelOf r.pri s
      (0, if l = 0xFFFF then r.req else min r.req l)
    | _, _ => (2, fuseShare s)

/-- The ring term in force becomes `t`. -/
def lnkAlloc (t : Nat × Nat) (s : State) : State :=
  s |> setF LNK_ALLOC_SRC t.1 |> setF LNK_ALLOC_VAL t.2 |> setB LNK_STAT_STATIC (t.1 == 1 || t.1 == 2)

/-- Does this tick open a frame of the budget cycle: any tick in standard timing, an even index in double beat (R446, R453)? -/
def beatOpen (s : State) : Bool := !(flag LNK_STAT_DBL s && s.clk.fidx % 2 == 1)

/-- The rows of R449 that need no command. -/
def lnkRows (s : State) : State := if (lnkTerm s).1 = 0 then s else lnkAlloc (lnkTerm s) s

/-- The ring term at a tick (R448 step 5, R451, R465): at a tick that opens a beat a term computed from a command goes live, in a
node or lead; without one, and in any other role, the rows that need no command apply. A term still pending at an odd tick of
double beat waits. -/
def lnkTermTick (s : State) : State :=
  match s.lnk.term with
  | none => lnkRows s
  | some t =>
    let may := isMember s && (lnkRole s == 3 || lnkRole s == 4)
    if beatOpen s then
      let s := s |> modLnk (fun l => { l with term := none }) |> setB LNK_STAT_SHED (t.1 == 3)
      if may then lnkAlloc t s else lnkRows s
    else if may then s
    else lnkRows s

/-- A valid command's levels, and the ring term that follows from them (R437, R448, R449, R451). -/
def applyLevels (budv shed : Bool) (l0 l1 l2 l3 : Nat) (s : State) : State :=
  let s := s |> setB LNK_STAT_BUDV budv |> setF LNK_LEV01_L0 l0 |> setF LNK_LEV01_L1 l1 |> setF LNK_LEV23_L2 l2
    |> setF LNK_LEV23_L3 l3
  let s := if budv then s else setF LNK_STAT_ACCT 0 s
  if shed then
    s |> setF LNK_STAT_SHED 1 |> setF LNK_STAT_SHEDEVT 1 |> lnkAlloc (3, 0) |> modLnk (fun l => { l with term := some (3, 0) })
  else
    let t := lnkTerm (setF LNK_STAT_SHED 0 s)
    modLnk (fun l => { l with term := some t }) s

/-! ## Beacons (R432, R438-R442) -/

/-- The median of 16 values: the mean of the middle two, rounded down. -/
def median16 (l : List Nat) : Nat :=
  let t := sortBy id l
  (t.getD 7 0 + t.getD 8 0) / 2

/-- A measurement of 16 beacons is complete (R439): index and D. -/
def lnkMeasured (s : State) : State :=
  let i := median16 (s.lnk.hops.map (·.1))
  let d := median16 (s.lnk.hops.map (·.2))
  s |> setF LNK_POS_INDEX i |> setF LNK_TIME_HOPD d |> setF LNK_TIME_LAT s.lnk.lat
    |> modLnk (fun l => { l with trained := true, hops := [] })

/-- The hop fields of a valid beacon (R439): in a measurement they are collected; in a trained node a changed HOPC that persists for
16 beacons starts a new measurement. -/
def lnkHop (hopc hopd : Nat) (s : State) : State :=
  if s.lnk.trained then
    if hopc = fld LNK_POS_INDEX s then modLnk (fun l => { l with hops := [] }) s
    else
      let run := (hopc, hopd) :: s.lnk.hops.takeWhile (fun h => h.1 == hopc)
      if 16 ≤ run.length then modLnk (fun l => { l with trained := false, hops := [] }) s
      else modLnk (fun l => { l with hops := run }) s
  else
    let s := modLnk (fun l => { l with hops := ((hopc, hopd) :: l.hops).take 16 }) s
    if s.lnk.hops.length = 16 then lnkMeasured s else s

/-- A beacon as the node forwards it (R432, R439): HOPC is one more, and HOPD is the delay `d` with its segment and its latency. -/
def hopBeacon (bs : List Byte) (d : Nat) (s : State) : List Byte :=
  bs.take 8 ++ leBytes 2 ((lh bs 8 % 512 + 1) % 512) ++ leBytes 2 ((d + fld LNK_SEG_SEG s + s.lnk.lat) % 65536) ++ bs.drop 12

/-- The node forwards a beacon with its hop fields (R439). -/
def lnkForward (bs : List Byte) (s : State) : State :=
  let same := s.lnk.trained && lh bs 8 % 512 == fld LNK_POS_INDEX s
  modLnk (fun l => { l with outHdr := hopBeacon bs (if same then fld LNK_TIME_HOPD s else lh bs 10) s }) s

/-- The node forwards a claim (R432, R442). -/
def claimForward (bs : List Byte) (s : State) : State := modLnk (fun l => { l with outHdr := hopBeacon bs (lh bs 10) s }) s

/-- From the tick that opened the frame to the arrival of SOB in that frame: `arr` taps after a tick of the node, negative before one. -/
def sobAfter (arr : Int) (s : State) : Int := arr % (32000 + s.lnk.stretch)

/-- How far the tick that opened the frame lies before the aligned position of the beacon's frame, D + SEG before SOB (R439). -/
def tickLag (arr : Int) (s : State) : Int := sobAfter arr s - (fld LNK_TIME_HOPD s + fld LNK_SEG_SEG s : Nat)

/-- The whole frames in `lag`, to the nearest: the frame that the beacon opened begins that many frames after the present one. -/
def lagFrames (lag : Int) : Int := (lag + 16000) / 32000

/-- The node's tick moves by `v` taps, 32 or fewer in each frame (R36, R440), once the whole beacon, 320 ns long, has come: from this frame
on where that is before its sub-frame ticks 190-199, and else from the next, less what the present frame moves it by (DEDUCED, log entry
197). -/
def lnkMove (at' v : Int) (l : Lnk) : Lnk :=
  let d := if at' + 512 < 3040 then clampI (-32) 32 v else l.stretch
  { l with stretch := d, moveLeft := v - d }

/-- A frame opens: it moves the tick by 32 taps or fewer of what is left (R440). -/
def Lnk.moveOn (l : Lnk) : Lnk :=
  let d := clampI (-32) 32 l.moveLeft
  { l with stretch := d, moveLeft := l.moveLeft - d }

/-- Alignment of the tick (R33, R36, R439, R440): `arr` is how long after the own tick SOB arrived, taps. The frame that is adopted is the
one that the tick's place gives it, whatever whole frames lie between (DEDUCED, log entry 197). That of a new lead is adopted too, where
it is another (DEDUCED, log entry 212). A later beacon that shows the tick more than 100 ns off leaves TALIGN set (DESIGN CHOICE, log entry
176). Before the first frame tick there is no tick to move. -/
def lnkAlign (frm fidx : Nat) (arr : Int) (s : State) : State :=
  if !s.lnk.trained || !s.clk.running then s
  else
    let k := lagFrames (tickLag arr s)
    let move := tickLag arr s - 32000 * k
    let s := modLnk (lnkMove (max (sobAfter arr s) (16 * s.clk.sft : Nat)) move) s
    if decide (-160 ≤ move ∧ move ≤ 160) && (!flag GLB_CLKSTAT_TALIGN s || s.lnk.readopt) then
      let now : Word × Nat := (BitVec.ofInt 32 (frm - k), ((fidx - k) % 50).toNat)
      s |> setF GLB_CLKSTAT_TALIGN 1
        |> modLnk (fun l => { l with
          adopt := if flag GLB_CLKSTAT_TALIGN s && now == (s.clk.frm, s.clk.fidx) then l.adopt else some now, readopt := false })
    else s

/-- A claim beacon (R442). -/
def lnkClaim (bs : List Byte) (s : State) : State :=
  let key := lb bs 6 % 16 * 2 ^ 32 + lw bs 2
  let own := fld LNK_CTL_LPRI s * 2 ^ 32 + rd LNK_UID s
  if lnkRole s = 2 then
    if key < own then claimForward bs (modLnk (fun l => { l with trained := false, hops := [] }) (lnkTo 3 s))
    else if key = own then
      let s := if s.lnk.claimBack then s else modLnk (fun l => { l with claims := l.claims + 1, claimBack := true }) s
      if 8 ≤ s.lnk.claims then becomeLead s else s
    else s
  else if lnkRole s = 3 || lnkRole s = 5 then claimForward bs s
  else s

/-- Is a roll call due or under way at the lead (R444)? -/
def rolling (s : State) : Bool := s.lnk.rollDue || s.lnk.rollSend || s.lnk.roll != 0

/-- The address the lead's table gives an index (R444). -/
def tableAddr (i : Nat) (s : State) : Option Nat := (s.lnk.table.find? (fun t => t.1 == i)).map (fun t => t.2.1)

/-- The lead takes a record of its returned header (R428, R437, R444, R447): the record at position `j`, with `r.2` where it holds a
symbol error. A budget record of an index that the table does not hold has no address to be checked with: during a roll call it is
left alone, and after one it fails (DEDUCED, log entry 163). -/
def leadRecord (frm : Word) (j : Nat) (r : List Byte × Bool) (s : State) : State :=
  let i := j * s.lnk.cad + s.lnk.cph
  let c := lw r.1 0
  let roll := bitOf c 31
  let addr := if roll then some (bitsOf c 11 0) else tableAddr i s
  if s.lnk.nRet ≤ i || addr.isNone && !r.2 && rolling s then s
  else
    let (ok, s) := lnkCheck (r.2 || addr.isNone) (foldFrm (addr.getD 0) frm) (r.1.take 4) (lw r.1 4) s
    if ok then
      let s := modLnk (fun l => { l with badRecs := l.badRecs.filter (fun x => x.1 != i) }) s
      if roll then
        modLnk (fun l => { l with table := l.table.filter (fun x => x.1 != i) ++ [(i, bitsOf c 11 0, bitsOf c 27 12)] }) s
      else modLnk (fun l => { l with recs := l.recs.filter (fun x => x.1 != i) ++ [(i, c)] }) s
    else
      let n := ((s.lnk.badRecs.find? (fun x => x.1 == i)).map (·.2)).getD 0 + 1
      modLnk (fun l => { l with
        badRecs := l.badRecs.filter (fun x => x.1 != i) ++ [(i, if n = 3 then 0 else n)]
        rollDue := l.rollDue || n == 3 }) s

/-- The records of a header that returns to the lead, checked with the FRM it was sent with (R437, R444, R447). -/
def leadRecords (recs : List (List Byte × Bool)) (s : State) : State :=
  (recs.zipIdx).foldl (fun t r => leadRecord s.lnk.bfrm r.2 r.1 t) s

/-- The lead's own header has returned (R444, R447, R462): the FRM it was sent with checks what follows of it. -/
def leadHeader (bs : List Byte) (recs : List (List Byte × Bool)) (s : State) : State :=
  let n := lh bs 8 % 512
  let s := modLnk (fun l => { l with nRet := n, lost := false, bfrm := BitVec.ofNat 32 (lw bs 2) }) s
  leadRecords recs (if n ≠ fld LNK_POS_NN s then modLnk (fun l => { l with rollDue := true }) s else s)

/-- BEACON_RECEIVED (R432, R437-R442, R461, R462). `lead` is the address the BCRC is folded with, `arr` the arrival of SOB after
the own tick in taps, `recs` the records of a header that returns to the lead, each with its symbol error: they are checked also
behind a beacon that is discarded (R564). -/
def beaconOp (bs : List Byte) (err : Bool) (lead : Nat) (arr : Int) (recs : List (List Byte × Bool)) (s : State) : State :=
  if lnkRole s = 0 || !lnkMay s then s
  else
    let claim := bitOf (lb bs 1) 1
    let (ok, s) := lnkCheck (err || bs.length != 16) (foldLead (if claim then 0 else lead)) ((bs.drop 1).take 7) (lw bs 12) s
    if !ok then (if lnkRole s = 4 ∧ lead = lnkAddr s then leadRecords recs s else s)
    else
      let s := setF LNK_STAT_MEMBER 1 s
      if claim then lnkClaim bs s
      else if lnkRole s = 4 then (if lead = lnkAddr s then leadHeader bs recs s else s)
      else
        let s := if s.lnk.lead = lead then s
          else s |> modLnk (fun l => { l with lead := lead, oseq := none, readopt := true }) |> incSat LNK_ERRCNT_REFORM |> lnkRef
        let s := setB LNK_STAT_DBL (bitOf (lb bs 1) 0) s
        let s := modLnk (fun l => { l with bfrm := BitVec.ofNat 32 (lw bs 2), bidx := lb bs 6, bclk := clockNow s, lost := false }) s
        let s := if lnkRole s = 2 then modLnk (fun l => { l with trained := false, hops := [] }) (lnkTo 3 s) else s
        let s := s |> lnkHop (lh bs 8 % 512) (lh bs 10) |> lnkAlign (lw bs 2) (lb bs 6) arr
        if lnkOn s then lnkForward bs s else s

/-! ## Command slots (R433, R434, R445, R448) -/

/-- Frames from the one of the last valid beacon to the one whose header is on the wire now: the whole frames, or beats in double beat, that
have passed since (R436, R453; log entry 67). -/
def sinceBeacon (s : State) : Nat :=
  let n := if flag LNK_STAT_DBL s then 2 else 1
  (clockNow s - s.lnk.bclk) / (2000 * n) * n

/-- The FRM that CRCs of this frame are folded with (R436): the lead's own, with that of a beat's first frame in its second, and in a node
the FRM that the last valid beacon gives the frame (DEDUCED, log entry 67). -/
def lnkFrm (s : State) : Word :=
  if lnkRole s = 4 then (if beatOpen s then s.clk.frm else s.clk.frm - 1) else s.lnk.bfrm + BitVec.ofNat 32 (sinceBeacon s)

/-- An order is taken once per OSEQ value (R433, R434, R445, R460). -/
def lnkOrder (bs : List Byte) (s : State) : State :=
  let kind := lb bs 0x10
  if kind = 0 || s.lnk.oseq == some (lb bs 0x11) then s
  else
    let s := modLnk (fun l => { l with oseq := some (lb bs 0x11) }) s
    match kind with
    | 1 => s |> modLnk (fun l => { l with roll := l.cad + 1 }) |> setF LNK_STAT_ROLLEVT 1 |> incSat LNK_ERRCNT_REFORM
    | 2 =>
      if lh bs 0x12 = fld LNK_POS_INDEX s && lh bs 0x16 = rd LNK_UID s % 65536 then setF LNK_ADDR_ADDR (lh bs 0x14 % 4096) s
      else s
    | 3 =>
      let dst := lh bs 0x12 % 4096
      let len := min 22 (lb bs 0x14)
      if (lnkRole s == 3 || lnkRole s == 4) && (dst == lnkAddr s || dst == 0xFFF) then
        let (ok, s) := lnkDeliver 0 0x21 (0x8000 + s.lnk.lead) 0 len (dst == 0xFFF) ((bs.drop 0x16).take len) s
        if ok then setF LNK_STAT_ORDEVT 1 s else s
      else s
    | _ => s

/-- A trained and aligned node that has adopted the lead's FRM and index joins in a frame with JOINW (R438 step 5, R441, R464). -/
def lnkJoin (s : State) : State :=
  if lnkRole s = 1 && s.lnk.trained && flag GLB_CLKSTAT_TALIGN s && s.lnk.adopt.isNone && lnkMay s then
    setF LNK_STAT_ACCT 0 (lnkTo (if inFawn s then 5 else 3) s)
  else s

/-- COMMAND_SLOT_RECEIVED (R433, R437, R441, R448). The lead checks the slot of its returned header, against the FRM it was sent with,
and takes nothing from it (R564). -/
def commandSlotOp (bs : List Byte) (err : Bool) (s : State) : State :=
  if lnkRole s = 0 || !lnkMay s then s
  else
    let f := if lnkRole s = 4 then s.lnk.bfrm else lnkFrm s
    let (ok, s) := lnkCheck (err || bs.length != 48) (foldFrm s.lnk.lead f) ((bs.drop 1).take 0x2B) (lw bs 0x2C) s
    if !ok || lnkRole s == 4 then s
    else
      let f := lb bs 1
      let nn := lh bs 2 % 512
      let s := if nn = fld LNK_POS_NN s then s else lnkRef (setF LNK_POS_NN nn s)
      let s := modLnk (fun l => { l with cad := max 1 (lb bs 4), cph := lb bs 5, joinw := bitOf f 2, dblNext := bitOf f 3 }) s
      let s := lnkOrder bs s
      let s := applyLevels (bitOf f 0) (bitOf f 1) (lh bs 8) (lh bs 10) (lh bs 12) (lh bs 14) s
      if bitOf f 2 then lnkJoin s else s

/-! ## Records (R435, R446) -/

/-- BUDGET_RECORD (R446, R444): the node due places its record, at position floor(i / c). Leaving the passive role falls at the next
record (R535). -/
def budgetRecordOp (s : State) : State :=
  let s := if lnkRole s = 5 && !inFawn s then lnkTo 3 s else s
  let i := if lnkRole s = 4 then 0 else fld LNK_POS_INDEX s
  let c := s.lnk.cad
  if !lnkOn s || decide (400 ≤ i) || i % (max 1 c) != s.lnk.cph then s
  else
    let fawn := inFawn s
    let roll := decide (1 ≤ s.lnk.roll) && decide (s.lnk.roll ≤ c)
    let stat := flag LNK_STAT_STATIC s
    let req := if fawn || stat then fuseShare s else s.lnk.beatReq.req
    let pri := s.lnk.beatReq.pri % 4
    let draw := min 8191 (sgn 16 (fld HUB_ISRC_VAL s)).toNat
    let w :=
      if roll then 2 ^ 31 + b2n fawn * 2 ^ 28 + rd LNK_UID s % 65536 * 4096 + lnkAddr s
      else b2n s.lnk.sag * 2 ^ 30 + b2n stat * 2 ^ 29 + b2n fawn * 2 ^ 28 + pri * 2 ^ 26 + req % 8192 * 2 ^ 13 + draw
    let bs := leBytes 4 w
    let s := modLnk (fun l => { l with outRec := bs ++ leBytes 4 (lnkCrc (foldFrm (lnkAddr s) (lnkFrm s)) bs).toNat, outPos := i / max 1 c }) s
    if roll then s
    else modLnk (fun l => { l with lrec := some ⟨pri, req⟩, sag := false }) (setF LNK_STAT_ACCT 1 s)

/-! ## The lead's header (R431-R433, R444-R447, R451-R453) -/

/-- Does the cadence `c` meet the length rule (R452)? -/
def cadOk (n c : Nat) (dbl : Bool) : Bool :=
  decide (n * 80 + (64 + 8 * ((n + c - 1) / c)) * 20 ≤ (if dbl then 38000 else 18000))

/-- The cadence of R452; the slowest where none meets the rule. -/
def cadence (n : Nat) (dbl : Bool) : Nat :=
  let m := if dbl then 25 else 50
  (((List.range m).map (· + 1)).find? (fun c => cadOk n c dbl)).getD m

/-- The record positions R of a header (R431). -/
def recSpace (n c : Nat) : Nat := (n + c - 1) / max 1 c

/-- The message slots S of a frame, or of a beat (R431). -/
def msgSlots (n c : Nat) (dbl : Bool) : Nat := ((if dbl then 1980 else 980) - (64 + 8 * recSpace n c)) / 72

/-- Content of a record: its request, priority, and whether it is fixed (R447). -/
def recReq (c : Nat) : Nat := bitsOf c 25 13
def recPri (c : Nat) : Nat := bitsOf c 27 26
def recFixed (c : Nat) : Bool := bitOf c 28 || bitOf c 29

/-- The largest level whose shares fit (R447), by bisection over 13 bits. -/
def fitLevel (reqs : List Nat) (rem : Nat) : Nat → Nat → Nat
  | 0, l => l
  | b + 1, l =>
    let c := l + 2 ^ b
    fitLevel reqs rem b (if (reqs.map (fun r => min r c)).sum ≤ rem then c else l)

/-- One priority of R447: its level and what remains. -/
def levelStep (recs : List Nat) (p rem : Nat) : Nat × Nat :=
  let reqs := (recs.filter (fun c => recPri c == p && !recFixed c)).map recReq
  let d := reqs.sum
  if d ≤ rem then (0xFFFF, rem - d) else (fitLevel reqs rem 13 0, 0)

/-- The four levels (R447). -/
def levels (recs : List Nat) (total : Nat) : Nat × Nat × Nat × Nat :=
  let fixed := ((recs.filter recFixed).map recReq).sum
  let a := levelStep recs 0 (total - fixed)
  let b := levelStep recs 1 a.2
  let c := levelStep recs 2 b.2
  (a.1, b.1, c.1, (levelStep recs 3 c.2).1)

/-- The addresses to assign after a roll call (R445). -/
def assignsOf (table : List (Nat × Nat × Nat)) : List (Nat × Nat × Nat) :=
  let t := sortBy (fun x => x.1) table
  (t.foldl (fun (acc : List (Nat × Nat × Nat) × List Nat) x =>
    if x.2.1 = 0 || ((t.takeWhile (fun y => y.1 != x.1)).any (fun y => y.2.1 == x.2.1)) then
      let used := acc.2
      match ((List.range 0xFFE).map (· + 1)).find? (fun a => !used.contains a) with
      | some a => (acc.1 ++ [(x.1, a, x.2.2)], a :: used)
      | none => acc
    else acc) ([], t.map (fun x => x.2.1))).1

/-- The roll call ends: addresses to assign. -/
def rollEnd (s : State) : State := modLnk (fun l => { l with assigns := assignsOf l.table }) s

/-- ROLLCALL (R444, R465): a roll call that is due starts with the next command slot, once one under way is complete. The table holds
until the header with the order has returned, and the accepted records stay (R447). -/
def rollcallOp (s : State) : State :=
  if lnkRole s = 4 && s.lnk.rollDue && !s.lnk.rollSend && s.lnk.roll == 0 then
    s |> modLnk (fun l => { l with rollDue := false, rollSend := true, assigns := [] })
      |> setF LNK_STAT_ROLLEVT 1 |> incSat LNK_ERRCNT_REFORM
  else s

/-- LINK_ROLL_REQUEST (R444). -/
def rollRequestOp (s : State) : State := if lnkRole s = 4 then modLnk (fun l => { l with rollDue := true }) s else s

/-- An order for the next command slot: its kind and body. ROLLCALL goes before ASSIGN, and ASSIGN before APP; an APP waits for a
roll call that is due (R465). The slot of an APP takes its STATUS and its frame (R455, R458). -/
def leadOrder (s : State) : (Nat × List Byte) × State :=
  if s.lnk.rollSend then ((1, []), modLnk (fun l => { l with rollSend := false, roll := l.cad + 1 }) s)
  else
    match s.lnk.assigns, s.lnk.txq.find? (fun t => bitOf t.peer 15) with
    | (i, a, u) :: t, _ =>
      let s := modLnk (fun l => { l with
        assigns := t, table := l.table.map (fun x => if x.1 = i then (i, a, u) else x) }) s
      let s := if i = 0 then setF LNK_ADDR_ADDR a s else s
      ((2, leBytes 2 i ++ leBytes 2 a ++ leBytes 2 u), s)
    | [], some t =>
      if s.lnk.rollDue then ((0, []), s)
      else
        let a := lnkSlot (24 + t.cls) t.slot s
        let pay := ramBytes (a + 16) t.len s
        let s := (ramStoreBytes none (a + 8) (leBytes 4 s.clk.frm.toNat) s).2
        ((3, leBytes 2 (t.peer % 4096) ++ leBytes 1 t.len ++ [0] ++ pay), lnkFinish t 0x15 s)
    | [], none => ((0, []), s)

/-- The lead sends its header at a tick: beacon and command slot, and takes the command itself (R431, R433, R446-R453).
`first` says the tick opens a superframe. The table of a roll call starts empty when the header with its order has returned, and is
complete c frames later (R444, R463). -/
def leadTick (first : Bool) (s : State) : State :=
  let n := s.lnk.nRet
  -- timing and cadence change at a superframe boundary (R452, R453)
  let s := if !first then s else
    let dbl := s.lnk.dblNext
    let nn := fld LNK_POS_NN s
    let s := setB LNK_STAT_DBL dbl s
    modLnk (fun l => { l with dblNext := if dbl then !(decide (nn ≤ 190)) else decide (200 < nn) }) s
  let dbl := flag LNK_STAT_DBL s
  if !beatOpen s then s
  else
    let was := s.lnk.roll
    let c' := if first then cadence n dbl else s.lnk.cad
    let s := modLnk (fun l => { l with
      cph := if c' = l.cad then (l.cph + 1) % max 1 l.cad else 0, cad := c', joinw := first
      roll := l.roll - 1, table := if was = l.cad + 1 then [] else l.table }) s
    let s := if was = 1 then rollEnd s else s
    let total := lfld LNK_BUDGET_TOTAL s
    let full := (List.range n).all (fun i => s.lnk.recs.any (fun r => r.1 == i)) && !s.lnk.table.isEmpty
    let budv := full && total != 0 && !rolling s && !s.lnk.lost && decide (n ≤ 400)
    let lv := levels ((s.lnk.recs.filter (fun r => decide (r.1 < n))).map (·.2)) total
    let shed := lfld LNK_CMD_SHED s == 1
    let s := if n = fld LNK_POS_NN s then s else lnkRef (setF LNK_POS_NN n s)
    let (o, s) := leadOrder s
    let s := if o.1 = 0 then s else modLnk (fun l => { l with oseqOut := (l.oseqOut + 1) % 256 }) s
    let fl := b2n budv + 2 * b2n shed + 4 * b2n first + 8 * b2n s.lnk.dblNext + 16 * b2n (decide (400 < n))
    let body := o.2 ++ List.replicate (26 - o.2.length) 0
    let cov := leBytes 1 fl ++ leBytes 2 n ++ leBytes 1 s.lnk.cad ++ leBytes 1 s.lnk.cph ++ leBytes 2 total
      ++ leBytes 2 lv.1 ++ leBytes 2 lv.2.1 ++ leBytes 2 lv.2.2.1 ++ leBytes 2 lv.2.2.2
      ++ leBytes 1 o.1 ++ leBytes 1 s.lnk.oseqOut ++ body
    let a := lnkAddr s
    let cmd := 0x7C :: cov ++ leBytes 4 (lnkCrc (foldFrm a s.clk.frm) cov).toNat
    let s := modLnk (fun l => { l with
      lead := a, bfrm := s.clk.frm
      outHdr := mkBeacon a (b2n dbl) s.clk.frm.toNat s.clk.fidx 1 0 ++ cmd ++ List.replicate (8 * recSpace n s.lnk.cad) 0 }) s
    let s := if o.1 = 3 then lnkOrder cmd s else s
    applyLevels budv shed lv.1 lv.2.1 lv.2.2.1 lv.2.2.2 s

/-- The link at a frame tick: what the frame that opens is lengthened by is known already (R36); then the ring term that goes live (R448),
and by role the claim, the lead's header, or the phase and the roll count of a node. -/
def lnkTick (first : Bool) (s : State) : State :=
  let s := claimCheck (modLnk Lnk.moveOn s)
  let s := lnkTermTick s
  let s := if beatOpen s then modLnk (fun l => { l with beatReq := ⟨lfld LNK_REQ_PRI s, lfld LNK_REQ_REQ s⟩ }) s else s
  match lnkRole s with
  | 2 => modLnk (fun l => { l with outHdr := mkClaim s, claims := if l.claimBack then l.claims else 0, claimBack := false }) s
  | 4 => leadTick first s
  | 0 => s
  | _ =>
    if !beatOpen s then s
    else modLnk (fun l => { l with cph := (l.cph + 1) % max 1 l.cad, roll := l.roll - 1, joinw := false }) s

/-! ## Messages (R454-R460) -/

/-- The covered bytes of a message, ACK and NAK taken as 0 (R436). -/
def msgCov (bs : List Byte) : List Byte :=
  BitVec.ofNat 8 (lb bs 1 % 4 + lb bs 1 / 16 * 16) :: (bs.drop 2).take 56

/-- The check of a message. -/
def msgCheck (bs : List Byte) (err : Bool) (s : State) : Bool × State :=
  lnkCheck (err || bs.length < 62) (foldLead s.lnk.lead) (msgCov bs) (lw bs 0x3A) s

/-- A message with its own MCRC (R436): RLY is covered, so a relayed message carries a new one. -/
def msgSeal (bs : List Byte) (s : State) : List Byte :=
  bs.take 0x3A ++ leBytes 4 (lnkCrc (foldLead s.lnk.lead) (msgCov bs)).toNat ++ bs.drop 0x3E

/-- Class, destination and source of a message. -/
def msgCls (bs : List Byte) : Nat := lb bs 1 % 4
def msgDst (bs : List Byte) : Nat := lh bs 2 % 4096
def msgSrc (bs : List Byte) : Nat := lh bs 4 % 4096

/-- A message with ACK or NAK set. -/
def msgMark (ack : Bool) (bs : List Byte) : List Byte :=
  bs.set 1 (BitVec.ofNat 8 (putBit (lb bs 1) (if ack then 2 else 3) true))

/-- Delivery of a message to this node (R456): the message as it passes on. -/
def msgDeliver (bs : List Byte) (s : State) : List Byte × State :=
  let len := min 48 (lb bs 8)
  let (ok, s) := lnkDeliver (msgCls bs) 0x20 (msgSrc bs) (lh bs 6) len (msgDst bs == 0xFFF) ((bs.drop 10).take len) s
  (msgMark ok bs, s)

/-- Is a message for this node, and not its own? -/
def msgMine (bs : List Byte) (s : State) : Bool :=
  (msgDst bs == lnkAddr s || msgDst bs == 0xFFF) && msgSrc bs != lnkAddr s

/-- MESSAGE_RECEIVED (R437, R456, R459, R564): a passive node checks and forwards, and delivers nothing; one in training or claiming
checks only. -/
def messageOp (bs : List Byte) (err pre : Bool) (s : State) : State :=
  if pre || lnkRole s = 0 || lnkRole s = 4 then s
  else
    let (ok, s) := msgCheck bs err s
    if !lnkOn s then s
    else if ok && lnkRole s != 5 && msgMine bs s then
      let (m, s) := msgDeliver bs s
      modLnk (fun l => { l with outMsg := m }) s
    else modLnk (fun l => { l with outMsg := bs }) s

/-- The final STATUS of a message that has returned (R458). -/
def msgFinal (bs : List Byte) : Nat := if bitOf (lb bs 1) 3 then 0x11 else if bitOf (lb bs 1) 2 then 0x10 else 0x12

/-- The node's own message on the wire that these bytes are. -/
def msgOwn (bs : List Byte) (s : State) : Option LnkTx :=
  if msgSrc bs = lnkAddr s then
    s.lnk.txq.find? (fun t => t.sent.isSome && t.mseq == lh bs 6 && t.cls == msgCls bs)
  else none

/-- MESSAGE_RETURN_SOURCE (R457, R458): the node's own relayed message is replaced with a FREE slot; any other passes on. -/
def messageReturnSourceOp (bs : List Byte) (err : Bool) (s : State) : State :=
  if lnkRole s = 3 && bitOf (lb bs 1) 4 then
    let (ok, s) := msgCheck bs err s
    if ok && msgSrc bs == lnkAddr s then
      let s := modLnk (fun l => { l with outMsg := [] }) s
      match msgOwn bs s with
      | some t => lnkFinish t (msgFinal bs) s
      | none => s
    else modLnk (fun l => { l with outMsg := bs }) s
  else s

/-- MESSAGE_RETURN_LEAD (R457). -/
def messageReturnLeadOp (bs : List Byte) (err : Bool) (s : State) : State :=
  if lnkRole s ≠ 4 then s
  else
    let (ok, s) := msgCheck bs err s
    if !ok then s
    else if msgSrc bs = lnkAddr s then
      match msgOwn bs s with
      | some t => lnkFinish t (msgFinal bs) s
      | none => s
    else
      let (m, s) := if msgMine bs s then msgDeliver bs s else (bs, s)
      if bitOf (lb bs 1) 4 then incSat LNK_MSGCNT_DROP s
      else if 32 ≤ s.lnk.relay.length then incSat LNK_MSGCNT_DROP s
      else modLnk (fun l => { l with relay := l.relay ++ [m.set 1 (BitVec.ofNat 8 (putBit (lb m 1) 4 true))] }) s

/-- The oldest queued message of the lowest-numbered class, orders apart. -/
def msgNext (s : State) : Option LnkTx :=
  ((List.range 4).filterMap (fun c => s.lnk.txq.find? (fun t => t.cls == c && t.sent.isNone && !bitOf t.peer 15))).head?

/-- The bytes of a queued message (R454). -/
def msgBytes (t : LnkTx) (s : State) : List Byte :=
  let pay := ramBytes (lnkSlot (24 + t.cls) t.slot s + 16) t.len s
  let cov := leBytes 1 t.cls ++ leBytes 2 (t.peer % 4096) ++ leBytes 2 (lnkAddr s) ++ leBytes 2 t.mseq ++ leBytes 1 t.len ++ [0]
    ++ pay ++ List.replicate (48 - t.len) 0
  0xFB :: cov ++ leBytes 4 (lnkCrc (foldLead s.lnk.lead) cov).toNat ++ [0xFD]

/-- The relayed message to send: class order (R457). -/
def relayNext (s : State) : Option (List Byte) :=
  ((List.range 4).filterMap (fun c => s.lnk.relay.find? (fun m => msgCls m == c))).head?

/-- Is the frame whose header is on the wire the first of the ring's superframe (R441)? A node knows it by the last valid beacon, also where
it has discarded the command slot with JOINW. -/
def ringFirst (s : State) : Bool := s.lnk.joinw || (lnkRole s != 4 && (s.lnk.bidx + sinceBeacon s) % 50 == 0)

/-- May message slot `k` be filled (R431, R441, R456)? It is one of the frame's slots, and not slot 0 of a superframe's first frame. -/
def slotOpen (k : Nat) (s : State) : Bool :=
  decide (k < msgSlots (fld LNK_POS_NN s) s.lnk.cad (flag LNK_STAT_DBL s)) && !(k == 0 && ringFirst s)

/-- MESSAGE_SEND (R456, R457, R459): slot `k` reaches the transmitter FREE; `cut` says SOB or SOC reached the node before its EOM. -/
def messageSendOp (k : Nat) (cut : Bool) (s : State) : State :=
  if !(lnkRole s == 3 || lnkRole s == 4) || !slotOpen k s then s
  else
    match (if lnkRole s = 4 then relayNext s else none) with
    | some m =>
      if cut then incSat LNK_MSGCNT_PRE s
      else modLnk (fun l => { l with outMsg := msgSeal m s, relay := l.relay.erase m }) s
    | none =>
      match msgNext s with
      | none => s
      | some t =>
        if cut then incSat LNK_MSGCNT_PRE s
        else
          let s := modLnk (fun l => { l with outMsg := msgBytes t s }) s
          let a := lnkSlot (24 + t.cls) t.slot s
          let s := (ramStoreBytes none a [2] s).2
          let s := (ramStoreBytes none (a + 8) (leBytes 4 s.clk.frm.toNat) s).2
          modLnk (fun l => { l with
            txq := l.txq.map (fun x => if x.cls = t.cls ∧ x.slot = t.slot then { x with sent := some s.clk.frm } else x) }) s

/-- MESSAGE_TIMEOUT (R458). -/
def messageTimeoutOp (s : State) : State :=
  let lim := if flag LNK_STAT_DBL s then 8 else 4
  (s.lnk.txq.filter (fun t => t.sent.any (fun f => decide (lim ≤ (s.clk.frm - f).toNat)))).foldl
    (fun s t => lnkFinish t 0x13 s) s

/-! ## LNK-SEND and LNK-RECV (R460) -/

/-- The operation in progress at a send or receive unit of the lowest class that has one. -/
def lnkOps (base : Nat) (s : State) : List TagRec := (List.range 4).filterMap (fun c => unitOp (base + c) s)

/-- LNK_SEND for one operation: it waits while the ring is full. An ORPHAN writes nothing more (R393). The order of its checks is log
entry 215. -/
def lnkSend1 (t : TagRec) (s : State) : State :=
  if t.st == .orphan then complete t.tag 0 0 0 s else
  let c := entB t.ent 8 % 4
  let len := entB t.ent 9
  let dst := entH t.ent 10
  let order := bitOf dst 15
  if !(lnkRole s == 3 || lnkRole s == 4) then complete t.tag 0 1 0 s
  else if 48 < len || dst % 4096 == 0 || (order && (lnkRole s != 4 || decide (22 < len))) then complete t.tag 0 2 0 s
  else if !ringEn (24 + c) s then complete t.tag 0 3 0 s
  else
    match lnkFree (24 + c) s with
    | none => s
    | some k =>
      let m := s.lnk.mseq
      let (pay, s) := unitRead (entH t.ent 12) len s
      let s := lnkSlotWrite (24 + c) k 1 len (dst % 4096 + if order then 0x8000 else 0) m 0 pay s
      let s := modLnk (fun l => { l with
        mseq := (m + 1) % 65536
        txq := l.txq ++ [⟨c, k, m, dst % 4096 + if order then 0x8000 else 0, len, none⟩] }) s
      complete t.tag 0 0 (k + m * 65536) s

/-- LNK_SEND (R460). -/
def lnkSendOp (s : State) : State := (lnkOps 7 s).foldl (fun s t => lnkSend1 t s) s

/-- LNK_RECV for one operation. An ORPHAN moves nothing (R393). The order of its checks is log entry 215. -/
def lnkRecv1 (t : TagRec) (s : State) : State :=
  if t.st == .orphan then complete t.tag 0 0 0 s else
  let c := entB t.ent 8 % 4
  let mx := entB t.ent 9
  if !ringEn (28 + c) s then complete t.tag 0 3 0 s
  else
    match s.lnk.rxq.find? (fun x => x.1 == c) with
    | none => complete t.tag 0 1 0 s
    | some (_, k, all) =>
      let a := lnkSlot (28 + c) k s
      let (h, s) := unitRead a 16 s
      let len := min 48 (lb h 1)
      let n := min len mx
      let (pay, s) := unitRead (a + 16) n s
      let s := if n = 0 then s else opStore t (entH t.ent 12) pay s
      let peer := lh h 2
      let s := (ramStoreBytes none a [0] s).2
      let s := modLnk (fun l => { l with rxq := l.rxq.erase (c, k, all) }) s
      complete t.tag 0 (if mx < len then 2 else 0)
        (len + peer % 4096 * 256 + b2n (bitOf peer 15) * 2 ^ 20 + b2n all * 2 ^ 21) s

/-- LNK_RECV (R460). -/
def lnkRecvOp (s : State) : State := (lnkOps 11 s).foldl (fun s t => lnkRecv1 t s) s

/-! ## Fence (R464, R528) -/

/-- The link is fenced: stand-alone, and its operations end with CODE 0x04 (R394). -/
def lnkFence (s : State) : State :=
  let s := (List.range 8).foldl (fun s u => fenceUnitOp (7 + u) s) s
  lnkAlone s

/-- The fence is released: training (R528). -/
def lnkUnfence (s : State) : State := if lnkMay s then lnkTrain s else s

end Sys2Proof.Machine
end

