-- ==== Sys2Proof/Machine/StoreOps.lean ====
section
/-!
DEFINITION. The program store (R398-R425): PS-WRITE, the scrub, the image checks, bank selection, arm and disarm, and the parts
of a swap and a rollback that the fault handling needs too.
-/

namespace Sys2Proof.Machine

open Sys2Proof

/-- The store changed. -/
def modStore (f : Store → Store) (s : State) : State := { s with store := f s.store }

/-- VALIDb. -/
def psValid (b : Bool) : Fld := ⟨GLB_PSSTAT, 10 + b2n b, 10 + b2n b⟩
/-- FAILb. -/
def psFail (b : Bool) : Fld := ⟨GLB_PSSTAT, 12 + b2n b, 12 + b2n b⟩

/-! ## Image checks (R410, R411) -/

/-- The magic number of a header. -/
abbrev imgMagic : Nat := 0x32364C46

/-- Byte, halfword and word of a header. -/
def hb (h : List Byte) (i : Nat) : Nat := (h.getD i 0).toNat
def hh (h : List Byte) (i : Nat) : Nat := hb h i + 256 * hb h (i + 1)
def hw (h : List Byte) (i : Nat) : Nat := leNat ((h.drop i).take 4)

/-- Code region, entry and vector of engine `e` in a header. -/
def hdrRegion (h : List Byte) (e : Nat) : Nat × Nat × Nat × Nat :=
  (hh h (0x14 + 8 * e), hh h (0x16 + 8 * e), hh h (0x18 + 8 * e), hh h (0x1A + 8 * e))

/-- The check of one engine's fields (R411). -/
def regionOk (h : List Byte) (e : Nat) : Bool :=
  let (a, b, n, v) := hdrRegion h e
  if n = 0 then a == 0 && b == 0 && v == 0
  else
    decide (0x40 ≤ a) && decide (a < b) && decide (b ≤ hw h 0x0C) && a % 4 == 0 && b % 4 == 0
      && decide (a ≤ n) && decide (n < b) && n % 4 == 0
      && (v == 0 || (decide (a ≤ v) && decide (v < b) && v % 4 == 0))

/-- No two code regions overlap. -/
def regionsApart (h : List Byte) : Bool :=
  (List.range 4).all (fun i => (List.range i).all (fun j =>
    let (a, b, n, _) := hdrRegion h i
    let (c, d, m, _) := hdrRegion h j
    n == 0 || m == 0 || decide (b ≤ c) || decide (d ≤ a)))

/-- A header passes (R411). -/
def headerPasses (h : List Byte) : Bool :=
  hw h 0 == imgMagic && hh h 4 == 1 && decide (hb h 6 < 2) && hb h 7 == 0 && ((h.drop 0x34).take 8).all (fun b => b == 0)
    && hw h 0x0C % 64 == 0 && decide (128 ≤ hw h 0x0C) && decide (hw h 0x0C ≤ 65536)
    && (crc32c (h.take 0x3C)).toNat == hw h 0x3C
    && hh h 0x18 != 0 && hh h 0x20 != 0
    && (List.range 4).all (fun e => regionOk h e) && regionsApart h

/-- The lines `lo` to `lo + n - 1` of a bank are read, each with its report: true when all deliver data. -/
def psReadLines (b : Bool) (lo n : Nat) (s : State) : Bool × State :=
  (List.range n).foldl (fun (acc : Bool × State) i =>
    let (ok, s) := psReadLine none false b (lo + i) acc.2
    (acc.1 && ok, s)) (true, s)

/-- The check of an image as its ARMRES code: 0b010 passed, 0b011 header, 0b100 ICRC or an uncorrectable line. -/
def imageCheck (b : Bool) (s : State) : Nat × State :=
  let (ok, s) := psReadLines b 0 1 s
  if !ok then (4, s)
  else
    let h := psBytes b 0 64 s
    if !headerPasses h then (3, s)
    else
      let n := hw h 0x0C
      let (ok, s) := psReadLines b 1 (n / 64 - 1) s
      if ok && (crc32c (psBytes b 64 (n - 64) s)).toNat == hw h 0x10 then (2, s) else (4, s)

/-! ## Marker (R413) -/

/-- Copy `c` of the marker. -/
def markerCopy (c : Nat) (m : Store) : Marker := if c = 0 then m.mk0 else m.mk1

/-- The decode of a copy (R400): 0 clean, 1 corrected, 2 uncorrectable; `inj` check bits of lane 0 are inverted besides (R409). -/
def markerLevel (c inj : Nat) (m : Store) : Nat := lineLevel (markerKey c) (markerCopy c m).flips inj

/-- What a copy delivers where its line decodes: three or more errors in one lane carry no guarantee (R400). -/
def markerSees (c : Nat) (m : Store) : Marker :=
  let k := markerCopy c m
  if lineWild k.flips then
    let v := (Config.eccByte (131072 + c) k.flips).toNat
    { k with active := bitOf v 0, trial := bitOf v 1, tbank := bitOf v 2 }
  else k

/-- Both copies of the marker are rewritten, copy 0 first; what they held stays until the rewrite is complete, within 0.5 ms
(R413, R417). A rewrite that a second one overtakes leaves what stood before the first. -/
def putMarker (active trial tbank : Bool) (s : State) : State :=
  let t := nowUs s
  modStore (fun m => { m with
    mkOld := some (match m.mkOld with
      | some (a, b, u) => if t < u + 500 then (a, b, t) else (m.mk0, m.mk1, t)
      | none => (m.mk0, m.mk1, t))
    mk0 := ⟨active, trial, tbank, []⟩, mk1 := ⟨active, trial, tbank, []⟩, mkFix := false }) s

/-- The marker as power-on reads it: the copy in force, and whether NVM_ERR is raised. -/
def readMarker (m : Store) : Marker × Bool :=
  let a := markerSees 0 m
  let b := markerSees 1 m
  match decide (markerLevel 0 0 m < 2), decide (markerLevel 1 0 m < 2) with
  | true, true => (a, !(a.active == b.active && a.trial == b.trial && a.tbank == b.tbank))
  | true, false => (a, true)
  | false, true => (b, true)
  | false, false => (⟨false, false, false, []⟩, true)

/-- The report of a copy's read (R401, R409): ECC_PS with its counts and LINE; answers the decode. -/
def markerRead (c : Nat) (s : State) : Nat × State :=
  let n := markerLevel c (injBits 1 s) s.store
  let s := injDone 1 s
  (n,
    if n = 0 then s
    else if n = 1 then s |> raise' srcEccPs 1 none (16384 + c) |> incSat GLB_PSECC_CORR
    else
      s |> raise' srcEccPs 2 none (16384 + c) |> incSat GLB_PSECC_UNCOR |> setF GLB_PSECC_LBANK 0 |> setF GLB_PSECC_LMARK 1
        |> setF GLB_PSECC_LINE c)

/-! ## PS-WRITE (R402-R405) -/

/-- An arm is verifying or in force, a swap is pending, or a check window runs (R403). -/
def armBusy (s : State) : Bool := s.store.verifying || flag GLB_PSSTAT_PEND s || s.store.winOpen

/-- Physical bits of a line that the manual leaves open. -/
def freeFlips (s : State) : List Nat := (List.range 704).filter (fun p => bitOf (Config.freeWord (s.seed + 64 + p)).toNat 0)

/-- The lines of a PS-WRITE from line `k`: DETAIL and the lines written. `bad` is the line that fails its verification, whose
contents are open then. -/
def psLines (src dst n : Nat) (bad : Option Nat) (b : Bool) : Nat → Nat → State → (Nat × Nat) × State
  | 0, k, s => ((0, k), s)
  | m + 1, k, s =>
    match ramRead none (src + 64 * k) 64 s with
    | (.inl _, s) => ((4, k), s)
    | (.inr bs, s) =>
      let s := if k = 0 then s |> setF (psValid b) 0 |> setF (psFail b) 0 else s
      let l := dst / 64 + k
      if bad = some k then
        let s := { lineFlipPut b l (freeFlips s) (psWrite b (64 * l) (freeBytes 64 s) s) with seed := s.seed + 768 }
        ((3, k), raise' srcNvmErr 2 none 0 s)
      else psLines src dst n bad b m (k + 1) (lineProgram b l bs s)

/-- PS_WRITE at the store (R403); result 0x01 stands before 0x02 (DESIGN CHOICE, log entry 179). -/
def psWriteOp (bad : Option Nat) (s : State) : State :=
  match unitOp 5 s with
  | none => s
  | some t =>
    let src := entH t.ent 8
    let dst := entH t.ent 10
    let n := entB t.ent 12
    if armBusy s then complete t.tag 0 1 0 s
    else if 65536 < dst + 64 * n then complete t.tag 0 2 0 s
    else
      let ((d, k), s) := psLines src dst n bad (!actBank s) n 0 s
      complete t.tag 0 d k s

/-- A copy of the marker whose programming was cut off: undefined contents (R406). -/
def markerOpen (s : State) : Marker :=
  let v := (Config.freeWord s.seed).toNat
  ⟨bitOf v 0, bitOf v 1, bitOf v 2, freeFlips s⟩

/-- VCC is lost while the marker is rewritten (R406, R413): how far the rewrite has come is open; copy 0 goes first, and the copy in
programming holds undefined contents. -/
def markerCut (s : State) : State :=
  match s.store.mkOld with
  | none => s
  | some (a, b, t) =>
    let new := (s.store.mk0, s.store.mk1)
    let (x, y) :=
      if t + 500 ≤ nowUs s then new
      else match (Config.freeWord (s.seed + 63)).toNat % 5 with
        | 0 => (a, b)
        | 1 => (markerOpen s, b)
        | 2 => (new.1, b)
        | 3 => (new.1, markerOpen s)
        | _ => new
    { (modStore (fun m => { m with mk0 := x, mk1 := y, mkOld := none }) s) with seed := s.seed + 768 }

/-- VCC is lost while a PS-WRITE runs (R406): the lines before some line are written, that one holds undefined contents. -/
def psCut (s : State) : State :=
  match unitOp 5 s with
  | none => s
  | some t =>
    let n := entB t.ent 12
    let dst := entH t.ent 10
    if armBusy s || decide (65536 < dst + 64 * n) then s
    else (psLines (entH t.ent 8) dst n (some ((Config.freeWord s.seed).toNat % n)) (!actBank s) n 0 (useSeed s)).2

/-! ## Scrub (R407, R408) -/

/-- An arm that is verifying or in force is withdrawn (R408, R416, R424). -/
def withdrawArm (s : State) : State :=
  if s.store.verifying || flag GLB_PSSTAT_PEND s then
    modStore (fun m => { m with verifying := false }) (s |> setF GLB_PSSTAT_PEND 0 |> setF GLB_PSSTAT_ARMRES 7)
  else s

/-- DISARM (R416): in the clock of the boundary at which the swap runs it is too late. -/
def disarmOp (s : State) : State := if s.clk.swDue && flag GLB_PSSTAT_PEND s then s else withdrawArm s

/-- The scrub's position moves on. -/
def scrubNext (s : State) : State :=
  let p := s.store.scrubPos + 1
  let s := if p = 2050 then incWrap GLB_PSSCRUB_PASSES s else s
  let p := p % 2050
  modStore (fun m => { m with scrubPos := p })
    (s |> setF GLB_PSSCRUB_LINE (if p < 2048 then p % 1024 else p - 2048) |> setF GLB_PSSCRUB_BANK (p / 1024 % 2)
      |> setB GLB_PSSCRUB_MARK (2048 ≤ p))

/-- The scrub of a marker copy: a stored error that is corrected is rewritten, one that injection caused is not (R407, R409). -/
def scrubMarker (c : Nat) (s : State) : State :=
  let stored := markerLevel c 0 s.store
  let (n, s) := markerRead c s
  if n = 1 ∧ stored = 1 then
    modStore (fun m => if c = 0 then { m with mk0 := { markerSees 0 m with flips := [] } }
      else { m with mk1 := { markerSees 1 m with flips := [] } }) s
  else s

/-- SCRUB_LINE. -/
def scrubOp (s : State) : State :=
  let p := s.store.scrubPos
  if 2048 ≤ p then scrubNext (scrubMarker (p - 2048) s)
  else
    let b := decide (1024 ≤ p)
    let l := p % 1024
    let stored := lineErrAt b l s
    let (n, s) := lineDecode b l s
    let s :=
      if n = 0 then s
      else if n = 1 then (if stored = 1 then lineProgram b l (psBytes b (64 * l) 64 s) else id) (psCorr none b l s)
      else
        let s := psUncor none b l s
        if b != actBank s then (if flag GLB_PSSTAT_PEND s then withdrawArm else id) (setF (psValid b) 0 s) else s
    scrubNext s

/-! ## Arm (R415, R416) -/

/-- The arm is refused with a code. -/
def armRefuse (c : Nat) (s : State) : State := setF GLB_PSSTAT_ARMRES c s

/-- A PS-WRITE is queued or running. -/
def psWritePending (s : State) : Bool :=
  s.rng.tags.any (fun t => entB t.ent 0 == 0x28 && (t.st == .queued || t.st == .running))

/-- Some engine with a non-zero ENTRY in the header of bank `b` is fenced. -/
def entryFenced (b : Bool) (s : State) : Bool :=
  allEng.any (fun e => psNat b (0x18 + 8 * engNo e) 2 s != 0 && (getEng e s).phase == .fenced)

/-- ARM (R415). -/
def armOp (s : State) : State :=
  let b := !actBank s
  if armBusy s || psWritePending s || s.sup.shipBegun
      || (inFawn s && fld FLT_FAWN_CAUSE s != 1 && fld FLT_FAWN_CAUSE s != 8) || entryFenced b s then armRefuse 5 s
  else if flag (psFail b) s then armRefuse 6 s
  else modStore (fun m => { m with verifying := true }) (setF GLB_PSSTAT_ARMRES 1 s)

/-- ARM_VERIFY_DONE (R415). -/
def armDoneOp (s : State) : State :=
  if !s.store.verifying then s
  else
    let b := !actBank s
    let (c, s) := imageCheck b (modStore (fun m => { m with verifying := false }) s)
    let s := setF GLB_PSSTAT_ARMRES c s
    if c = 2 then s |> setF (psValid b) 1 |> setF GLB_PSSTAT_PEND 1 else setF (psValid b) 0 s

/-! ## Swap and rollback (R417-R422) -/

/-- ICRC of a bank. -/
def icrc (b : Bool) (s : State) : Nat := psNat b 0x10 4 s

/-- The swap record (R418). -/
def swapRecord (old new : Nat) (kind : Nat) (s : State) : State :=
  (ramStoreBytes none 0x4010 (leBytes 4 s.clk.frm.toNat ++ leBytes 4 old ++ leBytes 4 new ++ [BitVec.ofNat 8 kind, 0, 0, 0]) s).2

/-- Bank `b` becomes active and every engine starts in it at sub-frame tick 200 of this frame, one that was reset earlier in the tick
too (steps 3, 4 and 6 of R417). -/
def restartIn (b : Bool) (kind : Nat) (s : State) : State :=
  let old := icrc (actBank s) s
  let s := { s with flt := { s.flt with relEng := [] } }
  let s := s |> setB GLB_PSSTAT_ACTIVE b |> wr GLB_PSIVER (psNat b 0x08 4 s)
  modStore (fun m => { m with restartAt := some (clockNow s) })
    (s |> resetAllEngines |> setF GLB_RSTCAUSE_SWAP 1 |> swapRecord old (icrc b s) kind)

/-- Has a swap or a rollback restarted the engines in this clock (R118, R424)? -/
def restartClock (s : State) : Bool := s.store.restartAt == some (clockNow s)

/-- The engines with a non-zero ENTRY in the active bank as a mask (R412, R420). -/
def startedMask (s : State) : Nat :=
  (allEng.map (fun e => if hdrEng e 0x18 s = 0 then 0 else 2 ^ engNo e)).sum

/-- The bank that runs fails its window: FAILb, UPD_ROLLBACK with the mask, CHKFAIL (R422). -/
def windowFailed (mask : Nat) (b : Bool) (s : State) : State :=
  modStore (fun m => { m with winOpen := false, winFail := 0, winRecovery := false })
    (s |> setF (psFail b) 1 |> setF GLB_PSSTAT_TRIAL 0 |> setF GLB_PSSTAT_CHKFAIL mask |> raise' srcUpdRollback 2 none mask)

/-- Fawn mode is entered during a check window (R424): the active bank returns to the old bank at once; after an image
recovery there is no bank to return to. -/
def windowFawn (s : State) : State :=
  if !s.store.winOpen then s
  else
    let b := actBank s
    let rec' := s.store.winRecovery
    let s := windowFailed (startedMask s) b s
    if rec' then s
    else
      let o := s.store.oldBank
      s |> setB GLB_PSSTAT_ACTIVE o |> wr GLB_PSIVER (psNat o 0x08 4 s) |> putMarker o false o

/-- A check window is in progress and the watchdog expires (R420). -/
def windowWdg (s : State) : State :=
  if s.store.winOpen then modStore (fun m => { m with winFail := m.winFail ||| 16 }) s else s

end Sys2Proof.Machine
end

