-- ==== Sys2Proof/Machine/Collect.lean ====
section
/-!
DEFINITION. The fault collector (R518-R544): escalation, reactions, fences and their release, safe stop, entry to Fawn mode, the
history queue and the event log, and the error pins. `settle` is what the collector does with the events and log entries of
one command.
-/

namespace Sys2Proof.Machine

open Sys2Proof

/-- The collector changed. -/
def modFlt (f : Flt → Flt) (s : State) : State := { s with flt := f s.flt }

/-- The bit of source `n` in FLT_PEND or FLT_SEV. -/
def pendBit (n : Nat) : Fld := if n < 32 then ⟨FLT_PEND0, n, n⟩ else ⟨FLT_PEND1, n - 32, n - 32⟩
def sevBit (n : Nat) : Fld := if n < 32 then ⟨FLT_SEV0, n, n⟩ else ⟨FLT_SEV1, n - 32, n - 32⟩
/-- The nibble of source `n` in FLT_SEVRT (R524). -/
def sevNibble (n : Nat) : Fld := ⟨FLT_SEVRT (n / 8), 4 * (n % 8) + 3, 4 * (n % 8)⟩

/-! ## The log (R536-R540) -/

/-- An entry is written to the log RAM (R539, R540). -/
def logWrite (e : LogEnt) (s : State) : State :=
  if flag LOG_CTL_MODE s && decide (256 ≤ s.flt.log.length) then incSat LOG_STAT_LOSTC s
  else
    let s := if 255 ≤ s.flt.log.length then setF LOG_STAT_FULL 1 s else s
    modFlt (fun f => { f with log := (e :: f.log).take 256 })
      (s |> wr LOG_WCNT (rd LOG_WCNT s + 1) |> setF LOG_STAT_NEXT ((rd LOG_WCNT s + 1) % 256))

/-- The entries of this clock are written in ascending TYPE, then CODE (R539). -/
def flushLog (s : State) : State :=
  match s.logq with
  | [] => s
  | l => (sortBy (fun e => e.typ * 256 + e.code) l).foldl (fun s e => logWrite e s) { s with logq := [] }

/-- The entry of a log slot; an empty slot reads 0 (R106 step 6, R540). -/
def logAt (slot : Nat) (s : State) : LogEnt :=
  let w := rd LOG_WCNT s
  let back := (w + 256 - 1 - slot % 256) % 256
  (s.flt.log[back]?).getD ⟨0, 0, 0, 0, 0⟩

/-- The 16 bytes of an entry (R537). -/
def logBytes (e : LogEnt) : List Byte :=
  leBytes 6 e.us ++ leBytes 1 e.typ ++ leBytes 1 e.code ++ leBytes 4 e.frm.toNat ++ leBytes 4 e.det.toNat

/-- LOG_SELECT (R540). -/
def logSelectOp (slot : Nat) (s : State) : State :=
  modFlt (fun f => { f with logEnt := logAt slot s }) (setF LOG_SEL_SLOT slot s)

/-- LOG_CLEAR (R539). -/
def logClearOp (s : State) : State :=
  modFlt (fun f => { f with log := [] })
    (s |> setF LOG_STAT_NEXT 0 |> setF LOG_STAT_FULL 0 |> setF LOG_STAT_LOSTC 0 |> wr LOG_WCNT 0)

/-- LOG_PUT (R538): an engine's entry carries its number. -/
def logPutOp (who : Option EngId) (v : Nat) (s : State) : State :=
  match who with
  | some e => logPut 9 (engNo e * 64 + v % 64) (bitsOf v 31 8) s
  | none => logPut 0xA (v % 256) (bitsOf v 31 8) s

/-! ## Conditions (R527, R530, R541) -/

/-- Is the condition of source `n` still in force, so that its pending bit cannot be cleared (R527)? -/
def condOn (n : Nat) (s : State) : Bool :=
  if n = srcPkOv then s.chg.ovOn else if n = srcPkOc then s.chg.ocOn else if n = srcHbusOv then s.hub.ovOn
  else if n = srcHbusUv then s.hub.uvOn else if n = srcThWarn then flag THM_STAT_WARN s
  else if n = srcThStop then s.chg.tstopOn else if n = srcThHard then s.chg.thardOn else false

/-- The ERR condition (R541). -/
def errCond (s : State) : Bool :=
  inFawn s || (List.range 37).any (fun n => flag (pendBit n) s && flag (FLT_CFG_ERRM n) s)

/-- The events of source `n` in this clock (R543). -/
def evNow (n : Nat) (s : State) : Option EvWas := s.flt.last.find? (fun e => e.src == n && e.clk == clockNow s)

/-- The window W of source `n` in µs: 0 counts as 1 (R544). -/
def winUs (n : Nat) (s : State) : Nat := 100000 * max 1 (fld (FLT_CFG_W n) s)

/-- The source becomes severe (R523). -/
def promote (n : Nat) (s : State) : State :=
  s |> setF (sevBit n) 1 |> setF FLT_STAT_SEVEVT 1 |> incSat (sevNibble n)

/-- A write of 1s to a FLT_PEND register (R527, R530). A bit whose source raises an event in this clock stays (R543). -/
def pendClear (hi : Bool) (v : Nat) (s : State) : State :=
  let s := forN 32 (fun i s =>
    let n := if hi then 32 + i else i
    if bitOf v i && !condOn n s && (evNow n s).isNone then setF (pendBit n) 0 s else s) s
  modFlt (fun f => { f with stops := f.stops.filter (fun n => flag (pendBit n) s) }) s

/-- Source `n` is no longer severe, its counter is 0 and its window closes (R524). Its events of this clock come after the clear and count in
a new window (R543): what made the source severe among them is undone unless they reach N again. The reaction that ran and its entries
stay (DEDUCED, log entry 213). -/
def sevEnd (n : Nat) (s : State) : State :=
  let t := modFlt (fun f => { f with wins := f.wins.filter (fun w => w.src != n) }) (setF (sevBit n) 0 s)
  match evNow n s with
  | none => t
  | some e =>
    let t := modFlt (fun f => { f with wins := f.wins ++ [⟨n, e.n, nowUs s + winUs n s⟩] }) t
    let t := match e.prom with
      | some (evt, rt) => t |> setB FLT_STAT_SEVEVT evt |> setF (sevNibble n) rt
      | none => t
    if fld (FLT_CFG_N n) s ≠ 0 ∧ fld (FLT_CFG_N n) s ≤ e.n then promote n t else t

/-- A write of 1s to a FLT_SEV register (R524). -/
def sevClear (hi : Bool) (v : Nat) (s : State) : State :=
  forN 32 (fun i s => if bitOf v i then sevEnd (if hi then 32 + i else i) s else s) s

/-- Levels of ERR and ERRN (R63, R541). -/
def errPins (s : State) : Bool × Bool :=
  let up := s.sup.power == .on && s.clk.running && flag GLB_SUPSTAT_VIOOK s
  let bad := errCond s
  if fuseErrmode s = 0 then (up && !bad, false)
  else if !up then (false, false)
  else if bad then (false, true)
  else if fuseErrmode s = 2 && s.sup.errSwap then (false, true) else (true, false)

/-- The ERR condition ends a toggle's half-period at once, and the toggle restarts from ERR 1 (R541). -/
def errSync (s : State) : State := if s.sup.errSwap && errCond s then { s with sup := { s.sup with errSwap := false } } else s

/-- ERR_TOGGLE (R541). -/
def errToggleOp (s : State) : State :=
  if fuseErrmode s = 2 && s.sup.power == .on && s.clk.running then
    { s with sup := { s.sup with errSwap := !errCond s && !s.sup.errSwap } }
  else s

/-! ## Entry to Fawn mode (R531, R532) -/

/-- A Fawn cause is noted with its clock (R543). -/
def causeNote (cause src : Nat) (s : State) : State := modFlt (fun f => { f with causeAt := some (clockNow s, cause, src) }) s

/-- A new cause while in Fawn mode: it is logged; in the clock of an accepted exit it withdraws the exit and is recorded (R531,
R543). -/
def fawnAgain (cause src : Nat) (s : State) : State :=
  let s := logPut 4 3 (cause + 256 * src) (causeNote cause src s)
  if s.flt.exitReq && s.flt.exitAt == clockNow s then
    modFlt (fun f => { f with exitReq := false }) (s |> setF FLT_FAWN_SRC src |> setF FLT_FAWN_CAUSE cause)
  else s

/-- Entry to Fawn mode. An entry while in Fawn mode is logged and changes nothing else. An update that is armed is withdrawn and
a check window fails (R424). -/
def fawnEnter (cause src : Nat) (s : State) : State :=
  if inFawn s then fawnAgain cause src s
  else
    let own := !svc s
    let s := s |> causeNote cause src |> setF FLT_STAT_FAWN 1 |> setF FLT_FAWN_SRC src |> setF FLT_FAWN_CAUSE cause |> logPut 4 1 (cause + 256 * src)
      |> notify 3
    let s := modFlt (fun f => { f with exitReq := false })
      { s with sup := { s.sup with hsqLive := false }, hub := { s.hub with keep := own && (hoHold s || s.hub.hb.isSome) } }
    let s := pkFawn s
    let s := s |> withdrawArm |> windowFawn |> chgRow2
    let s := allEng.foldl (fun s e => haltEngine e 0xB s) s
    s |> wdgFawn |> lnkFawn |> dgFollow s.pwr.vPk |> rsvCheck |> lampSync |> errSync

/-! ## Fences (R528, R529) -/

/-- The fence of unit `u`; one that is fenced already stays so (R543). -/
def fenceUnit (u : Nat) (s : State) : State :=
  if fencedU u s then s
  else
    let s := s |> setF ⟨FLT_FENCE, u, u⟩ 1 |> logPut 8 1 u
    let s :=
      if u < 4 then fenceEngine (engOf u) s
      else if u = uPkb then pkbFence s
      else if u = uTcp then tcpFence s
      else if u = uImp then impFence s
      else if u = uTmr then s
      else if u = uLnk then lnkFence s
      else fencePhase (u - 9) s
    if (u = 0 || u = 1) && fencedU 0 s && fencedU 1 s then fawnEnter 3 0xFF s else s

/-- The start of an engine that waits for the next frame (R117, R528). -/
def startNext (e : EngId) (s : State) : State :=
  modFlt (fun f => { f with relEng := f.relEng.filter (fun k => k != engNo e) ++ [engNo e] }) s

/-- The fence of CSQ or HSQ is released at the end of Fawn mode (R535): its rings and its pending marks are reset as in an engine reset
(R117), and its start follows. -/
def fawnUnfence (u : Nat) (s : State) : State :=
  if fencedU u s then
    s |> setF ⟨FLT_FENCE, u, u⟩ 0 |> logPut 8 2 u |> engRings (engOf u) |> engMarks (engOf u)
      |> modEng (engOf u) (fun o => { o with phase := .halted }) |> setF GLB_RSTCAUSE_ENGRST 1
  else s

/-- The engine reset of a fence's release (R117, R528). In the clock of a swap or a rollback the larger reset applies, and the engine,
free now, starts with the others in this frame (R118). -/
def releaseEngine (e : EngId) (s : State) : State :=
  setF GLB_RSTCAUSE_ENGRST 1 (if restartClock s then startEngine e s else s |> resetEngine e |> startNext e)

/-- The release of unit `u` (R528). -/
def releaseUnit (u : Nat) (s : State) : State :=
  let s := s |> setF ⟨FLT_FENCE, u, u⟩ 0 |> logPut 8 2 u
  if u < 4 then releaseEngine (engOf u) s
  else if u = uPkb then pkbUnfence s
  else if u = uTcp then tcpUnfence s
  else if u = uLnk then lnkUnfence s
  else if 9 ≤ u then releasePhase (u - 9) s
  else s

/-- The release of unit `u` by a write (R528). In the clock of an event of a severe source that fences the unit the release comes first, and
the unit is fenced again; one that only that event has fenced is left as it is (R543). -/
def releaseNow (u : Nat) (s : State) : State :=
  let l := (s.flt.last.filter (fun e => e.clk == clockNow s)).filterMap (fun e => e.unit)
  if l.contains (u, false) then s else if l.contains (u, true) then fenceUnit u (releaseUnit u s) else releaseUnit u s

/-- FENCE_RELEASE: a write to FLT_FREL by `who` (R528, R529). -/
def fenceReleaseOp (who : Option EngId) (v : Nat) (s : State) : State :=
  forN 15 (fun u s =>
    if !(bitOf v u && fencedU u s) then s
    else if decide (u < 4) && inFawn s then setF FLT_STAT_CFGREF 1 s
    else if who.any (fun e => engNo e == u) then s
    else releaseNow u s) s

/-! ## Events (R519-R525) -/

/-- Does source `n` raise only class C events, so that its REACT is held and never applied (R520)? -/
def onlyC (n : Nat) : Bool := n == srcLnkCrc || n == srcThWarn || n == srcStuckIn || n == srcImpRange

/-- The reaction to an event of class `cls` (R519-R521): fence is notify where the event names no unit. -/
def reactionOf (n cls : Nat) (unit : Option Nat) (severe : Bool) (s : State) : Nat :=
  let r := if onlyC n then 0 else fld (FLT_CFG_REACT n) s
  let x := if severe then max r (fld (FLT_CFG_SEVR n) s) else if cls = 1 then 0 else r
  if x = 2 && unit.isNone then 1 else x

/-- The escalation counter of source `n` with this event counted (R523). A window whose time is over closes first (R543). -/
def winCount (n : Nat) (s : State) : Nat × State :=
  match s.flt.wins.find? (fun w => w.src == n && decide (nowUs s < w.till)) with
  | some w =>
    (w.count + 1, modFlt (fun f => { f with wins := f.wins.map (fun x => if x.src = n then { x with count := w.count + 1 } else x) }) s)
  | none => (1, modFlt (fun f => { f with wins := f.wins.filter (fun w => w.src != n) ++ [⟨n, 1, nowUs s + winUs n s⟩] }) s)

/-- An event of this clock is noted, as it finds `s` (R543): does it make its source severe (`promoted`), and does it fence its unit? -/
def evNote (e : FEv) (promoted fences : Bool) (s : State) : EvWas :=
  let old := evNow e.src s
  { src := e.src, clk := clockNow s, n := (old.map (fun x => x.n)).getD 0 + 1
    prom := if promoted then some (flag FLT_STAT_SEVEVT s, fld (sevNibble e.src) s) else old.bind (fun x => x.prom)
    unit := (old.bind (fun x => x.unit)).or (if fences then e.unit.map (fun u => (u, fencedU u s)) else none) }

/-- What is noted of the events of a source takes the place of what was. -/
def evPut (w : EvWas) (s : State) : State := modFlt (fun f => { f with last := w :: f.last.filter (fun x => x.src != w.src) }) s

/-- The history and log entries of an event under the rate rule (R536, R538, R539). -/
def eventEntry (e : FEv) (react : Nat) (severe promoted : Bool) (s : State) : State :=
  if !promoted && s.flt.seenSf.contains e.src then incSat FLT_STAT_MERGED s
  else
    let u := e.unit.getD 15
    let a := e.src * 2 ^ 26 + e.cls * 2 ^ 24 + b2n severe * 2 ^ 23 + react * 2 ^ 20 + u * 2 ^ 16 + e.det % 65536
    modFlt (fun f => { f with
      hist := ((BitVec.ofNat 32 a, s.clk.frm) :: f.hist).take 16
      seenSf := if f.seenSf.contains e.src then f.seenSf else e.src :: f.seenSf })
      (logPut 1 e.src (e.det % 65536 * 2 ^ 16 + u * 2 ^ 12 + react * 2 ^ 9 + b2n severe * 2 ^ 8 + e.cls * 2 ^ 6) s)

/-- A safe stop is in force by source `n` (R530). -/
def stopMark (n : Nat) (s : State) : State :=
  modFlt (fun f => { f with stops := if f.stops.contains n then f.stops else f.stops ++ [n] }) s

/-- A safe stop (R530). -/
def safeStop (n : Nat) (s : State) : State := stopMark n (chgRow3 9 s)

/-- Is source `n` marked SS (R520)? -/
def srcSS (n : Nat) : Bool := (srcRow n).any (fun r => r.ss)

/-- What the entry of Fawn mode by an event includes of the reactions below it (R525): the fence of its unit, and of a source marked SS the
safe stop. Of the charge rows of one moment row 2 comes before row 3 (R255), so the safe stop acts as R530 has it from the next tick
on. A further Fawn reaction in Fawn mode includes nothing (R533). -/
def fawnBelow (e : FEv) (s : State) : State :=
  if inFawn s then s
  else
    let s := match e.unit with
      | some u => fenceUnit u s
      | none => s
    if srcSS e.src then stopMark e.src s else s

/-- One event, its Fawn reaction apart (R519). Each reaction includes every reaction below it (R525): a safe stop and Fawn mode fence
the event's unit too, where it names one (DEDUCED, log entry 148). In Fawn mode a Fawn reaction logs only (R533). -/
def handleEvent (e : FEv) (s : State) : State × Bool :=
  let old := s
  let s := setF (pendBit e.src) 1 s
  let (c, s) := winCount e.src s
  let was := flag (sevBit e.src) s
  let promoted := !was && fld (FLT_CFG_N e.src) s != 0 && c == fld (FLT_CFG_N e.src) s
  let s := if promoted then promote e.src s else s
  let severe := was || promoted
  let r := reactionOf e.src e.cls e.unit severe s
  let s := evPut (evNote e promoted (severe && decide (2 ≤ r)) old) (eventEntry e r severe promoted s)
  let s := if 1 ≤ r ∧ !(r == 4 && inFawn s) then s |> setF FLT_STAT_NOTEVT 1 |> notify 0 else s
  let s := match r, e.unit with
    | 2, some u => fenceUnit u s
    | 3, some u => safeStop e.src (fenceUnit u s)
    | 3, none => safeStop e.src s
    | 4, _ => fawnBelow e s
    | _, _ => s
  (s, r == 4)

/-- The events of one clock in ascending source number; a Fawn reaction comes last (R519). -/
def handleAll (s : State) : State :=
  let evs := sortBy (fun e => e.src) s.evq
  let (s, fawn) := evs.foldl (fun (acc : State × List Nat) e =>
    let (t, f) := handleEvent e acc.1
    (t, if f then acc.2 ++ [e.src] else acc.2)) ({ s with evq := [] }, [])
  errSync (fawn.foldl (fun s n => fawnEnter 4 n s) s)

/-- Clock after clock until no event is left, at most `n` of them (R519); each clock's log entries are written at its end (R539). -/
def handleClocks : Nat → State → State
  | 0, s => s
  | n + 1, s => if s.evq.isEmpty then s else handleClocks n (flushLog (handleAll s))

/-- The collector takes the events of a command, and the log its entries. -/
def settle (s : State) : State := flushLog (handleClocks 6 s)

/-- ESCALATION_WINDOW_CLOSE (R523): W after the event that opened it. -/
def windowCloseOp (n : Nat) (s : State) : State :=
  modFlt (fun f => { f with wins := f.wins.filter (fun w => w.src != n || decide (nowUs s < w.till)) }) s

/-! ## Configuration and injection (R526, R542) -/

/-- May FLT_CFG of source `n` take `v` (R526)? -/
def faultCfgOk (n v : Nat) : Bool :=
  match srcRow n with
  | none => true
  | some r =>
    let a := v % 8
    let b := bitsOf v 6 4
    let ok := fun x => decide (r.min ≤ x) && decide (x ≤ 4) && (x != 2 || r.unit) && (x != 3 || r.ss)
    ok a && ok b

/-- FAULT_CONFIG_WRITE (R518, R526, R544). -/
def faultCfgOp (n v : Nat) (s : State) : State :=
  if 37 ≤ n || flag FLT_LOCK_LOCK s then s
  else if faultCfgOk n v then
    s |> parWrite (FLT_CFG n) 0x1FFFF77 |> setF (FLT_CFG_REACT n) (v % 8) |> setF (FLT_CFG_SEVR n) (bitsOf v 6 4)
      |> setF (FLT_CFG_N n) (bitsOf v 15 8) |> setF (FLT_CFG_W n) (bitsOf v 23 16) |> setF (FLT_CFG_ERRM n) (bitsOf v 24 24) |> errSync
  else setF FLT_STAT_CFGREF 1 s

/-- FAULT_INJECTION_ARM: a write to FLT_INJ (R542). A write of 1 to DONE clears it. -/
def injectOp (v : Nat) (s : State) : State :=
  let s := if bitOf v 14 then setF FLT_INJ_DONE 0 s else s
  s |> setF FLT_INJ_NBIT (bitsOf v 9 8) |> setF FLT_INJ_TGT (v % 8) |> setF FLT_INJ_ARM (bitsOf v 15 15)

/-- A write to FLT_CMD (R531, R534): the exit request is the host's, and takes effect at the next tick. -/
def exitOk (s : State) : Bool :=
  inFawn s && flag (psValid (actBank s)) s &&
  match fld FLT_FAWN_CAUSE s with
  | 2 | 3 | 5 | 6 => true
  | 4 => !flag (pendBit (fld FLT_FAWN_SRC s)) s
  | 7 => !flag GLB_CLKSTAT_CLKFAIL s
  | _ => false

/-- FAWN (R531): cause 0x5. -/
def fawnOp (s : State) : State := fawnEnter 5 0xFF s

/-- The Fawn cause of this clock, if one has come in it (R543). -/
def causeNow (s : State) : Option (Nat × Nat) := (s.flt.causeAt.filter (fun c => c.1 == clockNow s)).map (fun c => c.2)

/-- FAWNEXIT (R534): true when it is accepted. In the clock of a new Fawn cause it is withdrawn, and that cause is recorded (R543). -/
def fawnExitReq (s : State) : Bool × State :=
  if !exitOk s then (false, s)
  else
    (true, match causeNow s with
      | some (cause, src) => s |> setF FLT_FAWN_SRC src |> setF FLT_FAWN_CAUSE cause
      | none => modFlt (fun f => { f with exitReq := true, exitAt := clockNow s }) s)

/-- What the end of Fawn mode does, but for the engines' start (R117, R257, R502, R529, R535, R541). Time goes back to the HFO where
its failure was the cause (R42). Where the HFO failed while Fawn mode stood for another cause, the manual does not say what the
exit does: the part stays on the backup oscillator (the model's choice, log entry 118). -/
def fawnLeave (s : State) : State :=
  let c := fld FLT_FAWN_CAUSE s
  let src := fld FLT_FAWN_SRC s
  let s := s |> setF FLT_STAT_FAWN 0 |> setF FLT_FAWN_SRC 0 |> setF FLT_FAWN_CAUSE 0 |> logPut 4 2 (c + 256 * src) |> notify 3
  let s := modFlt (fun f => { f with exitReq := false }) { s with sup := { s.sup with boot := false } }
  let s := [0, 1].foldl (fun s u => fawnUnfence u s) s
  let s := setF GLB_IDLEFR_COUNT 0 s
  let s := if c = 7 then restagger (redivide s (lnkUnfence { s with clk := { s.clk with bkosc := false } })) else s
  s |> lnkClk |> wdgFawnExit |> chgFirst |> lampSync

/-- FAWN_EXIT (R535): at the tick after an accepted exit every engine with a non-zero ENTRY starts. -/
def fawnExitOp (s : State) : State :=
  if s.flt.exitReq && inFawn s then
    let s := allEng.foldl (fun s e =>
      let fenced := (getEng e s).phase == .fenced && (e == .pe0 || e == .pe1)
      if fenced then s else startEngine e s) (fawnLeave s)
    s |> dgFollow s.pwr.vPk |> rsvCheck
  else s

end Sys2Proof.Machine
end

