-- ==== Sys2Proof/Machine/UpdateOps.lean ====
section
/-!
DEFINITION. The steps of a hitless update at a superframe boundary (R417-R424) and the watchdog's services, check-ins and
expiry (R497-R502).
-/

namespace Sys2Proof.Machine

open Sys2Proof

/-! ## Update -/

/-- The steps of R417 after the boundary tick has come. -/
def swDone (s : State) : State := { s with clk := { s.clk with swDue := false } }

/-- The check words are cleared (R419). -/
def checkWords0 (s : State) : State := (ramStoreBytes none 0x4000 (List.replicate 16 0) s).2

/-- Steps 3-6 of R417 in the inactive bank, with KIND of the swap record. -/
def swapIn (kind : Nat) (s : State) : State :=
  let old := actBank s
  let s := restartIn (!old) kind s
  let s := s |> setF GLB_PSSTAT_PEND 0 |> setF GLB_PSSTAT_TRIAL 1 |> setF GLB_PSSTAT_SWEVT 1 |> notify 2 |> checkWords0
  modStore (fun m => { m with winOpen := true, winFail := 0, winRecovery := kind == 3, oldBank := old }) s

/-- BANK_SWAP (R417). -/
def bankSwapOp (s : State) : State :=
  if !s.clk.swDue || !flag GLB_PSSTAT_PEND s || inFawn s then s
  else if entryFenced (!actBank s) s then swDone (withdrawArm s)
  else
    let old := actBank s
    let s := swapIn 1 s
    s |> logPut 3 1 (icrc (!old) s) |> putMarker old true (!old) |> swDone

/-- The engines that fail a window at its closing tick, as a mask (R420). -/
def windowMask (s : State) : Nat × State :=
  allEng.foldl (fun (acc : Nat × State) e =>
    let s := acc.2
    if hdrEng e 0x18 s = 0 then acc
    else
      let (ok, s) :=
        match ramRead none (0x4000 + 4 * engNo e) 4 s with
        | (.inr bs, s) => (leNat bs == 0xA5C30000 + engNo e, s)
        | (.inl _, s) => (false, s)
      (if ok then acc.1 else acc.1 ||| 2 ^ engNo e, s))
    ((s.store.winFail % 16) ||| (if bitOf s.store.winFail 4 then startedMask s else 0), s)

/-- CHECK_WINDOW_CLOSE (R420-R423): commit, rollback, or the return to Fawn mode after a failed image recovery. TBANK of the marker then names
the active bank (the model's choice, log entry 214). -/
def windowEndOp (s : State) : State :=
  if !s.clk.swDue || !s.store.winOpen then s
  else
    let (m, s) := windowMask s
    let b := actBank s
    let s := swDone s
    if m = 0 then
      modStore (fun x => { x with
          winOpen := false, winFail := 0, winRecovery := false
          commitAt := some (clockNow s, s.store.winRecovery, flag GLB_PSSTAT_CMTEVT s) })
        (s |> putMarker b false b |> setF GLB_PSSTAT_TRIAL 0 |> setF GLB_PSSTAT_CMTEVT 1 |> setF GLB_PSSTAT_CHKFAIL 0 |> notify 2
          |> logPut 3 2 (icrc b s))
    else if s.store.winRecovery then s |> windowFailed m b |> fawnEnter 8 0xFF
    else
      let o := s.store.oldBank
      s |> windowFailed m b |> restartIn o 2 |> putMarker o false o |> setF GLB_PSSTAT_RBEVT 1 |> notify 2

/-- IMAGE_RECOVERY (R423, R535). -/
def imageRecoveryOp (s : State) : State :=
  if !s.clk.swDue || !flag GLB_PSSTAT_PEND s || !inFawn s || !(fld FLT_FAWN_CAUSE s == 1 || fld FLT_FAWN_CAUSE s == 8) then s
  else
    let s := fawnLeave s
    let s := swapIn 3 s
    let b := actBank s
    s |> logPut 3 3 (icrc b s) |> putMarker b false b |> dgFollow s.pwr.vPk |> rsvCheck |> swDone

/-! ## Watchdog -/

/-- Expiries within the last 10 s (R502). -/
def wdgExps (s : State) : List Nat := s.wdg.exps.filter (fun t => decide (nowUs s < t + 10000000))

/-- An expiry in the tick of a swap lets the swap complete (R424): where the swap's own row has still to come, it runs first. -/
def swapFirst (s : State) : State := if s.clk.sft == 0 then bankSwapOp s else s

/-- A window that was committed in this clock fails by an expiry of the same clock, and its failure is carried out at once (R424). The
commit's log entry and its notification have gone out and stay (DESIGN CHOICE, log entry 169). -/
def commitUndo (s : State) : State :=
  match s.store.commitAt with
  | some (t, rec', evt) =>
    if t = clockNow s then
      { s with clk := { s.clk with swDue := true } } |> setF GLB_PSSTAT_TRIAL 1 |> setB GLB_PSSTAT_CMTEVT evt
        |> modStore (fun m => { m with winOpen := true, winFail := 16, winRecovery := rec', commitAt := none }) |> windowEndOp
    else s
  | none => s

/-- The engines start again by an expiry (R117), unless a swap or a rollback of this clock has restarted them (R118, R424) or the
window's failure has brought Fawn mode; then the watchdog starts its first period (R502). -/
def wdgRestart (s : State) : State :=
  if inFawn s then s
  else wdgFirst (if restartClock s then s else allEng.foldl (fun s e => startNext e s) (resetAllEngines s))

/-- The watchdog expires (R501-R503, R424). -/
def wdgExpire (s : State) : State :=
  let s := commitUndo (swapFirst s)
  let miss := wdgMissing s
  let l := nowUs s :: wdgExps s
  let s := s |> raise' srcWdgExp 3 none miss |> setF WDG_STAT_EXPEVT 1 |> setF WDG_ERR_LASTMISS miss
    |> setF GLB_RSTCAUSE_WDG 1 |> incSat WDG_RCNT_COUNT |> setF WDG_Q_Q (wdgNextQ (fld WDG_Q_Q s))
  let s := { s with wdg := { s.wdg with exps := l.take 3 } }
  let s := if restartClock s then s else windowWdg s
  if 3 ≤ l.length then fawnEnter 2 0xFF s else wdgRestart s

/-- The collector's part of what a bad service may have to give back (R501). -/
def wdgEvNow (s : State) : WdgEv :=
  { pend := flag (pendBit srcWdgBad) s, sev := flag (sevBit srcWdgBad) s, sevEvt := flag FLT_STAT_SEVEVT s
    notEvt := flag FLT_STAT_NOTEVT s, fault := flag ⟨HST_NPEND, 0, 0⟩ s, rt := fld (sevNibble srcWdgBad) s
    win := s.flt.wins.find? (fun w => w.src == srcWdgBad), seen := s.flt.seenSf.contains srcWdgBad }

/-- Will the next event of WDG_BAD make an entry (R539): the first of the superframe, or one that makes the source severe? -/
def wdgEnters (s : State) : Bool :=
  let wait := (s.evq.filter (fun e => e.src == srcWdgBad)).length
  let n := fld (FLT_CFG_N srcWdgBad) s
  (wait == 0 && !s.flt.seenSf.contains srcWdgBad) ||
    (!flag (sevBit srcWdgBad) s && n != 0 && (winCount srcWdgBad s).1 + wait == n)

/-- The services of this clock have one bad service more, of which `third` ends the period. -/
def wdgBadNote (third : Bool) (s : State) : State :=
  let f := fun (b : WdgBack) =>
    { b with
      bads := b.bads + 1, ents := b.ents + b2n (wdgEnters s), done := b.done || third
      ev := some (b.ev.getD (wdgEvNow s)) }
  { s with wback := s.wback.map f }

/-- The period has ended in clock `c`. -/
def wdgEnded (c : Nat) (s : State) : State := { s with wdg := { s.wdg with endAt := some c } }

/-- A bad service in clock `c` (R498); the third of a period ends it (R501). -/
def wdgBad (c : Nat) (s : State) : State :=
  let n := fld WDG_STAT_BADCNT s + 1
  let s := wdgBadNote (decide (3 ≤ n)) s
  let s := s |> setF WDG_STAT_BADCNT (min 2 n) |> setF WDG_STAT_BADEVT 1 |> raise' srcWdgBad 2 none 0
  if 3 ≤ n then wdgExpire (wdgEnded c s) else s

/-- The record of clock `c`, if there is one, is changed by `f`. -/
def wdgNote (c : Nat) (f : WdgBack → WdgBack) (s : State) : State :=
  { s with wback := s.wback.map (fun b => if b.clk = c then f b else b) }

/-- A service of clock `c` is noted, and a check-in of it (R501, R503). -/
def wdgNoteSvc (c : Nat) (v : Word) (s : State) : State := wdgNote c (fun b => { b with svcs := b.svcs ++ [v] }) s
def wdgNoteChk (c : Nat) (who : Option EngId) (k : Nat) (s : State) : State :=
  wdgNote c (fun b => { b with chks := b.chks ++ [(who, k)] }) s

/-- The record of clock `c` is opened, where it is not open yet. -/
def wdgOpen (c : Nat) (s : State) : State :=
  if s.wback.any (fun b => b.clk == c) then s
  else
    let b : WdgBack :=
      { clk := c, was := s.toBlock, svcs := [], chks := [], valid := false, done := false, bads := 0, ents := 0, ev := none }
    { s with wback := some b }

/-- A field as the state `o` has it. -/
def fldBack (f : Fld) (o s : State) : State := setF f (fld f o) s

/-- The first `n` members of `l` that satisfy `p` are left out. -/
def dropFirst {α : Type} (p : α → Bool) : Nat → List α → List α
  | 0, l => l
  | _, [] => []
  | n + 1, x :: l => if p x then dropFirst p n l else x :: dropFirst p (n + 1) l

/-- The event log without the last `n` entries of WDG_BAD of this microsecond; one that the full log had turned away is not counted as
lost (R539, R540). -/
def logBack (n : Nat) (s : State) : State :=
  let l := dropFirst (fun (e : LogEnt) => e.typ == 1 && e.code == srcWdgBad && e.us == nowUs s % 2 ^ 48) n s.flt.log
  let k := s.flt.log.length - l.length
  modFlt (fun f => { f with log := l })
    (s |> wr LOG_WCNT (rd LOG_WCNT s - k) |> setF LOG_STAT_NEXT ((rd LOG_WCNT s - k) % 256)
      |> setF LOG_STAT_LOSTC (fld LOG_STAT_LOSTC s - (n - k)))

/-- The events of the bad services of a clock are taken back (R501): pending and severe bits, counts, entries and notification. -/
def wdgEvBack (b : WdgBack) (s : State) : State :=
  match b.ev with
  | none => s
  | some v =>
    let up := flag (sevBit srcWdgBad) s && !v.sev
    let s := when' up (fun t => t |> setB FLT_STAT_SEVEVT v.sevEvt |> setF (sevNibble srcWdgBad) v.rt) s
    let s := s |> setB (pendBit srcWdgBad) v.pend |> setB (sevBit srcWdgBad) v.sev |> setB FLT_STAT_NOTEVT v.notEvt
      |> setB ⟨HST_NPEND, 0, 0⟩ v.fault |> setF FLT_STAT_MERGED (fld FLT_STAT_MERGED s - (b.bads - b.ents)) |> logBack b.ents
    let s := modFlt (fun f => { f with
      wins := f.wins.filter (fun w => w.src != srcWdgBad) ++ v.win.toList
      last := f.last.filter (fun x => x.src != srcWdgBad)
      seenSf := if v.seen then f.seenSf else f.seenSf.filter (fun n => n != srcWdgBad)
      hist := dropFirst (fun (h : Word × Word) => h.1.toNat / 2 ^ 26 == srcWdgBad) b.ents f.hist }) s
    { s with evq := s.evq.filter (fun e => e.src != srcWdgBad) }

/-- Did a service of the clock of `b` make the period expire, or Fawn mode be entered (R498, R519)? -/
def wdgFar (b : WdgBack) (s : State) : Bool :=
  b.done || (inFawn s && !inFawn (b.old s) && fld FLT_FAWN_CAUSE s == 4 && fld FLT_FAWN_SRC s == srcWdgBad)

/-- What the services of the clock of `b` changed, where that is the watchdog's alone, is taken back (R501). -/
def wdgUndo (b : WdgBack) (s : State) : State :=
  let o := b.old s
  { s with wdg := { s.wdg with cyc := o.wdg.cyc, start := o.wdg.start, task := o.wdg.task } }
    |> fldBack WDG_STAT_BADCNT o |> fldBack WDG_STAT_SVCEVT o |> fldBack WDG_STAT_OPEN o |> fldBack WDG_STAT_BADEVT o
    |> fldBack WDG_Q_Q o |> fldBack WDG_CHKD_MASK o |> fldBack WDG_ERR_MISS o |> fldBack WDG_ERR_WRONG o |> fldBack WDG_ERR_FOREIGN o
    |> fldBack WDG_ERR_DUP o |> wdgEvBack b

/-- The part as it was before the first service of the clock of `b`; the time, the frame, the supply, the fuses and the host interface are as they
are. -/
def wdgWas (b : WdgBack) (s : State) : Block :=
  { b.was with
    hst := s.hst, clk := { b.was.clk with us := s.clk.us, sft := s.clk.sft, frm := s.clk.frm, fidx := s.clk.fidx }
    sup := { b.was.sup with power := s.sup.power, fuses := s.sup.fuses } }

/-- The services of the clock of `b` are taken back (R501). Where one made the period expire or Fawn mode be entered, the whole part is again
what it was before the first of them (log entries 158, 216). -/
def wdgTakeBack (b : WdgBack) (s : State) : State :=
  { (if wdgFar b s then { s with toBlock := wdgWas b s } else wdgUndo b s) with wback := none }

/-- A service that passes its checks, and what the clock's other writes may need of it (R497, R503). -/
def wdgServed (s : State) : State :=
  wdgValid { s with wback := s.wback.map (fun b => { b with valid := true }) }

/-- WATCHDOG_SERVICE in clock `c` (R497): a service outside a period has nothing to answer, and one in the clock in which a period has
ended is discarded (R501). -/
def wdgServiceOp (c : Nat) (v : Word) (s : State) : State :=
  if !flag WDG_STAT_RUN s || s.wdg.endAt == some c then wdgNoteSvc c v s
  else
    let s := wdgNoteSvc c v (wdgOpen c s)
    if wdgMissing s ≠ 0 then wdgBad c (setF WDG_ERR_MISS (fld WDG_ERR_MISS s ||| wdgMissing s) s)
    else if v ≠ wdgToken s.wdg.key (fld WDG_Q_Q s) then wdgBad c (setF WDG_ERR_WRONG 1 s)
    else wdgServed s

/-- Is the check-in of task `k` by `who` a bad service, and what does it set (R499)? -/
def wdgChkBad (who : Option EngId) (k : Nat) (s : State) : Option (Fld × Nat) :=
  let w := match who with | some e => engNo e | none => 4
  if wdgOwner k s != some w then some (WDG_ERR_FOREIGN, 1)
  else if bitOf (fld WDG_CHKD_MASK s) k then some (WDG_ERR_DUP, putBit (fld WDG_ERR_DUP s) k true)
  else none

/-- A check-in of task `k` by `who` in clock `c` (R499); a bad one in the clock in which a period has ended is discarded as a service is
(R501). -/
def wdgCheck (c : Nat) (who : Option EngId) (k : Nat) (s : State) : State :=
  if !flag WDG_STAT_RUN s then wdgNoteChk c who k s
  else
    match wdgChkBad who k s with
    | none => setF WDG_CHKD_MASK (putBit (fld WDG_CHKD_MASK s) k true) (wdgNoteChk c who k s)
    | some (f, x) => if s.wdg.endAt == some c then wdgNoteChk c who k s else wdgBad c (setF f x (wdgNoteChk c who k (wdgOpen c s)))

/-- Check-ins in their order. -/
def wdgChecks (c : Nat) (l : List (Option EngId × Nat)) (s : State) : State := l.foldl (fun t x => wdgCheck c x.1 x.2 t) s

/-- WATCHDOG_CHECKIN in clock `c` (R499, R503): where services of the same clock came first, they are judged again, in their order, after the
check-ins. -/
def wdgCheckinOp (c : Nat) (who : Option EngId) (k : Nat) (s : State) : State :=
  match s.wback.filter (fun b => b.clk == c && !b.svcs.isEmpty) with
  | some b => b.svcs.foldl (fun t v => wdgServiceOp c v t) (wdgChecks c (b.chks ++ [(who, k)]) (wdgTakeBack b s))
  | none => wdgCheck c who k s

/-- The part as the end of the period in this clock finds it (R501): the services of the clock are taken back, and its check-ins, the bad ones
apart, have come before. -/
def wdgAtEnd (s : State) : State :=
  match s.wback.filter (fun b => b.clk == clockNow s) with
  | some b => wdgChecks (clockNow s) b.chks (wdgEnded (clockNow s) (wdgTakeBack b s))
  | none => wdgEnded (clockNow s) s

/-- WATCHDOG_EXPIRY (R501): the end of a period without a valid service. A service of the same clock loses to it, whichever of the two
commands comes first. -/
def wdgExpiryOp (s : State) : State :=
  let u := wdgAtEnd s
  if flag WDG_STAT_RUN u && !inFawn u && lfoMay u.wdg.cyc u then wdgExpire u else s

end Sys2Proof.Machine
end

