-- ==== Sys2Proof/Machine/SupplyOps.lean ====
section
/-!
DEFINITION. Supplies, start-up and ship mode (R96-R128): the AO island, power-on, the driver supply, bank selection, loss of
VCC, ship mode, WAKE and the option fuses.
-/

namespace Sys2Proof.Machine

open Sys2Proof

/-- The supplies changed. -/
def modSup (f : Sup → Sup) (s : State) : State := { s with sup := f s.sup }

/-- The part runs from VCC: the start-up or the frames. -/
def vccOn (s : State) : Bool := s.sup.power == .starting || s.sup.power == .on

/-! ## Option fuses (R113-R115) -/

/-- The register field of fuse field `i`. -/
def fuseFld (i : Nat) : Fld :=
  match i with
  | 0 => GLB_FUSE0_WDGST | 1 => GLB_FUSE1_ERRMODE | 2 => GLB_FUSE0_VPKCEIL | 3 => GLB_FUSE0_IPKCEIL
  | 4 => GLB_FUSE0_VHBCEIL | 5 => GLB_FUSE0_FHOLD | 6 => GLB_FUSE1_FILIM | 7 => GLB_FUSE1_SRCPRIO
  | 8 => GLB_FUSE1_LEADEL | 9 => GLB_FUSE1_SHARE | _ => GLB_FUSE1_OFS

/-- The code that a copy of a field reads: 0 while its mark is clear. -/
def copyCode (mark : Bool) (code : Nat) : Nat := if mark then code else 0

/-- The decoded value of a code of VPKCEIL, IPKCEIL, VHBCEIL or FILIM, in its own steps (R113). -/
def fuseDec (i c : Nat) : Nat :=
  match i with
  | 2 => if c = 0 then 880 else c
  | 6 => if c = 0 then 20 else if c = 127 then 0 else c
  | _ => if c = 0 then 120 else c

/-- Do the two copies of a field, or their marks, disagree (R115)? -/
def fuseSplit (f : FuseCell) : Bool := f.code0 != f.code1 || f.mark0 != f.mark1

/-- The code in force for field `i` (R115). -/
def fuseCode (i : Nat) (f : FuseCell) : Nat :=
  let a := copyCode f.mark0 f.code0
  let b := copyCode f.mark1 f.code1
  if !fuseSplit f then a
  else if i = 2 || i = 3 || i = 4 || i = 6 then (if fuseDec i a ≤ fuseDec i b then a else b)
  else 0

/-- The stored field `i`. -/
def fuseCell (i : Nat) (s : State) : FuseCell := s.sup.fuses.getD i ⟨0, false, 0, false⟩

/-- FUSE0, FUSE1 and FUSESTAT from the fuse array (R113, R115). PROG reads 1 where both marks of a field are programmed; of a field
whose marks disagree the manual does not say, and it reads 0 (the model's choice, log entry 121). -/
def fuseRegs (s : State) : State :=
  forN 11 (fun i s =>
    let f := fuseCell i s
    s |> setF (fuseFld i) (fuseCode i f) |> setF ⟨GLB_FUSESTAT, i, i⟩ (b2n (f.mark0 && f.mark1))
      |> setF ⟨GLB_FUSESTAT, 16 + i, 16 + i⟩ (b2n (fuseSplit f))) s

/-- The fuse-load step (R106, R113, R115, R219): the registers; FUSE_ERR waits for the first frame. HUB_PRIO takes the fused order,
and PK_OV the fused ceiling (R262). -/
def fuseLoad (s : State) : State :=
  let s := fuseRegs s
  let s := { s with chg := { s.chg with vov := vpkceil s } }
  let s := if fld GLB_FUSESTAT_ERR s = 0 then s
    else modSup (fun u => { u with firstFrame := u.firstFrame ++ [(srcFuseErr, 0)] }) s
  s |> wr HUB_PRIO (srcprio s) |> lwr HUB_PRIO (srcprio s)

/-! ## HADDR (R69, R70) -/

/-- The strap code of a HADDR voltage in mV. The bands of 0 to 5 share their edges; a voltage on a shared edge takes the upper code
(the model's choice, log entry 119). -/
def strapCode (mv : Nat) : Nat :=
  if mv < 75 then 0 else if mv < 226 then 1 else if mv < 378 then 2 else if mv < 530 then 3 else if mv < 680 then 4
  else if mv < 830 then 5 else if mv ≤ 1000 then 6 else 7

/-- HADDR is read: s, and the address index n with the OFS fuse row. -/
def haddrRead (mv : Nat) (s : State) : State :=
  let c := strapCode mv
  modSup (fun u => { u with strap := c, nAddr := (c + fuseCode 10 (u.fuses.getD 10 ⟨0, false, 0, false⟩)) % 8 }) s

/-! ## The AO island (R103-R105) -/

/-- The RT registers (R571). -/
def rtRegs : List Nat := [GLB_RSTCAUSE, WDG_RCNT, LNK_ADDR] ++ (List.range 8).map FLT_SEVRT

/-- Everything but the AO island at its reset value (R112, R117): the RT registers, the program store, the fuses, the strap
and the WAKE filter stay. A fuse write that runs is dropped, and its field holds what it held (DESIGN CHOICE, log entry 173). -/
def vccReset (p : Power) (s : State) : State :=
  let stuck := fld GLB_WAKESTAT_STUCK s
  let t :=
    { State.reset with
      pending := s.pending
      store := { s.store with
        mkOld := none, mkFix := false, winOpen := false, winFail := 0, winRecovery := false, restartAt := none, commitAt := none
        verifying := false, scrubPos := 0 }
      sup := { s.sup with
        power := p, hSel := false, shipBegun := false, boot := false, hsqLive := false, firstFrame := [], noBank := false
        errSwap := false, drv6 := false, fuseBusy := none }
      seed := s.seed }
  setF GLB_WAKESTAT_STUCK stuck ((LNK_UID :: rtRegs).foldl (fun t a => wr a (rd a s) t) t)

/-- The levels of the four sources of the AO rail in mV, 0 where a source is not active (R103): VIO while it is valid, taken at its
3.30 V (R78), the micropower regulator with an input at 7 V, at a level of its own (the model's choice, log entry 181), the host bus
lines (R62, R80), PKD (R80). -/
def aoLevels (vio : Bool) (f : AoFeeds) : List Nat :=
  [if vio then 3300 else 0, if 7000 ≤ f.vh ∨ 7000 ≤ f.vp then max 1700 Config.aoMicro else 0, if 2200 ≤ f.bus then f.bus else 0,
    if 2500 ≤ f.pkd then f.pkd else 0]

/-- The source that carries the AO rail (R103): the highest, and of equal ones the first in AOSRC's order (the model's choice, log entry
181). -/
def aoSource (vio : Bool) (f : AoFeeds) : Option Nat :=
  let l := aoLevels vio f
  let m := l.foldl max 0
  if m = 0 then none else some (l.idxOf m)

/-- The feeds of the AO rail are read. -/
def setFeeds (f : AoFeeds) (s : State) : State := modSup (fun u => { u with feeds := f }) s

/-- AOSRC reports the source in use (R103); where none is left, the rail falls and AOSRC keeps the last one. -/
def aoPick (s : State) : State :=
  match aoSource (flag GLB_SUPSTAT_VIOOK s) s.sup.feeds with
  | some src => setF GLB_SUPSTAT_AOSRC src s
  | none => s

/-- The AO power-on of the island (R105, R123). -/
def aoStart (haddr : Nat) (s : State) : State :=
  let s := rtRegs.foldl (fun t a => wr a (resetValue a).toNat t) s
  let s := modSup (fun u => { u with
    shipFlag := false, shipBegun := false, wakeLast := none, wakeHeld := false
    power := if u.power = .unpowered ∨ u.power = .ship then .aoOnly else u.power }) s
  s |> setF GLB_RSTCAUSE_AOPOR 1 |> setF GLB_WAKESTAT_STUCK 0 |> haddrRead haddr

/-- AO_POWER_ON (R105): the rail rises only with a source of R103. -/
def aoPowerOnOp (f : AoFeeds) (haddr : Nat) (s : State) : State :=
  if (aoSource (flag GLB_SUPSTAT_VIOOK s) f).isSome then aoPick (setFeeds f (aoStart haddr s)) else s

/-- VCC goes away: a line of the store or a marker copy that was being programmed is left undefined (R406). -/
def storeCut (s : State) : State := if vccOn s then markerCut (psCut s) else s

/-- AO_RETENTION_LOSS (R103): the island, its RT registers and the ship flag are lost, and with no AO source VCC is gone. -/
def aoLossOp (s : State) : State :=
  let s := vccReset .unpowered (storeCut s)
  let s := rtRegs.foldl (fun t a => wr a (resetValue a).toNat t) s
  modSup (fun u => { u with shipFlag := false, wakeLast := none, wakeHeld := false })
    (setF GLB_WAKESTAT_STUCK 0 s)

/-! ## The VCC path (R97) -/

/-- The VCC path selects its input. Equal inputs, with VCCIN_H not held selected, give VCCIN_H: the manual takes "the higher" (the
model's choice, log entry 182). -/
def vccPath (vh vp : Nat) (s : State) : State :=
  let h := if 9000 ≤ vh then true else if vh < 8500 then false else s.sup.hSel
  setF GLB_SUPSTAT_VCCSRC (if h || decide (vp ≤ vh) then 1 else 2) (modSup (fun u => { u with hSel := h }) s)

/-- VCC_PATH_CHANGE (R97): in ship mode the path is off. The inputs feed the micropower regulator too (R103). -/
def vccPathOp (vh vp : Nat) (s : State) : State :=
  if s.sup.power == .unpowered then s
  else
    let s := aoPick (modSup (fun u => { u with feeds := { u.feeds with vh := vh, vp := vp } }) s)
    if vccOn s then vccPath vh vp s else s

/-! ## The driver supply (R100-R102) -/

/-- VDRV is sensed: the external supply at 5 V or 6 V, the internal generator, or no valid case (R100). PH_DRV names no
phase there. -/
def vdrvSense (mv : Nat) (first : Bool) (s : State) : State :=
  let ok := fun (ext lvl : Nat) (s : State) =>
    s |> setF GLB_SUPSTAT_VDRVEXT ext |> setF GLB_SUPSTAT_VDRVLVL lvl |> setF GLB_SUPSTAT_VDRVOK 1 |> liftStop .vdrv
  if 4750 ≤ mv ∧ mv ≤ 5250 then ok 1 0 s
  else if 5700 ≤ mv ∧ mv ≤ 6300 then ok 1 1 s
  else if mv < 1000 then ok 0 0 s
  else
    let s := stopFor .vdrv s
    if first then raise' srcPhDrv 2 none 0xFF s else s

/-- VDRV_RESENSE (R100). -/
def vdrvResenseOp (mv : Nat) (s : State) : State :=
  if vccOn s && s.pwr.stops.contains .vdrv && !flag GLB_SUPSTAT_VDRVEXT s then vdrvSense mv false s else s

/-- VDRV_OUT_OF_BAND (R102). -/
def vdrvOutOp (s : State) : State :=
  if flag GLB_SUPSTAT_VDRVEXT s && flag GLB_SUPSTAT_VDRVOK s then
    s |> setF GLB_SUPSTAT_VDRVOK 0 |> raise' srcPhDrv 2 none 0xFF |> stopFor .vdrv
  else s

/-- VDRV_BACK_IN_BAND (R102). -/
def vdrvBackOp (s : State) : State :=
  if flag GLB_SUPSTAT_VDRVEXT s && !flag GLB_SUPSTAT_VDRVOK s then s |> setF GLB_SUPSTAT_VDRVOK 1 |> liftStop .vdrv else s

/-! ## Power-on (R106-R110) -/

/-- The marker in force is put with ACTIVE = `b`; the trial bit is cleared at the first frame (R414). -/
def markerActive (b : Bool) (m : Marker) (s : State) : State :=
  let fix := s.store.mkFix
  modStore (fun x => { x with mkFix := fix }) (putMarker b m.trial m.tbank s)

/-- Bank selection (R109, R110, R413, R414). -/
def bankSelect (s : State) : State :=
  let (m, err) := readMarker s.store
  let (c0, s) := markerRead 0 s
  let (c1, s) := markerRead 1 s
  let some' := decide (c0 < 2) || decide (c1 < 2)
  let s := if err then raise' srcNvmErr 2 none 0 s else s
  let s := modStore (fun x => { x with mkFix := (err && some') || m.trial }) s
  let s := if m.trial then modSup (fun u => { u with firstFrame := u.firstFrame ++ [(srcUpdRollback, 0xFF)] }) s else s
  let (c0, s) := imageCheck false s
  let (c1, s) := imageCheck true s
  let s := s |> setF (psValid false) (b2n (c0 == 2)) |> setF (psValid true) (b2n (c1 == 2))
  let okA := if m.active then c1 == 2 else c0 == 2
  let okB := if m.active then c0 == 2 else c1 == 2
  if okA then s |> setB GLB_PSSTAT_ACTIVE m.active |> wr GLB_PSIVER (psNat m.active 0x08 4 s)
  else if okB then
    let b := !m.active
    let s := s |> setB GLB_PSSTAT_ACTIVE b |> wr GLB_PSIVER (psNat b 0x08 4 s) |> setF (psFail m.active) 1
      |> setF GLB_RSTCAUSE_ROLLBK 1 |> markerActive b m
    modSup (fun u => { u with firstFrame := u.firstFrame ++ [(srcUpdRollback, 0)] }) s
  else
    s |> setB GLB_PSSTAT_ACTIVE m.active |> raise' srcNvmErr 2 none 0 |> modSup (fun u => { u with noBank := true })
      |> fawnEnter 1 0xFF

/-- VCC_POWER_ON (R106): steps 1 to 8; the first frame tick is step 9. In ship mode the VCC path is off. VCC below the low end of the
rising threshold (R78) is not valid. -/
def vccPowerOnOp (o : PowerObs) (s : State) : State :=
  if s.sup.power == .ship || decide (o.vcc < 6200) then s
  else
    let s := if s.sup.power == .unpowered then aoStart o.haddr s else s
    let s := vccReset .starting s
    let s := s |> setFeeds o.feeds |> setF GLB_RSTCAUSE_VCCPOR 1 |> vccPath o.feeds.vh o.feeds.vp |> setF GLB_SUPSTAT_VIOOK 1 |> aoPick
      |> setB GLB_CLKSTAT_XIOK o.xi
    let s := { s with clk := { s.clk with xi := o.xi } }
    let s := s |> vdrvSense o.vdrv true |> fuseLoad |> haddrRead o.haddr
    s |> modSup (fun u => { u with boot := true }) |> tcpPowerOn o.att |> bankSelect

/-- BOOT_TICK (R107): the tick-bound actions of the power path before the first frame. Boot service switches phases and closes a port
before it, although R68's power-on column has the gates low and open up to the first frame (DESIGN CHOICE, log entry 172). -/
def bootTickOp (o : FrameObs) (s : State) : State :=
  if s.sup.power == .starting then
    { s with clk := { s.clk with us := s.clk.us + 20, sft := 0 } } |> hubTick false o |> dgFollow o.vCs |> chgStops
  else s

/-- VCC_LOSS (R112): with an AO source the RT registers stay; without one the island is lost too. A ship-mode entry that has
set the ship flag stays in ship mode. A line of the store that was being programmed is left undefined (R406). VCC at or above the
high end of the falling threshold (R78) is not lost. -/
def vccLossOp (o : LossObs) (s : State) : State :=
  if s.sup.power == .unpowered || decide (6300 ≤ o.vcc) then s
  else if (aoSource false o.feeds).isSome then
    aoPick (setFeeds o.feeds (vccReset (if s.sup.shipFlag then .ship else .aoOnly) (storeCut s)))
  else aoLossOp s

/-! ## Ship mode (R119-R123) -/

/-- An update is armed with its swap pending, or a rollback is pending at the end of the check window (R119, R415, R420). -/
def shipBusy (s : State) : Bool :=
  flag GLB_PSSTAT_PEND s || (s.store.winOpen && s.store.winFail != 0 && !s.store.winRecovery)

/-- RESULT of a ship-mode request (R119). Where several conditions hold, the first in the table's order is reported (the model's
choice, log entry 120). -/
def shipResult (presence : Bool) (s : State) : Nat :=
  if presence then 2 else if shipBusy s then 3 else if inFawn s then 4 else 1

/-- Step 3 of the entry (R120): PK_DG and every port's gate open, S1's output and a closing hand-back with them. -/
def gatesOpen (s : State) : State :=
  let s := s |> dgOpen |> toUnfed
  let s := setF HUB_STAT_HB 0 { s with hub := { s.hub with hb := none } }
  forN 4 (fun k s => if portSt k s = 7 then portTo k 1 s else if portSt k s = 4 || portSt k s = 5 then portRelease k s else s) s

/-- The pins of the ship-mode column of R68 that state holds: the lamps off, the lines of the pack port released. Drivers and gates
are low and open by then, and the error pins and TIO follow `power`. -/
def shipPins (s : State) : State :=
  { s with
    chg := { s.chg with lamp0 := Lamp.reset, lamp1 := Lamp.reset }
    pk := { s.pk with seq0 := Seq.reset, seq1 := Seq.reset } }

/-- The entry (R120): jobs and switching stop, PK_DG and every gate open, the ship flag is set, the AO rail moves to
the highest of its other sources and the VCC path turns off. -/
def shipEnter (f : AoFeeds) (s : State) : State :=
  let s := logPut 5 1 0 (storeCut s)
  let s := match s.imp.job with
    | some _ => s |> putJob none |> impIdle
    | none => s
  let s := s |> modSup (fun u => { u with shipBegun := true }) |> stopFor .ship |> gatesOpen |> lnkAlone |> shipPins
  let s := s |> setF GLB_SUPSTAT_VIOOK 0 |> setFeeds f |> aoPick |> setF GLB_SUPSTAT_VCCSRC 0
  { s with
    engs := Engs.reset
    clk := { s.clk with running := false }
    sup := { s.sup with power := .ship, shipFlag := true, boot := false, hSel := false } }

/-- A request for ship mode (R119): RESULT, and the state after its acceptance or refusal, before step 1 of the entry. -/
def shipAsk (presence : Bool) (s : State) : Nat × State :=
  let r := shipResult presence s
  (r, setF GLB_SHIP_RESULT r s)

/-- SHIP_REQUEST (R119, R120): a host write of 0x5A to GLB_SHIP.CMD. -/
def shipRequestOp (presence : Bool) (f : AoFeeds) (s : State) : State :=
  if s.sup.power != .on then s
  else
    let (r, s) := shipAsk presence s
    if r = 1 then shipEnter f s else s

/-- SHIP (R386): DETAIL is the RESULT; the completion is written before step 1. -/
def shipOp (presence : Bool) (f : AoFeeds) (s : State) : State :=
  match unitOp 6 s with
  | none => s
  | some t =>
    let (r, s) := shipAsk presence s
    let s := complete t.tag 0 r 0 s
    if r = 1 then shipEnter f s else s

/-- May the exit go on (R123)? It needs a VCC input of 7 V: below that the micropower regulator is off (R103), and the host bus lines or
PKD alone carry the island. -/
def shipCanExit (vcc : Nat) : Bool := decide (7000 ≤ vcc)

/-- The exit (R122): the ship flag clears and the VCC path turns on; `vcc` is the higher VCC input in mV. -/
def shipExit (cause : Fld) (vcc : Nat) (s : State) : State :=
  if shipCanExit vcc then modSup (fun u => { u with power := .aoOnly, shipFlag := false, shipBegun := false }) (setF cause 1 s) else s

/-- SHIP_EXIT_SOURCE (R122). -/
def shipExitSourceOp (vcc : Nat) (s : State) : State :=
  if s.sup.power == .ship then shipExit GLB_RSTCAUSE_SHIPSRC vcc s else s

/-! ## Biases (R68, R312, R505) -/

/-- Are PKT and PKI biased, and TR0-TR3? Off in ship mode and without supply; the remote inputs only while frames run. -/
def pkBias (s : State) : Bool := vccOn s
def trBias (s : State) : Bool := s.sup.power == .on

/-! ## WAKE (R124-R127) -/

/-- A press is accepted at `ms` (R124, R125): is it an event, and the state after. A merged press counts in MERGED. -/
def wakeAccept (ms : Nat) (s : State) : Bool × State :=
  if s.sup.wakeHeld || flag GLB_WAKESTAT_STUCK s then (false, s)
  else
    let s' := modSup (fun u => { u with wakeHeld := true }) s
    if s.sup.wakeLast.any (fun t => decide (ms < t + 250)) then (false, incSat GLB_WAKESTAT_MERGED s')
    else (true, modSup (fun u => { u with wakeLast := some ms }) s')

/-- WAKE_PRESS (R127): outside ship mode EVCNT counts. -/
def wakePressOp (ms : Nat) (s : State) : State :=
  if s.sup.power == .unpowered || s.sup.power == .ship then s
  else
    let (ev, s) := wakeAccept ms s
    if ev then incWrap GLB_WAKESTAT_EVCNT s else s

/-- SHIP_EXIT_WAKE (R122). Whether a press accepted while the exit lacks its VCC input waits for it (R123) the manual does not say: the
press is used up, and a later input starts no exit (the model's choice, log entry 151). -/
def shipExitWakeOp (ms vcc : Nat) (s : State) : State :=
  if s.sup.power == .ship then
    let (ev, s) := wakeAccept ms s
    if ev then shipExit GLB_RSTCAUSE_SHIPWAKE vcc s else s
  else s

/-- WAKE_PRESS_END (R124, R126). -/
def wakeEndOp (s : State) : State := setF GLB_WAKESTAT_STUCK 0 (modSup (fun u => { u with wakeHeld := false }) s)

/-- WAKE_STUCK (R126). A merged press (R125) that stays low counts as accepted here too; the manual does not say (the model's choice,
log entry 183). Without VCC the collector is off: STUCK is set, and STUCK_IN is raised neither then nor later (the model's choice, log
entry 199). -/
def wakeStuckOp (s : State) : State :=
  if s.sup.wakeHeld && !flag GLB_WAKESTAT_STUCK s then
    setF GLB_WAKESTAT_STUCK 1 (if vccOn s then raise' srcStuckIn 1 none 0 s else s)
  else s

end Sys2Proof.Machine
end

