-- ==== Sys2Proof/Machine/FrameOps.lean ====
section
/-!
DEFINITION. The frame (R26-R34), the clocks (R35-R42), set points going live with their clamps (R18, R27), overruns (R28), the
first frame of a power-on (R106 step 9), and the host's halt and reset of an engine (R375).
-/

namespace Sys2Proof.Machine

open Sys2Proof

/-! ## Set points going live (R18, R27) -/

/-- The value that the set point at `a` takes live when its shadow is `v` (R155, R177, R183, R219, R282, R466). -/
def clampSet (a v : Nat) (s : State) : Nat :=
  if a = PWR_FSW then clampF v 3 0 2 8
  else if a = PWR_DT then clampF (clampF v 15 8 8 255) 7 0 8 255
  else if a = PWR_BRD then clampF (clampF v 15 6 10 1000) 5 0 5 33
  else if a = PWR_SNS then clampF (clampF v 15 8 50 150) 7 0 100 200
  else if a = PWR_PHTH then
    let v := clampF v 7 0 8 160
    clampF v 15 8 0 (bitsOf v 7 0 - 8)
  else if a = PWR_IPK then clampF v 6 0 8 80
  else if a = PWR_GOFS then putBits v 13 0 (bitsOf v 13 0 % max 1 (periodNom s))
  else if a = PWR_IINLIM then clampF v 12 0 0 5000
  else if a = PWR_VINMIN then (if bitsOf v 12 0 = 0 then v else clampF v 12 0 900 6000)
  else if a = PWR_VHOLD then (if bitsOf v 12 0 = 0 then v else clampF v 12 0 900 (max 900 (min 6000 (vhb10 s))))
  else if a = PWR_IDSLIM then (if bitsOf v 12 0 = 0 then v else clampF v 12 0 1 (min 6000 (ipkceil s / 10)))
  else if a = HUB_CTL then (if bitsOf v 2 0 = 2 ∨ bitsOf v 2 0 = 3 then putBits v 2 0 0 else v)
  else if a = HUB_PRIO then (if prioOk (v % 256) then v else lrd a s)
  else if a = HUB_QUAL then clampF v 7 0 1 255
  else if a = HUB_FLAPCFG then clampF (clampF (clampF v 19 12 1 60) 11 4 1 100) 3 0 2 15
  else if a = HUB_DETCFG then
    let v := clampF (clampF v 28 24 2 31) 13 8 4 30
    clampF v 5 0 2 (min 28 (bitsOf v 13 8 - 2))
  else if a = HUB_HBCFG then clampF v 7 0 1 100
  else if a = HUB_PKFLOOR then (if bitsOf v 13 0 = 0 then v else clampF v 13 0 900 8800)
  else if a = HUB_WIN 0 ∨ a = HUB_WIN 1 ∨ a = HUB_WIN 2 ∨ a = HUB_WIN 3 then clampWin v s
  else if a = HUB_PLIM 0 ∨ a = HUB_PLIM 1 ∨ a = HUB_PLIM 2 ∨ a = HUB_PLIM 3 then clampF v 31 24 1 255
  else if a = HUB_S1OUT then clampF v 7 0 1 200
  else if a = CHG_ISET then clampF v 15 0 0 60000
  else if a = CHG_VSET then clampF v 16 0 0 86000
  else if a = LNK_REQ then clampF v 12 0 0 5000
  else v

/-- The bit of PWR_STAT.CLP that a clamp of the set point at `a` sets (R177). -/
def clpBit (a : Nat) : Option Nat :=
  if a = PWR_FSW then some 0 else if a = PWR_DT then some 1 else if a = PWR_BRD ∨ a = PWR_SNS then some 2
  else if a = PWR_PHTH then some 3 else if a = PWR_IPK then some 4 else if a = PWR_GOFS then some 5
  else if a = PWR_IINLIM ∨ a = PWR_VINMIN ∨ a = PWR_VHOLD then some 6 else if a = PWR_IDSLIM then some 7 else none

/-- A clamp is recorded (R18): PWR_STAT.CLP, HUB_STAT.CLP, CHG_STAT.CLPI or CLPV. LNK_STAT has no field for that of LNK_REQ. -/
def clpNote (a : Nat) (s : State) : State :=
  match clpBit a with
  | some i => setF ⟨PWR_STAT, i, i⟩ 1 s
  | none =>
    if a = CHG_ISET then setF CHG_STAT_CLPI 1 s
    else if a = CHG_VSET then setF CHG_STAT_CLPV 1 s
    else if 0x0800 ≤ a ∧ a < 0x0C00 then setF HUB_STAT_CLP 1 s
    else s

/-- The shadow of the set point at `a` is copied to live, clamped. -/
def goLive (a : Nat) (s : State) : State :=
  let v := rd a s
  let c := clampSet a v s
  let s := modFlt (fun f => { f with parBad := f.parBad.filter (fun p => !(p.1 / 4 * 4 == a && p.2)) }) (lwr a c s)
  if c = v then s else clpNote a s

/-- Does a mark go live at this tick (R27)? -/
def markDue (s : State) (m : Nat × Bool) : Bool := m.2 || (getEng (shOwner m.1) s).yielded

/-- The set points that go live at this tick. -/
def dueSets (s : State) : List Nat := (s.marks.filter (fun m => markDue s m)).map (·.1)

/-- The copy of R27. -/
def copyLive (s : State) : State :=
  let s' := (dueSets s).foldl (fun t a => goLive a t) s
  { s' with marks := s'.marks.filter (fun m => !markDue s m) }

/-! ## Register parity at the tick (R522) -/

/-- THM_JTH within its limits (R517): STOP 10 °C or more below HARD, WARN 5 °C or more below STOP. -/
def thmClamp (v : Nat) : Nat :=
  let hard := clampN 125 150 (bitsOf v 23 16)
  let stop := clampN 100 (hard - 10) (bitsOf v 15 8)
  hard * 65536 + stop * 256 + clampN 80 (stop - 5) (v % 256)

/-- A write that is clamped as it lands (R282, R517, R243). -/
def clampWrite (a v : Nat) : Nat :=
  if a = CHG_TMRCFG then clampF (clampF (clampF v 29 20 0 60) 19 10 1 1000) 9 0 1 1000
  else if a = CHG_REC then clampF v 8 0 20 500
  else if a = CHG_CYCCFG then clampF v 15 8 5 100
  else if a = THM_JTH then thmClamp v
  else if a = THM_GCFG then (if bitsOf v 31 24 = 0 then v else clampF v 31 24 60 150)
  else if a = THM_GRAZE then clampF (clampF (clampF v 23 16 1 255) 15 8 1 45) 5 0 0 45
  else if THM_TRCFG 0 ≤ a ∧ a ≤ THM_TRCFG 3 then
    let v := clampF v 25 13 1000 8000
    if bitsOf v 31 30 = 2 then clampF v 12 0 0 410 else clampF v 12 0 40 8000
  else if a = TCP_AUTO then clampF v 8 0 90 200
  else v

/-- The reset value of a live copy, within the clamps of R18 and the fused ceilings: that of HUB_PRIO is fused (R219). -/
def liveReset (a : Nat) (s : State) : Nat := clampSet a (if a = HUB_PRIO then srcprio s else (resetValue a).toNat) s

/-- The fields of the registers with parity that lie in more than one byte: bits `[hi:lo]`. -/
def wideFlds (a : Nat) : List (Nat × Nat) :=
  if a = CHG_TMRCFG then [(29, 20), (19, 10), (9, 0)]
  else if a = CHG_REC ∨ a = TCP_AUTO then [(8, 0)]
  else if a = THM_GCFG ∨ a = LNK_ADDR then [(11, 0)]
  else if THM_TRCFG 0 ≤ a ∧ a ≤ THM_TRCFG 3 then [(25, 13), (12, 0)]
  else if a = WDG_PER then [(12, 0)]
  else if 0x1600 ≤ a ∧ a < 0x1700 then
    (if a % 0x20 = 0 then [(24, 23), (10, 7)] else if a % 0x20 = 4 then [(23, 0)] else [(31, 0)])
  else if 0x2500 ≤ a ∧ a < 0x2700 then [(15, 0)]
  else []

/-- The bits `[hi:lo]` as a mask. -/
def bitMask (hi lo : Nat) : Nat := 2 ^ (hi + 1) - 2 ^ lo

/-- The bits of the register at `a` that lie in a field of its byte `i`. -/
def parSpan (a i : Nat) : Nat :=
  ((wideFlds a).filter (fun f => decide (f.2 ≤ 8 * i + 7) && decide (8 * i ≤ f.1))).foldl (fun m f => m ||| bitMask f.1 f.2)
    (bitMask (8 * i + 7) (8 * i))

/-- The bits of the RW and RWL fields of the register at `a` that hold a byte whose parity fails. -/
def parMask (a : Nat) (s : State) : Nat :=
  ((List.range 4).filter (fun i => s.flt.parBad.contains (a + i, false))).foldl (fun m i => m ||| parSpan a i) 0
    &&& ((findRow a).map (fun r => r.rw)).getD 0

/-- Does the shadow of the set point at `a` fail its parity? -/
def shadowBad (a : Nat) (s : State) : Bool := s.flt.parBad.any (fun p => !p.2 && p.1 / 4 * 4 == a)

/-- The reset value of the RW register at `a`: that of WDG_CTL is 0x03 where the watchdog starts by its fuse (R516). -/
def rwReset (a : Nat) (s : State) : Nat := if a = WDG_CTL ∧ flag WDG_CTL_HWST s then 3 else (resetValue a).toNat

/-- The repair of the failing fields of the RW register at `a`: their reset values, within the clamps of a write (R522). A change of the
link's EN, and RUN of a watchdog that stands still, act as the write does (R426, R493). -/
def rwRepair (a : Nat) (s : State) : State :=
  let v := clampWrite a (maskPut (rd a s) (rwReset a s) (parMask a s))
  if a = LNK_CTL then linkEnableOp (bitOf v 0) (wr a (putBit v 0 (flag LNK_CTL_EN s)) s)
  else if a = WDG_CTL ∧ bitOf v 0 then wdgStart (wr a v s)
  else wr a v s

/-- The repair of one register, or of its live copy, whose parity fails at the tick (R522). -/
def parRepair (p : Nat × Bool) (s : State) : State :=
  let a := p.1
  if p.2 then
    if shadowBad a s then lwr a (liveReset a s) s else goLive a s
  else if a = GLB_FUSE0 ∨ a = GLB_FUSE1 then fuseRegs s
  else if [PWR_LOCK, CHG_LOCK, THM_LOCK, FLT_LOCK, LNK_LOCK, TCP_LOCK, RNG_LOCK].contains a then wr a 1 s
  else rwRepair a s

/-- Is the byte with this mark checked at a frame tick: one of a live copy, or of a register that is no set point? -/
def parAtTick (p : Nat × Bool) : Bool := p.2 || !isSH (p.1 / 4 * 4)

/-- The set points whose live copy is repaired at the tick: what a repair puts in force acts as what goes live does (R522). -/
def liveFixed (s : State) : List Nat := (s.flt.parBad.filter (fun p => p.2)).map (fun p => p.1 / 4 * 4)

/-- The parity check of a frame tick: live copies and RW fields, each register reported once. A shadow is checked where it is read. -/
def parTick (s : State) : State :=
  let due := ((s.flt.parBad.filter parAtTick).map (fun p => (p.1 / 4 * 4, p.2))).dedup
  let s := ((due.map (fun p => (parBase p.1, p.2))).dedup).foldl (fun t p => raise' srcParReg 2 none p.1 t) s
  let s := due.foldl (fun t p => parRepair p t) s
  modFlt (fun f => { f with parBad := f.parBad.filter (fun p => !parAtTick p), parSeen := [] }) s

/-! ## Overruns and stalls (R26-R31, R369, R373) -/

/-- The overrun source of an engine. -/
def srcOvr (e : EngId) : Nat := match e with | .csq => srcOvrCsq | .hsq => srcOvrHsq | .pe0 => srcOvrPe0 | .pe1 => srcOvrPe1

/-- Has the engine overrun the ending frame (R28, R373, R528)? -/
def hasOverrun (e : EngId) (s : State) : Bool :=
  let o := getEng e s
  o.released && !o.yielded && !inFawn s && (o.phase == .running || o.phase == .halted)

/-- An overrun is counted and raised (R28, R538). -/
def overrun (e : EngId) (s : State) : State :=
  if hasOverrun e s then
    let n := ((getEng e s).ovr + 1) % 2 ^ 32
    s |> modEng e (fun o => { o with ovr := n }) |> raise' (srcOvr e) 2 (some (engNo e)) (n % 65536)
  else s

/-- The end of an engine's frame: ENG_CYC (R377), and the stall of the handover window. A frame that ended without a YIELD reads
0xFFFF, that of an engine which was not released in it too. Without a YIELD a running engine has used all 1,800 cycles of the frame,
a halted or fenced one those before it stopped (DEDUCED, log entry 86). -/
def engTick (o : Eng) : Eng :=
  let used := min 1800 (max 1 o.cyc)
  { o with
    phase := if o.phase == .running || o.phase == .yielded then .stalled else o.phase
    cycLast := if o.released && o.yielded then used else 0xFFFF
    cycMax := if !o.released then o.cycMax
      else max o.cycMax (if o.yielded then used else if o.phase == .halted || o.phase == .fenced then min 1800 o.cyc else 1800)
    excAt := if o.excAt == some o.cyc then some 0 else none
    cyc := 0, yielded := false }

/-- GLB_IDLEFR (R31). -/
def idleCount (s : State) : State :=
  if (getEng .csq s).yielded || (getEng .hsq s).yielded then setF GLB_IDLEFR_COUNT 0 s else incSat GLB_IDLEFR_COUNT s

/-! ## The frame timer (R11-R14, R32-R34) -/

/-- FRM, the frame index and the time at a tick; an adoption takes the lead's (R33). -/
def clockTick (s : State) : State :=
  let c := s.clk
  let next := (c.fidx + 1) % 50
  let c1 := { c with us := c.us + 20, sft := 0, frames := c.frames + 1 }
  match s.lnk.adopt with
  | some (frm, idx) =>
    let idx' := (idx + 1) % 50
    let s' :=
      { s with
        clk := { c1 with frm := frm + 1, fidx := idx', shortSf := c.shortSf || idx' != next }
        lnk := { s.lnk with adopt := none } }
    let s' := if idx' = next then s' else setF GLB_CLKSTAT_SHORTSF 1 s'
    logPut 6 idx' c.frm.toNat s'
  | none => { s with clk := { c1 with frm := c.frm + 1, fidx := next } }

/-- The boundary tick of a superframe: the rows that take place only there become due (R32). At a boundary that an adoption jumps to a
pending swap waits for the next (R33); an open check window closes (R419). -/
def boundaryTick (jumped : Bool) (s : State) : State :=
  let c := { s.clk with swDue := false }
  if s.clk.fidx = 0 then
    modFlt (fun f => { f with seenSf := [] })
      { s with clk := { c with sfDue := true, swDue := s.store.winOpen || !jumped && flag GLB_PSSTAT_PEND s } }
  else { s with clk := c }

/-- The first frame tick of a power-on (R101, R106 step 9, R115, R257, R413, R414, R493). The ramp to 6 V starts here only: an internal
generator that starts at a later re-sense stays at 5 V (the model's choice, log entry 117). -/
def firstFrame (s : State) : State :=
  let s :=
    { s with
      clk := { s.clk with running := true, frm := 0, fidx := 0, sft := 0, us := s.clk.us + 20, frames := 0 }
      sup := { s.sup with power := .on, boot := !inFawn s } }
  let s := s.sup.firstFrame.foldl (fun s e => raise' e.1 2 none e.2 s) s
  let (m, _) := readMarker s.store
  let s := if s.store.mkFix then putMarker m.active false m.tbank s else s
  let six := !s.sup.noBank && !flag GLB_SUPSTAT_VDRVEXT s && flag GLB_SUPSTAT_VDRVOK s && bitOf (psNat (actBank s) 0x06 1 s) 0
  let s := modSup (fun u => { u with firstFrame := [], drv6 := six }) s
  let s := logPut 7 1 (rd GLB_RSTCAUSE s % 65536 + 65536 * fld WDG_RCNT_COUNT s) s
  let s := if fuseWdgst s then wdgHardStart (setF WDG_CTL_HWST 1 s) else s
  let s := chgFirst s
  if inFawn s then s else allEng.foldl (fun s e => startEngine e s) s

/-- The internal generator has reached 6 V, 100 µs after the first tick (R101). -/
def driveLevel (s : State) : State :=
  if s.sup.drv6 && s.clk.frames == 5 then setF GLB_SUPSTAT_VDRVLVL 1 s else s

/-! ## What goes live acts (R107, R143, R165) -/

/-- HSQ's HUB set points have gone live: the power path follows HSQ from this tick; a pack-carried HBUS keeps PK_DG closed in
DISCHARGE (R107, R108, R257). -/
def hsqFirst (sets : List Nat) (s : State) : State :=
  if !inFawn s && !s.sup.hsqLive && sets.any (fun a => decide (0x0800 ≤ a) && decide (a < 0x0C00)) then
    let was := s.sup.boot
    let s := modSup (fun u => { u with hsqLive := true, boot := false }) s
    if was && packC s && chgSt s != 14 && noTrip s && !dgPermit s then setF CHG_STATE_RESUME 1 (chgEnter 14 0 true s) else s
  else s

/-- PWR_FSW going live while an impedance job runs waits for its end (R290). -/
def fswLive (sets : List Nat) (s : State) : State :=
  if sets.contains PWR_FSW then { s with imp := { s.imp with fswWait := s.imp.job.isSome } } else s

/-- PWR_CTL.EN going live (R165), by a copy or a repair. -/
def enLive (sets : List Nat) (s : State) : State :=
  if !sets.contains PWR_CTL then s
  else if lfld PWR_CTL_EN s = 1 then
    if s.pwr.enc.isNone then s else softRestart { s with pwr := { s.pwr with enc := none } }
  else if s.pwr.enc.isSome then s
  else { s with pwr := { s.pwr with enc := some (if srcCarried s then max 0 s.pwr.iPk * 65536 else 0) } }

/-- I_SRC of an ended frame in 10 mA (R179): the average of RSNS_HB, and S1's output current while it is in OUTPUT, from the VDS of
its pair and the resistance the program stored. -/
def avgIsrc (o : FrameObs) (s : State) : Int :=
  avgIhb o s - (if fld (HUB_PSTAT_STATE 1) s = 7 then coarse 1 (idivRound o.vds1 10) s else 0)

/-- The averages of the ended frame in the HUB and PWR registers (R177, R179, R219), and the phases' imbalance by them (R168).
PSRC is the product of the averages of HBUS and I_SRC (log entry 123). At the tick where a new PWR_BRD goes live the new RPH
converts the phases' averages of the ended frame (DESIGN CHOICE, log entry 149). The manual gives PWR_PHAVGk no rounding: the
average is rounded to the nearest 10 mA (the model's choice, log entry 187). -/
def frameRegs (o : FrameObs) (s : State) : State :=
  let i := satS 16 (avgIsrc o s)
  let s := s |> setF HUB_ISRC_VAL (unsgn 16 i) |> setF HUB_HBAVG_VAL (min 65535 o.hb)
    |> setF HUB_PSRC_VAL (unsgn 16 (satS 16 (idivRound ((o.hb : Int) * i) 1000)))
  imbTick (forN 6 (fun k s => setF (PWR_PHAVG_AVG k)
    (unsgn 16 (satS 16 (idivRound (o.ph.getD k 0 * 4) (10 * max 1 (lfld PWR_BRD_RPH s))))) s) s)

/-- The graze frame of the frame that opens: at a boundary tick the level of the new superframe decides it, with the boundary's own row
(R512). -/
def grazeOpen (s : State) : State := if s.clk.sfDue then s else grazeTick s

/-- FRAME_TICK (R26-R34). At the tick where a new PWR_SNS goes live the manual does not say which shunt values the averages of the
ended frame are converted with: the sums of CHG_SFAVG take the old ones, the ADC and HUB registers the new ones (the model's choice,
log entry 149). -/
def frameTickOp (o : FrameObs) (s : State) : State :=
  if !vccOn s then s
  else
    let first := s.sup.power == .starting
    let old := s.clk.fidx
    let ended := s.clk.frm.toNat
    let str := s.lnk.stretch != 0
    let fixed := liveFixed s
    let s := modFlt (fun f => { f with relEng := [] }) (parTick (chgSums o (shedTick s)))
    let sets := dueSets s
    let s := keepCount (fswLive (fixed ++ sets) (copyLive s))
    let s := if first then s else allEng.foldl (fun s e => modEng e engTick s) (allEng.foldl (fun s e => overrun e s) (idleCount s))
    let s := if first then firstFrame s else clockTick s
    let s := boundaryTick (!first && s.clk.fidx != (old + 1) % 50) s
    let req := if sets.contains CHG_SREQ then some (lfld CHG_SREQ_REQ s) else none
    let s := s |> hsqFirst sets |> enLive (fixed ++ sets) |> adcTick ended o |> frameRegs o
    let s := s |> lnkTick (s.clk.fidx == 0) |> hubTick (sets.contains HUB_S1OUT) o
    s |> chgTick o (s.clk.fidx == 0) req |> impTick str o |> chgFrame |> thermTick |> grazeOpen |> applyGofs |> tmrTick o.tio |> driveLevel

/-- ENGINE_RELEASE (R26 step 3, R343): an engine started by the host or a fence release waits for the next frame (R117). -/
def engineReleaseOp (s : State) : State :=
  if !s.clk.running then s
  else
    let s := { s with clk := { s.clk with sft := max 200 s.clk.sft } }
    allEng.foldl (fun s e =>
      match (getEng e s).phase with
      | .stalled => modEng e (fun o => { o with phase := .running, released := true, cyc := 0 }) s
      | .waiting =>
        if s.flt.relEng.contains (engNo e) then s
        else modEng e (fun o => { o with phase := .running, released := true, cyc := 0 }) s
      | _ => s) s

/-- SUPERFRAME_BOUNDARY (R32, R141, R270, R290, R513). A PWR_FSW that goes live at a frame tick that is itself a boundary takes effect
at that boundary: the manual says "the next" (the model's choice, log entry 186). -/
def superframeOp (s : State) : State :=
  if !s.clk.sfDue then s
  else
    let s := s |> chgSuper |> grazeSuper
    let s := if hoHold s || s.imp.fswWait then s else applyFsw s
    { s with clk := { s.clk with sfDue := false, shortSf := false } }

/-- IDLE_FRAMES_FAWN (R31). -/
def idleFawnOp (s : State) : State :=
  if 500 ≤ fld GLB_IDLEFR_COUNT s && !inFawn s then fawnEnter 6 0xFF s else s

/-- A step with no command waiting (the model's own): the frame timer advances one sub-frame tick, ten on the backup oscillator
(R42), and stays at the last tick of
its frame until FRAME_TICK is commanded (R12). Nothing counts before the first frame. -/
def idleTick (s : State) : State :=
  if s.clk.running then { s with clk := { s.clk with sft := min 1999 (s.clk.sft + if s.clk.bkosc then 10 else 1) } } else s

/-! ## Clocks (R38, R41, R42, R86) -/

/-- HFO_FAILED (R42): the HFO is declared failed. On the backup oscillator already, a new failure declares it again where CLKFAIL has
been cleared or Fawn mode has been left. Switching goes on in the two cycles of R145, from where its phases stand. -/
def hfoFailedOp (s0 : State) : State :=
  let was := s0.clk.bkosc
  let s := { s0 with clk := { s0.clk with bkosc := true, hfoOkSince := none } }
  if !was then redivide s0 s |> setF GLB_CLKSTAT_CLKFAIL 1 |> lnkAlone |> lnkClk |> restagger |> fawnEnter 7 0xFF
  else if flag GLB_CLKSTAT_CLKFAIL s && inFawn s then s
  else fawnEnter 7 0xFF (setF GLB_CLKSTAT_CLKFAIL 1 s)

/-- CLOCK_MONITOR_CHECK (R41, R42): the HFO count over 32 LFO cycles. -/
def clockMonitorOp (count : Nat) (s : State) : State :=
  let d := if count ≤ 195313 then 195313 - count else count - 195313
  if 195313 * 3 < d * 100 then
    let s := raise' srcClkMon 2 none 0 { s with clk := { s.clk with hfoOkSince := none } }
    if 195313 * 5 < d * 100 then hfoFailedOp s else s
  else if flag GLB_CLKSTAT_CLKFAIL s && s.clk.hfoOkSince.isNone then
    { s with clk := { s.clk with hfoOkSince := some (nowUs s) } }
  else s

/-- XI_STATUS_CHANGE (R86). What governs the HFO of a lead whose XI stops the manual does not say: it keeps ROLE lead and CLKSRC
0b01 (the model's choice, log entry 150). -/
def xiOp (present : Bool) (s : State) : State :=
  claimCheck (setB GLB_CLKSTAT_XIOK present { s with clk := { s.clk with xi := present } })

/-! ## Halt and reset of an engine by the host (R375) -/

/-- A host halt right after an exception entry, before the handler's first instruction (R376): EPC, CAUSE and BADADDR go on describing
the exception, and ENG_STATe.CAUSE reads 0x0A. -/
def haltEntered (e : EngId) (s : State) : State :=
  windowFail e (modEng e (fun o => { o with phase := .halted, statCause := 0xA, haltEvt := true }) s)

/-- ENGINE_HALT (R375, R376): cause 0x0A. An engine that has not started has nothing to halt. -/
def engineHaltOp (e : EngId) (s : State) : State :=
  let s := modEng e (fun o => { o with haltReq := true }) s
  let o := getEng e s
  if (o.phase == .running || o.phase == .stalled) && o.excAt == some o.cyc then haltEntered e s else haltEngine e 0xA s

/-- ENGINE_RESET (R117, R375): ignored while the engine is fenced or in Fawn mode. In the clock of a swap or a rollback the larger
reset applies, and the engine starts in this frame (R118, R417). -/
def engineResetOp (e : EngId) (s : State) : State :=
  if (getEng e s).phase == .fenced || inFawn s then s
  else setF GLB_RSTCAUSE_ENGRST 1 (if restartClock s then s else s |> resetEngine e |> startNext e)

end Sys2Proof.Machine
end

