-- ==== Sys2Proof/Machine/RegOps.lean ====
section
/-!
DEFINITION. Reads and writes of the address space (R43-R45, R347, R348, R351, R400, R478, R522, R583, R584): what each register
shows, which writes an engine or the host may make, and what a write to each register does.
-/

namespace Sys2Proof.Machine

open Sys2Proof

/-! ## What a register shows -/

/-- STATE of an engine (R377). -/
def phaseCode (p : EngPhase) : Nat :=
  match p with
  | .notStarted => 0 | .running => 1 | .yielded => 2 | .stalled => 3 | .halted => 4 | .fenced => 5 | .waiting => 6

/-- The register that ENG_DBG shows (R377). -/
def engDbg (o : Eng) : Nat :=
  if o.phase == .halted || o.phase == .fenced then
    if o.dbgSel < 16 then (vAt o.x o.dbgSel).toNat
    else if o.dbgSel = 16 then o.acc.toNat % 2 ^ 32
    else if o.dbgSel = 17 then o.acc.toNat / 2 ^ 32
    else if o.dbgSel = 18 then o.flags + 128 * b2n o.exh
    else 0
  else 0

/-- A register of an engine, at offset `off` of its group (R377). -/
def engRead (o : Eng) (off : Nat) : Nat :=
  match off with
  | 0x00 => o.dbgSel * 256 + b2n o.haltReq
  | 0x04 => o.statCause * 65536 + b2n o.novec * 1024 + b2n o.double * 512 + b2n o.exh * 256 + b2n o.excEvt * 64
      + b2n o.haltEvt * 32 + phaseCode o.phase
  | 0x08 => o.pc.toNat
  | 0x0C => o.epc.toNat
  | 0x10 => o.bad.toNat
  | 0x14 => o.ovr
  | 0x18 => o.cycMax * 65536 + o.cycLast
  | 0x1C => engDbg o
  | _ => 0

/-- OUT and CPL of a ring; of a link ring, the slots in use (R381, R397, R455). -/
def ringCounts (n : Nat) (s : State) : Nat × Nat :=
  if n < 24 then (ringOut n s, ringCpl n s) else ((lnkUsed n s).length, if 28 ≤ n then (lnkUsed n s).length else 0)

/-- A register of ring `n`, at offset `off` of its group (R397). -/
def ringRead (n off : Nat) (s : State) : Nat :=
  match off with
  | 0x04 => putBits (putBits (rd (RNG_STAT n) s) 17 9 (ringCounts n s).2) 8 0 (ringCounts n s).1
  | 0x08 => (ringPtr n s).1 * 256 + (ringPtr n s).2
  | _ => rd (0x2500 + 0x10 * n + off) s

/-- STATE of a tag (R390). -/
def tagCode (t : TagSt) : Nat := match t with | .queued => 1 | .running => 2 | .done => 3 | .orphan => 4

/-- RNG_TAGINFO (R397). -/
def tagInfo (s : State) : Nat :=
  match s.rng.tags.find? (fun t => t.tag == fld RNG_TAGSEL_TAG s) with
  | none => 0
  | some t => entB t.ent 0 * 2 ^ 24 + t.ring * 256 + tagCode t.st

/-- The ring and tag registers (R397). -/
def rngRead (a : Nat) (s : State) : Nat :=
  if a < 0x2700 then ringRead ((a - 0x2500) / 16) (a % 16) s
  else if a = RNG_TAGSTAT then putBits (rd a s) 7 0 (freeTags s)
  else if a = RNG_TAGUSE0 then tagsHeld 0 s + tagsHeld 1 s * 2 ^ 8 + tagsHeld 2 s * 2 ^ 16 + tagsHeld 3 s * 2 ^ 24
  else if a = RNG_TAGUSE1 then tagsHeld 4 s
  else if a = RNG_TAGINFO then tagInfo s
  else rd a s

/-- PWR registers that show the converter (R177). -/
def pwrRead (a : Nat) (s : State) : Nat :=
  if a = PWR_STAT then
    let leg := match s.pwr.leg with | .legA => 0 | .band => 1 | .legB => 2 | .none => 3
    let v := putBits (putBits (putBits (rd a s) 29 27 (nAct s)) 26 24 (nAvail s)) 20 19 leg
    putBits (putBits v 14 14 (b2n (restagOn s))) 12 12 (b2n s.clk.bkosc)
  else if a = PWR_LIMIT then (icapMa s / 10) * 65536 + 2000 * nAvail s / 6
  else if a = PWR_PHSTAT then forN 6 (fun k v => putBits v (5 * k + 4) (5 * k + 4) (b2n (fencedU (uPh k) s))) (rd a s)
  else rd a s

/-- HUB registers that show the power path (R219). -/
def hubRead (a : Nat) (s : State) : Nat :=
  if a = HUB_STAT then putBits (rd a s) 6 6 (b2n (rsv s))
  else if a = HUB_PSTAT 0 ∨ a = HUB_PSTAT 1 ∨ a = HUB_PSTAT 2 ∨ a = HUB_PSTAT 3 then
    putBits (rd a s) 11 8 (min 15 (lossList ((a - HUB_PSTAT 0) / 4) s).length)
  else rd a s

/-- A pin sequencer's registers (R324, R326, R340). -/
def seqRead (e off : Nat) (s : State) : Nat :=
  let q := getSeq e s
  match off with
  | 0x00 => fld (PKP_SEQCTL_EN e) s
  | 0x04 => 0
  | 0x08 => (seqHead e s).toNat
  | _ =>
    let v := putBits (putBits (rd (PKP_SEQSTAT e) s) 12 8 q.rx.length) 5 0 (txCount q)
    putBits v 7 7 (b2n q.run.isSome)

/-- Watchdog registers (R516): KEY, ANS and CHKIN read 0. -/
def wdgRead (a : Nat) (s : State) : Nat :=
  if a = WDG_KEY ∨ a = WDG_ANS ∨ a = WDG_CHKIN then 0
  else if a = WDG_LEFT then wdgLeft s
  else if a = WDG_STAT then putBits (rd a s) 17 16 (min 3 (wdgExps s).length)
  else rd a s

/-- FLT and LOG registers (R536, R540, R544). -/
def fltRead (a : Nat) (s : State) : Nat :=
  if a = FLT_CMD ∨ a = FLT_FREL ∨ a = LOG_PUT then 0
  else if a = FLT_STAT then putBits (putBits (rd a s) 1 1 (b2n (!s.flt.stops.isEmpty))) 0 0 (b2n (errCond s))
  else if LOG_ENT 0 ≤ a ∧ a ≤ LOG_ENT 3 then leNat (((logBytes s.flt.logEnt).drop (a - LOG_ENT 0)).take 4)
  else if FLT_HISTA 0 ≤ a ∧ a < FLT_HISTA 16 then
    let h := s.flt.hist.getD ((a - FLT_HISTA 0) / 8) (0, 0)
    if a % 8 = 0 then h.1.toNat else h.2.toNat
  else rd a s

/-- GLB registers (R51, R128, R425). -/
def glbRead (a : Nat) (s : State) : Nat :=
  if a = GLB_FRM then s.clk.frm.toNat
  else if a = GLB_FPOS then s.clk.fidx * 65536 + s.clk.sft
  else if a = GLB_SHIP then fld GLB_SHIP_RESULT s
  else if a = GLB_PSARM then 0
  else if a = GLB_PSSTAT then putBits (rd a s) 9 9 (b2n (unitOp 5 s).isSome)
  else rd a s

/-- Is a Host Notify due (R486)? -/
def notifyDue (s : State) : Bool :=
  let w := rd HST_NPEND s &&& rd HST_NEN s
  flag HST_CFG_NOTEN s && flag GLB_SUPSTAT_VIOOK s && s.sup.power == .on
    && (w != 0 && (w &&& s.hst.sent != w || s.hst.rep))

/-- HST and PKB registers (R491, R341). -/
def hstRead (a : Nat) (s : State) : Nat :=
  if a = HST_NSET then 0
  else if a = HST_STAT then
    putBits (putBits (rd a s) 4 4 (b2n (notifyDue s || s.hst.tries != 0))) 3 3 (b2n s.sup.fuseBusy.isSome)
  else rd a s

/-- What the register at word address `a` reads: a field that only acts when written reads 0 (R8). -/
def readReg (a : Nat) (s : State) : Nat :=
  if a < 0x0400 then glbRead a s
  else if a < 0x0800 then pwrRead a s
  else if a < 0x0C00 then hubRead a s
  else if a = CHG_CMD then 0
  else if PKP_SEQCTL 0 ≤ a ∧ a < PKP_SEQCTL 2 ∧ a % 0x20 < 0x10 then seqRead ((a - PKP_SEQCTL 0) / 0x20) (a % 0x10) s
  else if a = TMR_STAT then putBits (putBits (rd a s) 8 8 (b2n s.clk.bkosc)) 7 0 (tmrRun s)
  else if a = LNK_STAT then putBits (rd a s) 10 10 (b2n (isMember s))
  else if a = TMR_TIO then tioRead s
  else if 0x1800 ≤ a ∧ a < 0x1900 then wdgRead a s
  else if a = CRC_STAT then putBits (putBits (rd a s) 1 1 (b2n s.chg.latPend)) 0 0 (b2n (unitOp 4 s).isSome)
  else if 0x1A00 ≤ a ∧ a < 0x1C00 then fltRead a s
  else if 0x1C00 ≤ a ∧ a < 0x1E00 then hstRead a s
  else if 0x2400 ≤ a ∧ a < 0x2480 then engRead (getEng (engOf ((a - 0x2400) / 0x20)) s) (a % 0x20)
  else if 0x2500 ≤ a ∧ a < 0x2800 then rngRead a s
  else rd a s

/-! ## Parity of registers at a read (R522, R542) -/

/-- The registers listed with a byte count (R348). -/
def isBuffer (a : Nat) : Bool :=
  (decide (TCP_TXBUF 0 ≤ a) && decide (a ≤ TCP_TXBUF 3)) || (decide (TCP_RXBUF 0 ≤ a) && decide (a ≤ TCP_RXBUF 15))
    || (decide (HST_TAKEBUF 0 ≤ a) && decide (a ≤ HST_TAKEBUF 3)) || (decide (LOG_ENT 0 ≤ a) && decide (a ≤ LOG_ENT 3))

/-- The register that holds byte `a`: its word address and row. -/
def regOf (a : Nat) : Option (Nat × RegRow) :=
  if 0x2800 ≤ a then none
  else
    let w := a / 4 * 4
    match findRow w with
    | some r => if a < w + r.width / 8 then some (w, r) else none
    | none => none

/-- Does parity cover the register at `w` (R522)? Counters that a program may write carry none. -/
def parReg (w : Nat) : Bool :=
  let blk := (decide (0x0400 ≤ w) && decide (w < 0x0D00)) || (decide (0x1400 ≤ w) && decide (w < 0x1900))
    || (decide (FLT_CFG 0 ≤ w) && decide (w < 0x1C00)) || (decide (0x1E00 ≤ w) && decide (w < 0x2400))
    || (decide (0x2500 ≤ w) && decide (w < 0x2800))
  let count := w == WDG_RCNT || (decide (0x1600 ≤ w) && decide (w < 0x1700) && w % 0x20 == 0x0C)
  w == GLB_FUSE0 || w == GLB_FUSE1 || (blk && !count)

/-- Does parity cover the byte at `a` (R522): a byte with RW, RWL or SH bits of such a register, or one of the option-fuse copies? -/
def parCovered (a : Nat) : Bool :=
  match regOf a with
  | some (w, r) => parReg w && (w == GLB_FUSE0 || w == GLB_FUSE1 || r.rw / 2 ^ (8 * (a - w)) % 256 != 0)
  | none => false

/-- The parity check of a read of the bytes `bs` of the register at `w` (R522, R542): PAR_REG at most once per register per frame; the
read returns the stored bits. An injection inverts what the check sees. -/
def parCheck (w : Nat) (bs : List Nat) (s : State) : State :=
  if !bs.any parCovered then s
  else
    let bad := (bs.filter parCovered).any (fun a => s.flt.parBad.contains (a, false) != (injBits 3 s != 0))
    let s := injDone 3 s
    let w := parBase w
    if bad && !s.flt.parSeen.contains w then
      raise' srcParReg 2 none w (modFlt (fun f => { f with parSeen := w :: f.parSeen }) s)
    else s

/-! ## Reads -/

/-- The bank, line and byte address that the program-store window shows at `a` (R45, R51). -/
def winBank (s : State) : Bool := bitOf (fld GLB_PSWIN_WIN s) 1
def winAddr (a : Nat) (s : State) : Nat := (fld GLB_PSWIN_WIN s % 2) * 32768 + (a - 0x8000)

/-- The word at `w` of the window as it reads: 0 where its line is uncorrectable (R401). -/
def winWord (ok : Bool) (w : Nat) (s : State) : Nat := if ok then psNat (winBank s) (winAddr w s) 4 s else 0

/-- The aligned word at `w` with the checks of its read, but for a register's parity, and whether it is readable. An unreadable window
word reads 0 (R401). -/
def readWord (who : Option EngId) (w : Nat) (s : State) : Bool × Nat × State :=
  if w < 0x2800 then (true, readReg w s, s)
  else if w < ramLo then (true, 0, s)
  else if w ≤ ramHi then
    let (ok, s) := ramCheck who w s
    (ok, if ok then ramNat w 4 s else 0, s)
  else
    let (ok, s) := psReadLine none false (winBank s) (winAddr w s / 64) s
    (true, winWord ok w s, s)

/-- The bytes at a list of addresses as the host reads them (R472, R478, R522, R584): one snapshot and one check per word and one
check per window line in the whole transaction, whose words and lines read so far are `seen` and `lines`; an unreadable word reads
0. The host that reads holds the bus, and HST_STAT.BUS says so (R491). -/
def hostRead : List Nat → List (Nat × Nat) → List (Nat × Bool) → State → List Byte × State
  | [], _, _, s => ([], s)
  | a :: t, seen, lines, s =>
    let w := a / 4 * 4
    let put := fun (v : Nat) (r : List Byte × State) => (BitVec.ofNat 8 (v / 2 ^ (8 * (a % 4))) :: r.1, r.2)
    match seen.find? (fun p => p.1 == w) with
    | some (_, v) => put v (hostRead t seen lines s)
    | none =>
      match lines.find? (fun p => p.1 == w / 64) with
      | some (_, ok) => put (winWord ok w s) (hostRead t ((w, winWord ok w s) :: seen) lines s)
      | none =>
        if ramHi < w then
          let (ok, s) := psReadLine none false (winBank s) (winAddr w s / 64) s
          put (winWord ok w s) (hostRead t ((w, winWord ok w s) :: seen) ((w / 64, ok) :: lines) s)
        else
          let (_, v, s) := readWord none w (parCheck w (a :: t.takeWhile (fun x => x / 4 == a / 4)) s)
          let v := if w = HST_STAT then putBits v 6 5 2 else v
          put v (hostRead t ((w, v) :: seen) lines s)

/-! ## Rights and widths (R23, R43, R44, R348) -/

/-- The register that byte `a` belongs to, by its word address; none at an empty address (R7). -/
def regAt (a : Nat) : Option Nat := (regOf a).map (fun p => p.1)

/-- Write rights of engine `e` in PWR at byte `a` (R43): its own set points, PWR_LOCK by HSQ, the W1C fields by both. -/
def pwrRights (e : EngId) (a : Nat) : Bool :=
  (regAt a).any (fun w =>
    if isSH w then e == shOwner w
    else if w = PWR_LOCK then e == .hsq
    else (e == .csq || e == .hsq) && (w == PWR_STAT || w == PWR_PHSTAT))

/-- Write rights of engine `e` in PKP at byte `a` (R340). -/
def pkpRights (e : EngId) (a : Nat) : Bool :=
  (regAt a).any (fun w =>
    let own := fun (k : Nat) => w == PKP_SEQCTL k || w == PKP_SEQTX k || w == PKP_SEQSTAT k
    if w = PKP_OWN ∨ w = PKP_RTEMP ∨ w = PKP_STAT then e == .pe0 || e == .pe1
    else if own 0 then e == .pe0
    else own 1 && e == .pe1)

/-- Has engine `e` write rights at byte `a` (R43 and each block's own rule)? Where the table gives a whole range, a write to an address
that holds no register is within them, and is ignored (R7); where it names registers, an empty address is outside them (R44). -/
def engRights (e : EngId) (a : Nat) : Bool :=
  let c := e == .csq
  let h := e == .hsq
  let p := e == .pe0 || e == .pe1
  if a < 0x0400 then h && a == GLB_PSWIN
  else if a < 0x0800 then pwrRights e a
  else if a < 0x0C00 then h
  else if a < 0x0D00 then c
  else if a < 0x1000 then pkpRights e a
  else if a < 0x1400 then c
  else if a < 0x1800 then c || h
  else if a < 0x1900 then true
  else if a < 0x1A00 then c || h
  else if a < 0x1C00 then true
  else if a < 0x1D00 then h && (regAt a).any (fun w => w == HST_CFG || w == HST_NEN || w == HST_NSET)
  else if a < 0x1E00 then p
  else if a < 0x2400 then h
  else if a < 0x2500 then false
  else if a < 0x2700 then
    let n := (a - 0x2500) / 16
    (regAt a).isSome && (if n < 16 then e == engOf (n / 4) else h && decide (24 ≤ n))
  else if a < ramLo then false
  else decide (a ≤ ramHi)

/-- The mask of the bits that the lock of a row has frozen (R8). -/
def lockMask (r : RegRow) (s : State) : Nat := if r.lock ≠ 0 ∧ rd r.lock s % 2 = 1 then r.rwl else 0

/-- The RW and RWL bits of a row that no lock has frozen. -/
def openMask (r : RegRow) (s : State) : Nat := r.rw - (r.rw &&& lockMask r s)

/-- `x` with the bits set in both `v` and `m` cleared. -/
def maskClr (x v m : Nat) : Nat := x - (x &&& (v &&& m))

/-- A plain write of `v` to the register of row `r` at `a` (R8). -/
def plainWrite (r : RegRow) (a v : Nat) (s : State) : State :=
  let m := openMask r s
  parWrite a m (wr a (maskClr (maskPut (rd a s) v m) v r.w1c) s)

/-! ## Writes to particular registers -/

/-- How a write ends: done, an access fault of an engine (R348), malformed, refused, not permitted now, or stopped by an
uncorrectable word (R481). -/
inductive WrRes where
  | done | fault | malformed | refused | notNow | ecc
  deriving DecidableEq, Repr

/-- The write of a register with no behaviour beyond R8 and its clamp. -/
def clampedWrite (r : RegRow) (a v : Nat) (s : State) : State :=
  let s := plainWrite r a v s
  wr a (clampWrite a (rd a s)) s

/-- A source is present, as R119 reads the ports: 8.5 V, or 4.0 V at S3. -/
def portsPresent (s : State) : Bool :=
  (List.range 4).any (fun k => decide ((if k = 3 then 4000 else 8500) ≤ (port k s).mv))

/-- A write to PWR_PHSTAT: clearing DRV of a phase lets its drivers run (R168). -/
def phstatWrite (r : RegRow) (v : Nat) (s : State) : State :=
  forN 6 (fun k s => if bitOf v (5 * k + 3) then modPhase k (fun x => { x with drvStop := false }) s else s)
    (plainWrite r PWR_PHSTAT v s)

/-- A write to GLB_CLKSTAT: CLKFAIL clears only once the HFO has passed its monitor for 10 ms (R51). -/
def clkstatWrite (r : RegRow) (v : Nat) (s : State) : State :=
  let may := s.clk.hfoOkSince.any (fun t => decide (t + 10000 ≤ nowUs s))
  plainWrite r GLB_CLKSTAT (if may then v else putBit v 9 false) s

/-- A write to PKP_SEQCTLe (R326, R340). -/
def seqctlWrite (e v : Nat) (s : State) : State :=
  let was := flag (PKP_SEQCTL_EN e) s
  let s := setF (PKP_SEQCTL_EN e) (v % 2) s
  let s := if was && v % 2 = 0 then seqDisableOp e s else s
  let s := if bitOf v 1 then seqFlushOp e s else s
  seqStart e s

/-- A write to TMR_CAPSTATn: clearing OVR clears EDGOVF (R551). -/
def capstatWrite (r : RegRow) (n v : Nat) (s : State) : State :=
  let s := plainWrite r (TMR_CAPSTAT n) v s
  if bitOf v 1 then setF (TMR_CAPSTAT_EDGOVF n) 0 s else s

/-- A write to a retained counter (FLT_SEVRT, WDG_RCNT): 0 clears it, and other values are ignored (R516, R544, R571). -/
def clearWrite (a v : Nat) (s : State) : State := if v = 0 then wr a 0 s else s

/-- A write to HST_NPEND: a cleared bit counts as not sent (R486, R490). -/
def npendWrite (r : RegRow) (v : Nat) (s : State) : State :=
  let s := plainWrite r HST_NPEND v s
  { s with hst := { s.hst with sent := maskClr s.hst.sent v 0xFFFF } }

/-- A write to HST_NSET (R485): program causes. -/
def nsetWrite (v : Nat) (s : State) : State :=
  forN 8 (fun k s => if bitOf v (8 + k) then notify (8 + k) s else s) s

/-- Is RNG_CFGn closed: a ring with operations in flight, or a link ring while the link is enabled (R380)? -/
def rngCfgBusy (n : Nat) (s : State) : Bool := if n < 24 then ringOut n s != 0 else flag LNK_CTL_EN s

/-- Was ring `n` posted to in clock `c`? A write of its RNG_CFGn in that clock is ignored (R396). -/
def postedNow (c n : Nat) (s : State) : Bool := s.rng.same.posted.any (fun r => r.1 == n && r.2 == c)

/-- RNG_CFGn is about to change in clock `c`: what it was is noted (R396). -/
def cfgNote (c n : Nat) (s : State) : State :=
  if s.rng.same.cfgs.any (fun r => r.ring == n && r.clk == c) then s
  else modSame (fun x => { x with cfgs := ⟨n, c, rd (RNG_CFG n) s, ringPtr n s⟩ :: x.cfgs.filter (fun r => r.ring != n) }) s

/-- A write to RNG_CFGn in clock `c` (R378, R380, R396): an accepted write takes both completion indices modulo the depth. -/
def rngCfgWrite (c n v : Nat) (s : State) : State :=
  let on := bitOf v 31
  let ld := bitsOf v 19 16
  let base := v % 65536
  let unit := if n < 24 then 16 else 64
  let bad := on && !(decide (2 ≤ ld ∧ ld ≤ 8) && base % unit == 0 && decide (0x4480 ≤ base)
    && decide (base + unit * 2 ^ ld ≤ ramHi + 1))
  if bad || rngCfgBusy n s || postedNow c n s then setF (RNG_STAT_CFGREF n) 1 s
  else
    let s := parWrite (RNG_CFG n) 0xFFFFFFFF (wr (RNG_CFG n) (v &&& 0x800FFFFF) (cfgNote c n s))
    let p := ringPtr n s
    putPtr n (p.1 % 2 ^ ld, p.2 % 2 ^ ld) s

/-- A write to RNG_QUOTA0 or RNG_QUOTA1 (R391). -/
def quotaWrite (a v : Nat) (s : State) : State :=
  if flag RNG_LOCK_LOCK s then s
  else
    let t := wr a v s
    if 128 < ((List.range 5).map (fun o => quota o t)).sum then setF RNG_TAGSTAT_QREF 1 s else parWrite a 0xFFFFFFFF t

/-- A write to LNK_CTL (R426, R444). -/
def lnkCtlWrite (r : RegRow) (v : Nat) (s : State) : State :=
  let was := flag LNK_CTL_EN s
  let s := plainWrite r LNK_CTL (v - v % 2) s
  let s := setB LNK_CTL_EN was s
  let s := if was == bitOf v 0 then s else linkEnableOp (bitOf v 0) s
  if bitOf v 1 then rollRequestOp s else s

/-- TCP_TXCMD: the port takes a command of R228 to R240 (R228). -/
def tcpTxOp (c : Nat) (s : State) : State :=
  match c with
  | 1 => requestOp false s | 2 => requestOp true s | 3 => getSourceCapOp s | 4 => eprEnterOp s | 5 => eprExitOp s
  | 6 => softResetOp s | 7 => hardResetOp s | _ => s

/-- A write to TCP_TXCMD: ignored while BUSY (R243). -/
def txcmdWrite (v : Nat) (s : State) : State :=
  if flag TCP_STAT_BUSY s then s else tcpTxOp v (parWrite TCP_TXCMD 0xFF (wr TCP_TXCMD v s))

/-- A host write to ENG_CTLe (R375, R376): RESET before HALT; a RESET that is ignored leaves HALT to act. -/
def engCtlWrite (e : EngId) (v : Nat) (s : State) : State :=
  let s := modEng e (fun o => { o with dbgSel := bitsOf v 12 8 }) s
  if bitOf v 1 && !((getEng e s).phase == .fenced || inFawn s) then engineResetOp e s
  else if bitOf v 0 then engineHaltOp e s
  else modEng e (fun o => { o with haltReq := false }) s

/-- A host write to ENG_STATe: EXCEVT and HALTEVT clear (R377). -/
def engStatWrite (e : EngId) (v : Nat) (s : State) : State :=
  modEng e (fun o => { o with excEvt := o.excEvt && !bitOf v 6, haltEvt := o.haltEvt && !bitOf v 5 }) s

/-- A write to FLT_CMD (R531, R534): 0xF4 enters Fawn mode; the host's 0x4F requests the exit. -/
def fltCmdWrite (who : Option EngId) (v : Nat) (s : State) : WrRes × State :=
  if v = 0xF4 then (.done, fawnOp s)
  else if v = 0x4F && who.isNone then
    let (ok, s) := fawnExitReq s
    (if ok then .done else .notNow, s)
  else (.done, s)

/-- A write to a FLT or LOG register (R527, R526, R528, R538-R540, R542, R544). -/
def fltWrite (who : Option EngId) (r : RegRow) (a v : Nat) (s : State) : WrRes × State :=
  if a = FLT_CMD then fltCmdWrite who v s
  else (.done,
    if a = FLT_PEND0 then pendClear false v s
    else if a = FLT_PEND1 then pendClear true v s
    else if a = FLT_SEV0 then sevClear false v s
    else if a = FLT_SEV1 then sevClear true v s
    else if a = FLT_FREL then fenceReleaseOp who v s
    else if a = FLT_INJ then injectOp v s
    else if FLT_SEVRT 0 ≤ a ∧ a ≤ FLT_SEVRT 7 then clearWrite a v s
    else if a = LOG_CTL then
      let s := setF LOG_CTL_MODE (v % 2) s
      if bitOf v 1 then logClearOp s else s
    else if a = LOG_SEL then logSelectOp v s
    else if a = LOG_PUT then logPutOp who v s
    else if FLT_CFG 0 ≤ a then faultCfgOp ((a - FLT_CFG 0) / 4) v s
    else plainWrite r a v s)

/-- A write to a watchdog register (R493, R496, R497, R499, R500, R516). -/
def wdgWrite (who : Option EngId) (r : RegRow) (a v : Nat) (s : State) : State :=
  if a = WDG_CTL then (if bitOf v 0 then wdgStart s else s)
  else if a = WDG_KEY then wdgKeyWrite v s
  else if a = WDG_PER ∨ a = WDG_TASK then wdgCfgWrite (clockOf who s) a v s
  else if a = WDG_ANS then wdgServiceOp (clockOf who s) (BitVec.ofNat 32 v) s
  else if a = WDG_CHKIN then wdgCheckinOp (clockOf who s) who (v % 8) s
  else if a = WDG_RCNT then clearWrite a v s
  else plainWrite r a v s

/-- A write to a timer register (R547, R550, R551, R554, R557). -/
def tmrWrite (r : RegRow) (a v : Nat) (s : State) : State :=
  if a < 0x1700 then
    let n := (a - 0x1600) / 0x20
    match a % 0x20 with
    | 0x00 => tmrCfgWrite n v s
    | 0x04 => tmrPreWrite n v s
    | 0x0C => tmrLoad n v s
    | 0x10 => tmrCmpWrite n (BitVec.ofNat 32 v) s
    | 0x18 => capstatWrite r n v s
    | _ => plainWrite r a v s
  else if a = TMR_STAG then
    let s := parWrite TMR_STAG 0xFF (wr TMR_STAG (v % 256) s)
    if bitOf v 15 then staggerOp (v % 256) s else s
  else plainWrite r a v s

/-- A write to a register of the pack port (R320, R325, R326, R265). -/
def pkpWrite (who : Option EngId) (r : RegRow) (a v : Nat) (s : State) : State :=
  if a = PKP_OWN then ownWrite who v s
  else if a = PKP_RTEMP then rtempWrite v s
  else if PKP_SEQCTL 0 ≤ a then
    let e := (a - PKP_SEQCTL 0) / 0x20
    match a % 0x10 with
    | 0x00 => seqctlWrite e v s
    | 0x04 => seqPush e (BitVec.ofNat 32 v) s
    | _ => plainWrite r a v s
  else plainWrite r a v s

/-- A write to a set point: its shadow takes the bits that no lock has frozen and is marked; where a lock has frozen them all, the
write is ignored (R8). -/
def shWrite (who : Option EngId) (r : RegRow) (a v : Nat) (s : State) : State :=
  if openMask r s = 0 then s else mark a who.isNone (clampedWrite r a v s)

/-- The write of `v`, within rights and width, to the register at `a` by an engine or the host: the effect of each register. -/
def regWrite (who : Option EngId) (r : RegRow) (a v : Nat) (s : State) : WrRes × State :=
  if 0x1A00 ≤ a ∧ a < 0x1C00 then fltWrite who r a v s
  else (.done,
    if r.sh then shWrite who r a v s
    else if a = GLB_CLKSTAT then clkstatWrite r v s
    else if a = GLB_SHIP then (if bitsOf v 15 8 = 0x5A then shipRequestOp (portsPresent s) s.sup.feeds s else s)
    else if a = GLB_PSARM then (if v = 0xA7 then armOp s else if v = 0x5D then disarmOp s else s)
    else if a = PWR_PHSTAT then phstatWrite r v s
    else if a = CHG_CMD then (if v = 0x4C then latchRequest s else s)
    else if a = CHG_LAMP then lampSync (plainWrite r a v s)
    else if 0x0D00 ≤ a ∧ a < 0x1000 then pkpWrite who r a v s
    else if a = IMP_CTL then
      let s := setF IMP_CTL_EN (v % 2) s
      if bitOf v 1 then impCancelOp s else s
    else if 0x1600 ≤ a ∧ a < 0x1800 then tmrWrite r a v s
    else if 0x1800 ≤ a ∧ a < 0x1900 then wdgWrite who r a v s
    else if a = HST_NPEND then npendWrite r v s
    else if a = HST_NSET then nsetWrite v s
    else if a = LNK_CTL then lnkCtlWrite r v s
    else if a = LNK_ADDR then (if flag LNK_CTL_EN s then s else plainWrite r a v s)
    else if a = TCP_TXCMD then txcmdWrite v s
    else if 0x2400 ≤ a ∧ a < 0x2480 then
      let e := engOf ((a - 0x2400) / 0x20)
      if a % 0x20 = 0 then engCtlWrite e v s else if a % 0x20 = 4 then engStatWrite e v s else s
    else if 0x2500 ≤ a ∧ a < 0x2700 ∧ a % 16 = 0 then rngCfgWrite (clockOf who s) ((a - 0x2500) / 16) v s
    else if a = RNG_QUOTA0 ∨ a = RNG_QUOTA1 then quotaWrite a v s
    else clampedWrite r a v s)

/-! ## Stores of an engine and writes of the host -/

/-- A write of `n` bytes of `v` into a buffer, aligned and wholly inside it (R348): its access code applies. -/
def bufWrite (a n v : Nat) (r : RegRow) (s : State) : State :=
  if r.rw = 0 then s
  else
    let w := a / 4 * 4
    let lo := 8 * (a % 4)
    parWrite w (2 ^ (lo + 8 * n) - 2 ^ lo) (wr w (putBits (rd w s) (lo + 8 * n - 1) lo v) s)

/-- Is a buffer access of `n` bytes at `a` aligned (R349)? Aligned accesses of up to 4 bytes stay inside a buffer. -/
def bufOk (a n : Nat) : Bool := (n == 1 || n == 2 || n == 4) && a % n == 0

/-- A store of an engine that has passed its alignment: the register or RAM takes it, or it is an access fault or meets an
uncorrectable word (R44, R348, R583). -/
def engStore (e : EngId) (a n v : Nat) (s : State) : WrRes × State :=
  if !engRights e a then (.fault, s)
  else if ramLo ≤ a then
    let (ok, s) := ramStore (some e) a n v s
    (if ok then .done else .ecc, s)
  else match regOf a with
    | none => (.done, s)
    | some (w, r) =>
      if isBuffer w then (.done, bufWrite a n v r s)
      else if a ≠ w ∨ 8 * n < r.width then (.fault, s)
      else regWrite (some e) r w (v % 2 ^ r.width) s

/-- Would an engine's store fault by rights or width (R348)? This is decided when the store is issued. -/
def engStoreOk (e : EngId) (a n : Nat) : Bool :=
  engRights e a &&
    (decide (ramLo ≤ a) ||
      match regOf a with
      | none => true
      | some (w, r) => isBuffer w || (a == w && decide (r.width ≤ 8 * n)))

/-- May a host write change any field of the register at `a` (R24, R478)? -/
def hostMay (r : RegRow) (a : Nat) (s : State) : Bool :=
  if r.sh then engDown (shOwner a) s && decide (openMask r s ≠ 0)
  else if a = CHG_CMD then engDown .csq s
  else if a = LNK_ADDR then !flag LNK_CTL_EN s
  else decide (openMask r s ||| r.w1c ||| r.wo ≠ 0)

/-- Is the register at `a` closed to this host write by a condition of its own (R478)? The write is refused; what it sets of the
register's own flags stands (R320, R325, R380, R496, R500). -/
def ownClosed (a v : Nat) (s : State) : Bool :=
  if a = WDG_KEY then flag WDG_STAT_KEYLK s
  else if a = WDG_PER ∨ a = WDG_TASK then !wdgCfgOpen s
  else if a = TCP_TXCMD then flag TCP_STAT_BUSY s
  else if a = PKP_OWN then !hostOwnOk v s
  else if a = PKP_SEQTX 0 then seqFull 0 s
  else if a = PKP_SEQTX 1 then seqFull 1 s
  else decide (0x2500 ≤ a) && decide (a < 0x2700) && a % 16 == 0 && rngCfgBusy ((a - 0x2500) / 16) s

/-- The word addresses of the registers that `n` bytes from `a` touch, each once; a buffer counts by its first word. -/
def regsTouched (a n : Nat) : List Nat :=
  ((List.range n).filterMap (fun i => (regOf (a + i)).map (fun p =>
    if isBuffer p.1 then (if p.1 < TCP_RXBUF 0 ∧ TCP_TXBUF 0 ≤ p.1 then TCP_TXBUF 0
      else if TCP_RXBUF 0 ≤ p.1 then TCP_RXBUF 0 else if HST_TAKEBUF 0 ≤ p.1 then HST_TAKEBUF 0 else LOG_ENT 0)
    else p.1))).dedup

/-- A host write into shared RAM: nothing is written where a word that it covers in part is unreadable (R584). -/
def hostRam (a : Nat) (bs : List Byte) (s : State) : WrRes × State :=
  let n := bs.length
  let parts := ((List.range ((a + n + 3) / 4 - a / 4)).map (fun i => a / 4 * 4 + 4 * i)).filter
    (fun w => decide (w < a) || decide (a + n < w + 4))
  let (ok, s) := parts.foldl (fun (acc : Bool × State) w =>
    let (ok, s) := ramCheck none w acc.2
    (acc.1 && ok, s)) (true, s)
  if ok then
    let ws := (List.range ((a + n + 3) / 4 - a / 4)).map (fun i => a / 4 * 4 + 4 * i)
    (.done, ws.foldl (fun s w => ramErrClear w s) (ramWrite a bs s))
  else (.ecc, s)

/-- A write command's bytes at `a` (R478, R584): registers, shared RAM, empty addresses or the window. -/
def hostWrite (a : Nat) (bs : List Byte) (s : State) : WrRes × State :=
  let n := bs.length
  let regs := regsTouched a n
  let ram := decide (a + n > ramLo) && decide (a ≤ ramHi)
  let win := decide (ramHi < a + n - 1)
  if 2 ≤ regs.length || (ram && (!regs.isEmpty || win)) then (.malformed, s)
  else if win then (.refused, s)
  else if ram then (if ramLo ≤ a then hostRam a bs s else hostRam ramLo (bs.drop (ramLo - a)) s)
  else match regs with
    | [] => (.done, s)
    | w :: _ =>
      match findRow w with
      | none => (.done, s)
      | some r =>
        if isBuffer w then
          if r.rw ≠ 0 ∧ bufOk a n then (.done, bufWrite a n (leNat bs) r s) else (.refused, s)
        else if a ≠ w ∨ 8 * n < r.width then (.refused, s)
        else if !hostMay r w s then (.refused, s)
        else
          let v := leNat bs % 2 ^ r.width
          let (res, t) := regWrite none r w v s
          (if ownClosed w v s then .refused else res, t)

end Sys2Proof.Machine
end

