-- ==== Sys2Proof/Machine/Operands.lean ====
section
/-!
DEFINITION. Operand forms of the Raura instructions (R352-R354): the fields of an instruction word, the extension of its immediate, the
general registers (R342) and the data address (R347, R349). An instruction command carries bits [25:0] of the word; its
mnemonic is the opcode.
-/

namespace Sys2Proof.Machine

open Sys2Proof

/-- Field rd, or cond: bits [25:22]. -/
def fRd (b : BitVec 26) : Nat := bitsOf b.toNat 25 22
/-- Field rs1: bits [21:18]. -/
def fRs1 (b : BitVec 26) : Nat := bitsOf b.toNat 21 18
/-- Field rs2: bits [17:14]. -/
def fRs2 (b : BitVec 26) : Nat := bitsOf b.toNat 17 14
/-- Field imm: bits [13:0]. -/
def fImm (b : BitVec 26) : Nat := b.toNat % 2 ^ 14
/-- Field fn: imm[5:0]. -/
def fFn (b : BitVec 26) : Nat := b.toNat % 64

/-- imm14 sign-extended. -/
def immS (b : BitVec 26) : Word := (BitVec.ofNat 14 b.toNat).signExtend 32
/-- imm14 zero-extended (ANDI, ORI, XORI, SHI, MFS, MTS). -/
def immZ (b : BitVec 26) : Word := BitVec.ofNat 32 (fImm b)
/-- imm18 sign-extended. -/
def imm18 (b : BitVec 26) : Word := (BitVec.ofNat 18 b.toNat).signExtend 32
/-- imm22 sign-extended. -/
def imm22 (b : BitVec 26) : Word := (BitVec.ofNat 22 b.toNat).signExtend 32

/-- The fields that an RR instruction with fn keeps 0 (R352): imm[13:6]. -/
def okRR (b : BitVec 26) : Bool := fImm b < 64
/-- The field that an RI instruction keeps 0: rs2. -/
def okRI (b : BitVec 26) : Bool := fRs2 b == 0
/-- The field that a store keeps 0: rd. -/
def okS (b : BitVec 26) : Bool := fRd b == 0
/-- The field that a W18 instruction keeps 0: rs1. -/
def okW18 (b : BitVec 26) : Bool := fRs1 b == 0
/-- The field that a W22 instruction keeps 0: rd. -/
def okW22 (b : BitVec 26) : Bool := fRd b == 0

/-- A general register: x0 reads 0 (R342). -/
def xr (o : Eng) (k : Nat) : Word := if k = 0 then 0 else vAt o.x k

/-- A write to a general register: one to x0 is discarded (R342). -/
def xw (k : Nat) (v : Word) (o : Eng) : Eng := if k = 0 then o else { o with x := vPut o.x k v }

/-- The operand in rs1. -/
def src1 (b : BitVec 26) (o : Eng) : Word := xr o (fRs1 b)
/-- The operand in rs2. -/
def src2 (b : BitVec 26) (o : Eng) : Word := xr o (fRs2 b)

/-- The data address rs1 + imm, taken modulo 2^16 (R342, R347). -/
def dataAddr (b : BitVec 26) (o : Eng) : Nat := (src1 b o + immS b).toNat % 2 ^ 16

/-- Is an access of `n` bytes at `a` aligned (R349)? -/
def aligned (a n : Nat) : Bool := a % n == 0

end Sys2Proof.Machine
end

