-- ==== Sys2Proof/Machine/Flags.lean ====
section
/-!
DEFINITION. The flags of an engine (R355): bit 0 Z, 1 N, 2 C, 3 V, 4 Q. EXH stands apart. An instruction changes only the flags its
table lists.
-/

namespace Sys2Proof.Machine

open Sys2Proof

/-- One flag set. -/
def setFl (i : Nat) (v : Bool) (o : Eng) : Eng := { o with flags := putBit o.flags i v }

/-- Flag Z. -/
def flZ (o : Eng) : Bool := bitOf o.flags 0
/-- Flag N. -/
def flN (o : Eng) : Bool := bitOf o.flags 1
/-- Flag C. -/
def flC (o : Eng) : Bool := bitOf o.flags 2
/-- Flag V. -/
def flV (o : Eng) : Bool := bitOf o.flags 3
/-- Flag Q. -/
def flQ (o : Eng) : Bool := bitOf o.flags 4

/-- Z from a result. -/
def setZ (r : Word) (o : Eng) : Eng := setFl 0 (r == 0) o
/-- Z and N from a result. -/
def setZN (r : Word) (o : Eng) : Eng := setFl 1 r.msb (setZ r o)
/-- C and V. -/
def setCV (c v : Bool) (o : Eng) : Eng := setFl 3 v (setFl 2 c o)
/-- V. -/
def setV (v : Bool) (o : Eng) : Eng := setFl 3 v o
/-- Q is sticky: a limiting sets it, nothing clears it but MTS (R355). -/
def stickQ (q : Bool) (o : Eng) : Eng := if q then setFl 4 true o else o

/-- Carry out of bit 31 of a sum. -/
def addC (a b : Word) : Bool := decide (2 ^ 32 ≤ a.toNat + b.toNat)
/-- Signed overflow of a sum. -/
def addV (a b : Word) : Bool := (a + b).toInt != a.toInt + b.toInt
/-- No borrow of a difference: a ≥ b unsigned. -/
def subC (a b : Word) : Bool := decide (b.toNat ≤ a.toNat)
/-- Signed overflow of a difference. -/
def subV (a b : Word) : Bool := (a - b).toInt != a.toInt - b.toInt

/-- rd with Z and N. -/
def putZN (b : BitVec 26) (r : Word) (o : Eng) : Eng := setZN r (xw (fRd b) r o)

/-- The test of BF (R358); none for an illegal cond. -/
def bfTest (c : Nat) (o : Eng) : Option Bool :=
  match c with
  | 0 => some (flZ o) | 1 => some (!flZ o) | 2 => some (flN o) | 3 => some (!flN o)
  | 4 => some (flC o) | 5 => some (!flC o) | 6 => some (flV o) | 7 => some (!flV o)
  | 8 => some (flQ o) | 9 => some (!flQ o)
  | 10 => some (!flZ o && flN o == flV o) | 11 => some (flZ o || flN o != flV o) | 12 => some true
  | _ => none

/-- The comparison of BR (R358); none for an illegal cond. -/
def brTest (c : Nat) (a b : Word) : Option Bool :=
  match c with
  | 0 => some (a == b) | 1 => some (a != b) | 2 => some (decide (a.toInt < b.toInt)) | 3 => some (decide (b.toInt ≤ a.toInt))
  | 4 => some (decide (a.toNat < b.toNat)) | 5 => some (decide (b.toNat ≤ a.toNat))
  | _ => none

end Sys2Proof.Machine
end

