-- ==== Sys2Proof/Machine/EngRun.lean ====
section
/-!
DEFINITION. How an engine runs one instruction: when it may (R26, R366-R369), its fetch (R344, R345), the illegal-instruction check
(R353), the store buffer (R350), loads (R347, R351) and the end of an instruction.
-/

namespace Sys2Proof.Machine

open Sys2Proof

/-! ## Line buffers (R345) -/

/-- A line enters a buffer: it is read and checked. A correction is reported at once; an uncorrectable line is marked and
raises nothing yet. The buffer of the line at pc stays. -/
def fillLine (e : EngId) (l : Nat) (s : State) : State :=
  let o := getEng e s
  if o.lines.any (fun x => x.1 == l) then s
  else
    let b := actBank s
    let (n, s) := lineDecode b l s
    let s := if n = 1 then psCorr (some (engNo e)) b l s else s
    let keep := (o.lines.filter (fun x => x.1 == o.pc.toNat / 64)) ++ o.lines.filter (fun x => x.1 != o.pc.toNat / 64)
    modEng e (fun o => { o with lines := (l, if n = 2 then 1 else 0) :: keep.take 1 }) s

/-- Is the line marked uncorrectable in its buffer? -/
def lineBad (o : Eng) (l : Nat) : Bool := o.lines.any (fun x => x.1 == l && x.2 != 0)

/-- A fetch from a line marked uncorrectable (R345, R401, R420): the first raises ECC_PS with its counts and fails the check window;
the line then stays marked as reported. -/
def lineFault (e : EngId) (l : Nat) (s : State) : State :=
  if (getEng e s).lines.any (fun x => x.1 == l && x.2 == 1) then
    let s := modEng e (fun o => { o with lines := o.lines.map (fun x => if x.1 == l then (l, 2) else x) }) s
    let s := psUncor (some (engNo e)) (actBank s) l s
    if s.store.winOpen then modStore (fun x => { x with winFail := x.winFail ||| 16 }) s else s
  else s

/-! ## Starting and ending an instruction -/

/-- May the engine execute now: released, and inside its 1,800 cycles (R26)? -/
def canRun (e : EngId) (s : State) : Bool := (getEng e s).phase == .running && decide ((getEng e s).cyc < 1800)

/-- Is pc in the engine's code region (R344)? -/
def pcOk (o : Eng) : Bool := o.pc.toNat % 4 == 0 && decide (o.cstart ≤ o.pc.toNat) && decide (o.pc.toNat < o.cend)

/-- An exception at the instruction under way: EPC takes its pc (R371). -/
def fault (e : EngId) (cause bad : Nat) (s : State) : State := takeException e cause bad (getEng e s).pc s

/-- One instruction of engine `e`: fetch (cause 0x05, 0x06), legality (cause 0x01), then its own effect `body`. An engine that may
not execute now does nothing. -/
def runInstr (e : EngId) (legal : Bool) (body : State → State) (s : State) : State :=
  if !canRun e s then s
  else
    let s := { s with clk := { s.clk with sft := max s.clk.sft (engTickNow (getEng e s)) } }
    let pc := (getEng e s).pc.toNat
    if !pcOk (getEng e s) then fault e 5 pc s
    else
      let s := fillLine e (pc / 64) s
      if lineBad (getEng e s) (pc / 64) then fault e 6 (pc / 64 * 64) (lineFault e (pc / 64) s)
      else if !legal then fault e 1 0 s
      else body s

/-- The end of an instruction that goes on at the next word: its effect on the engine and its cycles. -/
def fin (e : EngId) (n : Nat) (f : Eng → Eng) (s : State) : State :=
  modEng e (fun o => { f o with pc := (f o).pc + 4, cyc := (f o).cyc + n }) s

/-- The end of a taken branch or a jump to `t`: 3 cycles and the fetch cost (R345, R356). -/
def finJump (e : EngId) (t : Half) (f : Eng → Eng) (s : State) : State :=
  modEng e (fun o => { f o with pc := t, cyc := (f o).cyc + 3 + jumpCost o t.toNat }) s

/-- The target of a branch or jump: its own address plus the extended offset × 4 (R354). -/
def target (o : Eng) (off : Word) : Half := o.pc + BitVec.ofNat 16 (off.toNat * 4)

/-! ## The store buffer (R350) -/

/-- The engine spends `n` cycles. -/
def spend (e : EngId) (n : Nat) (s : State) : State := modEng e (fun o => { o with cyc := o.cyc + n }) s

/-- The wait of one access to shared RAM, at most 4 cycles (R48). -/
def ramWaits (e : EngId) (s : State) : State := useSeed (spend e (Config.ramWait s.seed % 5) s)

/-- The oldest posted store lands. -/
def landOne (e : EngId) (s : State) : State :=
  match (getEng e s).sb with
  | [] => s
  | x :: t => (engStore e x.addr x.size x.val.toNat (modEng e (fun o => { o with sb := t }) s)).2

/-- The cycle of one landing in a drain, with its bank wait. -/
def landCost (e : EngId) (s : State) : State :=
  match (getEng e s).sb with
  | [] => s
  | x :: _ => if ramLo ≤ x.addr then ramWaits e (spend e 1 s) else spend e 1 s

/-- Every posted store lands before the instruction goes on: a load, a POST, a narrow store (R350, R361). -/
def drain (e : EngId) (s : State) : State :=
  forN 4 (fun _ s => if (getEng e s).sb.isEmpty then s else landOne e (landCost e s)) s

/-- A store is posted; with the buffer full one entry lands first. -/
def post' (e : EngId) (a n : Nat) (v : Word) (s : State) : State :=
  let s := if 4 ≤ (getEng e s).sb.length then landOne e (landCost e s) else s
  modEng e (fun o => { o with sb := o.sb ++ [⟨a, n, v⟩] }) s

/-! ## Loads (R347, R350, R351) -/

/-- What a load does to the register it reads: PKP_SEQRXe is popped (R325), NEW of a capture is cleared by its low byte
(R551). -/
def loadEffect (a : Nat) (s : State) : State :=
  let w := a / 4 * 4
  if w = PKP_SEQRX 0 then seqPop 0 s
  else if w = PKP_SEQRX 1 then seqPop 1 s
  else if 0x1600 ≤ w ∧ w < 0x1700 ∧ a % 0x20 = 0x14 then timerCaptureReadOp ((w - 0x1600) / 0x20) s
  else s

/-- The cycles of a load (R350). -/
def loadCost (e : EngId) (a : Nat) (s : State) : State :=
  if a < ramLo then spend e 4 s else if a ≤ ramHi then ramWaits e (spend e 2 s) else spend e 6 s

/-- The `n` bytes at `a` as a number, once earlier stores have landed; none where the word is uncorrectable. -/
def engLoad (e : EngId) (a n : Nat) (s : State) : Option Nat × State :=
  let s := loadCost e a (drain e s)
  let (ok, v, s) := readWord (some e) (a / 4 * 4) (parCheck (a / 4 * 4) ((List.range n).map (fun i => a + i)) s)
  if ok then (some (v / 2 ^ (8 * (a % 4)) % 2 ^ (8 * n)), if a < ramLo then loadEffect a s else s) else (none, s)

/-- A load instruction of `n` bytes; `ext` extends what was read (R347, R349, R351). One that meets an uncorrectable word has spent its
access before the exception (DESIGN CHOICE, log entry 178). -/
def loadInstr (e : EngId) (b : BitVec 26) (n : Nat) (ext : Nat → Word) (s : State) : State :=
  let a := dataAddr b (getEng e s)
  if !aligned a n then fault e 2 a s
  else
    match engLoad e a n s with
    | (some v, s) => fin e 0 (xw (fRd b) (ext v)) s
    | (none, s) => fault e 7 a s

/-- A store instruction of `n` bytes (R348-R350, R583): a register store or an STW is posted; a narrow store to shared RAM is not. -/
def storeInstr (e : EngId) (b : BitVec 26) (n : Nat) (s : State) : State :=
  let o := getEng e s
  let a := dataAddr b o
  let v := src2 b o
  if !aligned a n then fault e 2 a s
  else if !engStoreOk e a n then fault e 3 a s
  else if ramLo ≤ a ∧ n < 4 then
    match engStore e a n (v.toNat % 2 ^ (8 * n)) (ramWaits e (spend e 2 (drain e s))) with
    | (.done, s) => fin e 0 id s
    | (_, s) => fault e 7 a s
  else fin e 1 id (post' e a n v s)

end Sys2Proof.Machine
end

