-- ==== Sys2Proof/Machine/AluInstr.lean ====
section
/-!
DEFINITION. The arithmetic instructions of every engine (R356, R357, R359): ALU, the immediate forms, LUI, LI, MULG and DIVG.
-/

namespace Sys2Proof.Machine

open Sys2Proof

/-- An instruction command: the instruction, then the collector takes its events. Without VCC no engine runs. -/
def asInstr (e : EngId) (legal : Bool) (body : State → State) (s : State) : Host.Outcome State Fault Refusal :=
  .next (settle (runInstr e legal body s))

/-- The result of an ALU function (R357); none for a fn not listed. -/
def aluFn (fn : Nat) (a b : Word) : Option Word :=
  match fn with
  | 0x00 => some (a + b)
  | 0x01 => some (a - b)
  | 0x02 => some (a &&& b)
  | 0x03 => some (a ||| b)
  | 0x04 => some (a ^^^ b)
  | 0x05 => some (a <<< (b.toNat % 32))
  | 0x06 => some (a >>> (b.toNat % 32))
  | 0x07 => some (a.sshiftRight (b.toNat % 32))
  | 0x08 => some (if a.toInt < b.toInt then 1 else 0)
  | 0x09 => some (if a.toNat < b.toNat then 1 else 0)
  | 0x0A => some (if a.toInt ≤ b.toInt then a else b)
  | 0x0B => some (if a.toInt ≤ b.toInt then b else a)
  | 0x0C => some (if a.toNat ≤ b.toNat then a else b)
  | 0x0D => some (if a.toNat ≤ b.toNat then b else a)
  | 0x0E => some (BitVec.ofNat 32 (if a = 0 then 32 else 31 - a.toNat.log2))
  | 0x0F => some a.reverse
  | 0x10 => some (BitVec.ofNat 32 (leNat (leBytes 4 a.toNat).reverse))
  | _ => none

/-- The flags of an ALU function: Z and N of each, C and V of ADD and SUB. -/
def aluFlags (fn : Nat) (a b r : Word) (o : Eng) : Eng :=
  let o := setZN r o
  match fn with
  | 0x00 => setCV (addC a b) (addV a b) o
  | 0x01 => setCV (subC a b) (subV a b) o
  | _ => o

/-- Legality of an ALU word: fn listed, imm[13:6] zero, rs2 = x0 for CLZ, BREV and BSWAP. -/
def aluOk (b : BitVec 26) : Bool := okRR b && decide (fFn b ≤ 0x10) && (decide (fFn b < 0x0E) || fRs2 b == 0)

/-- The effect of ALU on the engine. -/
def aluEff (b : BitVec 26) (o : Eng) : Eng :=
  let r := (aluFn (fFn b) (src1 b o) (src2 b o)).getD 0
  aluFlags (fFn b) (src1 b o) (src2 b o) r (xw (fRd b) r o)

/-- ALU rd, rs1, rs2 (R357). -/
def execAlu (e : EngId) (b : BitVec 26) (s : State) : Host.Outcome State Fault Refusal :=
  asInstr e (aluOk b) (fin e 1 (aluEff b)) s

/-- The effect of ADDI: Z N C V. -/
def addiEff (b : BitVec 26) (o : Eng) : Eng :=
  setCV (addC (src1 b o) (immS b)) (addV (src1 b o) (immS b)) (putZN b (src1 b o + immS b) o)

/-- ADDI rd, rs1, imm. -/
def execAddi (e : EngId) (b : BitVec 26) (s : State) : Host.Outcome State Fault Refusal :=
  asInstr e (okRI b) (fin e 1 (addiEff b)) s

/-- The effect of ANDI, ORI and XORI: the immediate is zero-extended (R354). -/
def andiEff (b : BitVec 26) (o : Eng) : Eng := putZN b (src1 b o &&& immZ b) o
def oriEff (b : BitVec 26) (o : Eng) : Eng := putZN b (src1 b o ||| immZ b) o
def xoriEff (b : BitVec 26) (o : Eng) : Eng := putZN b (src1 b o ^^^ immZ b) o

/-- ANDI rd, rs1, imm. -/
def execAndi (e : EngId) (b : BitVec 26) (s : State) : Host.Outcome State Fault Refusal :=
  asInstr e (okRI b) (fin e 1 (andiEff b)) s
/-- ORI rd, rs1, imm. -/
def execOri (e : EngId) (b : BitVec 26) (s : State) : Host.Outcome State Fault Refusal :=
  asInstr e (okRI b) (fin e 1 (oriEff b)) s
/-- XORI rd, rs1, imm. -/
def execXori (e : EngId) (b : BitVec 26) (s : State) : Host.Outcome State Fault Refusal :=
  asInstr e (okRI b) (fin e 1 (xoriEff b)) s

/-- Legality of SHI: imm[13:12] not 0b11, imm[11:5] zero. -/
def shiOk (b : BitVec 26) : Bool := okRI b && decide (bitsOf (fImm b) 13 12 ≠ 3) && bitsOf (fImm b) 11 5 == 0

/-- The shift of SHI. -/
def shiFn (b : BitVec 26) (a : Word) : Word :=
  match bitsOf (fImm b) 13 12 with
  | 0 => a <<< (fImm b % 32)
  | 1 => a >>> (fImm b % 32)
  | _ => a.sshiftRight (fImm b % 32)

/-- The effect of SHI. -/
def shiEff (b : BitVec 26) (o : Eng) : Eng := putZN b (shiFn b (src1 b o)) o

/-- SHI: SLLI, SRLI, SRAI. -/
def execShi (e : EngId) (b : BitVec 26) (s : State) : Host.Outcome State Fault Refusal :=
  asInstr e (shiOk b) (fin e 1 (shiEff b)) s

/-- The effect of SLTI and SLTIU. -/
def sltiEff (b : BitVec 26) (o : Eng) : Eng := putZN b (if (src1 b o).toInt < (immS b).toInt then 1 else 0) o
def sltiuEff (b : BitVec 26) (o : Eng) : Eng := putZN b (if (src1 b o).toNat < (immS b).toNat then 1 else 0) o

/-- SLTI rd, rs1, imm. -/
def execSlti (e : EngId) (b : BitVec 26) (s : State) : Host.Outcome State Fault Refusal :=
  asInstr e (okRI b) (fin e 1 (sltiEff b)) s
/-- SLTIU rd, rs1, imm: the immediate is first sign-extended. -/
def execSltiu (e : EngId) (b : BitVec 26) (s : State) : Host.Outcome State Fault Refusal :=
  asInstr e (okRI b) (fin e 1 (sltiuEff b)) s

/-- LUI rd, imm18. -/
def execLui (e : EngId) (b : BitVec 26) (s : State) : Host.Outcome State Fault Refusal :=
  asInstr e (okW18 b) (fin e 1 (xw (fRd b) (imm18 b <<< 14))) s
/-- LI rd, imm18. -/
def execLi (e : EngId) (b : BitVec 26) (s : State) : Host.Outcome State Fault Refusal :=
  asInstr e (okW18 b) (fin e 1 (xw (fRd b) (imm18 b))) s

/-- The product of MULG (R356) as an integer, before its word is taken. -/
def mulExact (fn : Nat) (a b : Word) : Int :=
  match fn with
  | 2 => (a.toNat : Int) * b.toNat
  | 3 => a.toInt * (b.toNat : Int)
  | _ => a.toInt * b.toInt

/-- MUL takes bits [31:0], the others [63:32]. -/
def mulFn (fn : Nat) (a b : Word) : Word :=
  if fn = 0 then BitVec.ofInt 32 (mulExact 0 a b) else BitVec.ofInt 32 (mulExact fn a b / 2 ^ 32)

/-- The effect of MULG: V for MUL alone (R359). -/
def mulEff (b : BitVec 26) (o : Eng) : Eng :=
  let p := mulExact 0 (src1 b o) (src2 b o)
  let o' := putZN b (mulFn (fFn b) (src1 b o) (src2 b o)) o
  if fFn b = 0 then setV (decide (p ≠ satS 32 p)) o' else o'

/-- MULG: MUL, MULH, MULHU, MULHSU. -/
def execMulg (e : EngId) (b : BitVec 26) (s : State) : Host.Outcome State Fault Refusal :=
  asInstr e (okRR b && decide (fFn b ≤ 3)) (fin e 2 (mulEff b)) s

/-- Division (R359): the result and V, edge cases first. -/
def divFn (fn : Nat) (a b : Word) : Word × Bool :=
  if b = 0 then ((if fn ≤ 1 then 0xFFFFFFFF#32 else a), true)
  else if a = 0x80000000#32 ∧ b = 0xFFFFFFFF#32 ∧ fn % 2 = 0 then ((if fn = 0 then 0x80000000#32 else 0), true)
  else
    (match fn with
      | 0 => BitVec.ofInt 32 (a.toInt.tdiv b.toInt)
      | 1 => BitVec.ofNat 32 (a.toNat / b.toNat)
      | 2 => BitVec.ofInt 32 (a.toInt.tmod b.toInt)
      | _ => BitVec.ofNat 32 (a.toNat % b.toNat), false)

/-- The effect of DIVG: Z N V. -/
def divEff (b : BitVec 26) (o : Eng) : Eng :=
  let r := divFn (fFn b) (src1 b o) (src2 b o)
  setV r.2 (putZN b r.1 o)

/-- DIVG: DIV, DIVU, REM, REMU. -/
def execDivg (e : EngId) (b : BitVec 26) (s : State) : Host.Outcome State Fault Refusal :=
  asInstr e (okRR b && decide (fFn b ≤ 3)) (fin e 34 (divEff b)) s

end Sys2Proof.Machine
end

