-- ==== Sys2Proof/Machine/FrameCmds.lean ====
section
/-!
DEFINITION. The meanings of the commands of the frame and the clocks: one definition per command, each over the operation of its block.
-/

namespace Sys2Proof.Machine

open Sys2Proof

/-- A command to a block that runs from VCC: without VCC it has no effect. The collector then takes what the command raised. -/
def run (f : State → State) (s : State) : Host.Outcome State Fault Refusal := .next (settle (if vccOn s then f s else s))

/-- A command to the supplies, or to a block that judges the supply itself. -/
def runAO (f : State → State) (s : State) : Host.Outcome State Fault Refusal := .next (settle (f s))

/-- FRAME_TICK (R26). -/
def execFrameTick (o : FrameObs) (s : State) : Host.Outcome State Fault Refusal := run (frameTickOp o) s

/-- ENGINE_RELEASE (R26). -/
def execEngineRelease (s : State) : Host.Outcome State Fault Refusal := run engineReleaseOp s

/-- SUPERFRAME_BOUNDARY (R32). -/
def execSuperframeBoundary (s : State) : Host.Outcome State Fault Refusal := run superframeOp s

/-- IDLE_FRAMES_FAWN (R31). -/
def execIdleFramesFawn (s : State) : Host.Outcome State Fault Refusal := run idleFawnOp s

/-- CLOCK_MONITOR_CHECK (R41). -/
def execClockMonitorCheck (count : Nat) (s : State) : Host.Outcome State Fault Refusal := run (clockMonitorOp count) s

/-- HFO_FAILED (R42). -/
def execHfoFailed (s : State) : Host.Outcome State Fault Refusal := run hfoFailedOp s

/-- XI_STATUS_CHANGE (R86). -/
def execXiStatusChange (present : Bool) (s : State) : Host.Outcome State Fault Refusal := run (xiOp present) s

/-- ENGINE_RESET (R375). -/
def execEngineReset (e : EngId) (s : State) : Host.Outcome State Fault Refusal := run (engineResetOp e) s

/-- ENGINE_HALT (R375). -/
def execEngineHalt (e : EngId) (s : State) : Host.Outcome State Fault Refusal := run (engineHaltOp e) s

end Sys2Proof.Machine
end

