-- ==== Sys2Proof/Machine/ChgCmds.lean ====
section
/-!
DEFINITION. The meanings of the commands of charge control: one definition per command, each over the operation of its block.
-/

namespace Sys2Proof.Machine

open Sys2Proof

/-- A hardware row of R254 waits for the next tick, if it applies in the state in force. -/
def hwRow (r cause : Nat) (s : State) : State := if rowApplies r s then queueRow r cause s else s

/-- 30 s in IDENTIFY: row 9 of R254. -/
def identifyEnd (s : State) : State := hwRow 9 1 s

/-- The recovery attempt timer reaches 2 s: row 11, or row 12 after the fifth attempt. -/
def recoverEnd (s : State) : State := if fld CHG_REC_ATT s < 5 then hwRow 11 0 s else hwRow 12 5 s

/-- 1 s in TAPER_END without a request: row 23. -/
def taperEnd (s : State) : State := hwRow 23 0 s

/-- DESCRIPTOR_LATCH (R248). -/
def execDescriptorLatch (s : State) : Host.Outcome State Fault Refusal := run latchRequest s

/-- LATCH_COMPLETE (R248). -/
def execLatchComplete (s : State) : Host.Outcome State Fault Refusal := run latchDone s

/-- PACK_OV_TRIP (R262). -/
def execPackOvTrip (o : FastObs) (s : State) : Host.Outcome State Fault Refusal := run (packOvTripOp o) s

/-- PACK_OC_TRIP (R263). -/
def execPackOcTrip (o : FastObs) (s : State) : Host.Outcome State Fault Refusal := run (packOcTripOp o) s

/-- PRESENCE_OPEN_DETECT (R275). -/
def execPresenceOpenDetect (s : State) : Host.Outcome State Fault Refusal := run presOpenOp s

/-- CURRENT_COLLAPSE_DETECT (R275). -/
def execCurrentCollapseDetect (o : FastObs) (s : State) : Host.Outcome State Fault Refusal := run (collapseOp o) s

/-- PACK_ABSENT (R253). -/
def execPackAbsent (s : State) : Host.Outcome State Fault Refusal := run packAbsentOp s

/-- PACK_PRESENCE (R254). -/
def execPackPresence (s : State) : Host.Outcome State Fault Refusal := run packPresenceOp s

/-- IDENTIFY_BACKSTOP (R254). -/
def execIdentifyBackstop (s : State) : Host.Outcome State Fault Refusal := run identifyEnd s

/-- RECOVER_ATTEMPT_END (R254). -/
def execRecoverAttemptEnd (s : State) : Host.Outcome State Fault Refusal := run recoverEnd s

/-- TAPER_END_BACKSTOP (R254). -/
def execTaperEndBackstop (s : State) : Host.Outcome State Fault Refusal := run taperEnd s

/-- TEMPERATURE_BAND_CHANGE (R266). -/
def execTemperatureBandChange (s : State) : Host.Outcome State Fault Refusal := run bandChange s

/-- SUSPEND_TEMP_EXIT (R266). -/
def execSuspendTempExit (s : State) : Host.Outcome State Fault Refusal := run suspendExit s

/-- TEMPERATURE_STALE (R265). -/
def execTemperatureStale (s : State) : Host.Outcome State Fault Refusal := run tempStale s

/-- RECHARGE_THRESHOLD (R274). -/
def execRechargeThreshold (s : State) : Host.Outcome State Fault Refusal := run rechargeOp s

/-- PK_DG_CLOSE_COMPLETE (R259). -/
def execPkDgCloseComplete (s : State) : Host.Outcome State Fault Refusal := run dgClosed s

/-- PACK_CURRENT_RAMP_END (R260). -/
def execPackCurrentRampEnd (s : State) : Host.Outcome State Fault Refusal := run dgOpened s

/-- LAMP_PATTERN_STEP (R279). -/
def execLampPatternStep (lamp : Fin 2) (s : State) : Host.Outcome State Fault Refusal := run (lampStepOp lamp.val) s

end Sys2Proof.Machine
end

