-- ==== Sys2Proof/Machine/MemInstr.lean ====
section
/-!
DEFINITION. Loads, stores, AMO and LDP (R346-R351, R583), the landing of a posted store and the fill of a line buffer (R345).
-/

namespace Sys2Proof.Machine

open Sys2Proof

/-- Sign extension of `n` bytes. -/
def sext (n v : Nat) : Word := BitVec.ofInt 32 (sgn (8 * n) v)
/-- Zero extension. -/
def zext (v : Nat) : Word := BitVec.ofNat 32 v

/-- LDB rd, imm(rs1). -/
def execLdb (e : EngId) (b : BitVec 26) (s : State) : Host.Outcome State Fault Refusal :=
  asInstr e (okRI b) (loadInstr e b 1 (sext 1)) s
/-- LDBU rd, imm(rs1). -/
def execLdbu (e : EngId) (b : BitVec 26) (s : State) : Host.Outcome State Fault Refusal :=
  asInstr e (okRI b) (loadInstr e b 1 zext) s
/-- LDH rd, imm(rs1). -/
def execLdh (e : EngId) (b : BitVec 26) (s : State) : Host.Outcome State Fault Refusal :=
  asInstr e (okRI b) (loadInstr e b 2 (sext 2)) s
/-- LDHU rd, imm(rs1). -/
def execLdhu (e : EngId) (b : BitVec 26) (s : State) : Host.Outcome State Fault Refusal :=
  asInstr e (okRI b) (loadInstr e b 2 zext) s
/-- LDW rd, imm(rs1). -/
def execLdw (e : EngId) (b : BitVec 26) (s : State) : Host.Outcome State Fault Refusal :=
  asInstr e (okRI b) (loadInstr e b 4 zext) s

/-- STB rs2, imm(rs1). -/
def execStb (e : EngId) (b : BitVec 26) (s : State) : Host.Outcome State Fault Refusal :=
  asInstr e (okS b) (storeInstr e b 1) s
/-- STH rs2, imm(rs1). -/
def execSth (e : EngId) (b : BitVec 26) (s : State) : Host.Outcome State Fault Refusal :=
  asInstr e (okS b) (storeInstr e b 2) s
/-- STW rs2, imm(rs1). -/
def execStw (e : EngId) (b : BitVec 26) (s : State) : Host.Outcome State Fault Refusal :=
  asInstr e (okS b) (storeInstr e b 4) s

/-- STORE_LANDS (R350): the oldest posted store lands, whatever the engine does meanwhile. -/
def execStoreLands (e : EngId) (s : State) : Host.Outcome State Fault Refusal := .next (settle (landOne e s))

/-- The new word of AMO (R356). -/
def amoFn (fn : Nat) (t v : Word) : Word :=
  match fn with
  | 0 => v | 1 => t + v | 2 => t &&& v | _ => t ||| v

/-- AMO (R349, R350, R351, R356): one atomic read and write of a word of shared RAM. -/
def amoInstr (e : EngId) (b : BitVec 26) (s : State) : State :=
  let o := getEng e s
  let a := (src1 b o).toNat % 2 ^ 16
  if !aligned a 4 then fault e 2 a s
  else if !inRam a 4 then fault e 3 a s
  else
    let (ok, s) := ramCheck (some e) a (ramWaits e (spend e 4 (drain e s)))
    if !ok then fault e 7 a s
    else
      let t := BitVec.ofNat 32 (ramNat a 4 s)
      let s := ramErrClear a (ramWriteNat a 4 (amoFn (fFn b) t (src2 b o)).toNat s)
      fin e 0 (xw (fRd b) t) s

/-- AMO rd, rs1, rs2: SWAP, ADD, AND, OR. -/
def execAmo (e : EngId) (b : BitVec 26) (s : State) : Host.Outcome State Fault Refusal :=
  asInstr e (okRR b && decide (fFn b ≤ 3)) (amoInstr e b) s

/-- LDP (R346): a word of the active bank, in 6 cycles. -/
def ldpInstr (e : EngId) (b : BitVec 26) (s : State) : State :=
  let a := dataAddr b (getEng e s)
  if !aligned a 4 then fault e 2 a s
  else
    let bank := actBank s
    let (ok, s) := psReadLine (some (engNo e)) true bank (a / 64) s
    if ok then fin e 6 (xw (fRd b) (zext (psNat bank a 4 s))) s else fault e 6 (a / 64 * 64) s

/-- LDP rd, imm(rs1). -/
def execLdp (e : EngId) (b : BitVec 26) (s : State) : Host.Outcome State Fault Refusal :=
  asInstr e (okRI b) (ldpInstr e b) s

/-- LINE_BUFFER_FILL (R345): a line enters a buffer by prefetch or demand fetch. An engine that is not started, halted or fenced
fetches nothing (R373). A word `word` that names no instruction is then fetched and illegal (R353, log entry 11). -/
def execLineBufferFill (e : EngId) (line : Fin 1024) (word : Option Word) (s : State) : Host.Outcome State Fault Refusal :=
  .next (settle (
    if engDown e s || (getEng e s).phase == .notStarted then s
    else
      let s := fillLine e line.val s
      if word.any (fun w => (decodeRaura e w).isNone) then runInstr e false id s else s))

end Sys2Proof.Machine
end

