-- ==== Sys2Proof/Machine/CtlInstr.lean ====
section
/-!
DEFINITION. Branches, jumps, YIELD, HALT, TRAP, ERET, the special registers, POST and TAKE (R354, R356, R358, R360, R361, R366-R372).
-/

namespace Sys2Proof.Machine

open Sys2Proof

/-- A branch whose test is known: taken, it costs 3 cycles; not taken, 1. -/
def branch (e : EngId) (t : Bool) (off : Word) (s : State) : State :=
  if t then finJump e (target (getEng e s) off) id s else fin e 1 id s

/-- BR cond, rs1, rs2, imm. -/
def brInstr (e : EngId) (b : BitVec 26) (s : State) : State :=
  let o := getEng e s
  branch e ((brTest (fRd b) (src1 b o) (src2 b o)).getD false) (immS b) s

/-- BR (R358): a cond above 0b0101 is illegal. -/
def execBr (e : EngId) (b : BitVec 26) (s : State) : Host.Outcome State Fault Refusal :=
  asInstr e (decide (fRd b ≤ 5)) (brInstr e b) s

/-- BF cond, imm18. -/
def bfInstr (e : EngId) (b : BitVec 26) (s : State) : State :=
  branch e ((bfTest (fRd b) (getEng e s)).getD false) (imm18 b) s

/-- BF (R358): a cond above 0b1100 is illegal. -/
def execBf (e : EngId) (b : BitVec 26) (s : State) : Host.Outcome State Fault Refusal :=
  asInstr e (okW18 b && decide (fRd b ≤ 12)) (bfInstr e b) s

/-- The return address of a link: pc + 4. -/
def linkAddr (o : Eng) : Word := (o.pc + 4).setWidth 32

/-- JAL rd, imm18. -/
def jalInstr (e : EngId) (b : BitVec 26) (s : State) : State :=
  let o := getEng e s
  finJump e (target o (imm18 b)) (xw (fRd b) (linkAddr o)) s

/-- JAL (R356). -/
def execJal (e : EngId) (b : BitVec 26) (s : State) : Host.Outcome State Fault Refusal :=
  asInstr e (okW18 b) (jalInstr e b) s

/-- JALR rd, rs1, imm: the target is (rs1 + imm) and 0xFFFC, formed before rd is written. -/
def jalrInstr (e : EngId) (b : BitVec 26) (s : State) : State :=
  let o := getEng e s
  finJump e (BitVec.ofNat 16 (src1 b o + immS b).toNat &&& 0xFFFC#16) (xw (fRd b) (linkAddr o)) s

/-- JALR (R356). -/
def execJalr (e : EngId) (b : BitVec 26) (s : State) : Host.Outcome State Fault Refusal :=
  asInstr e (okRI b) (jalrInstr e b) s

/-- J imm22. -/
def jInstr (e : EngId) (b : BitVec 26) (s : State) : State := finJump e (target (getEng e s) (imm22 b)) id s

/-- J (R356). -/
def execJ (e : EngId) (b : BitVec 26) (s : State) : Host.Outcome State Fault Refusal :=
  asInstr e (okW22 b) (jInstr e b) s

/-- One store of a YIELD's drain, if the frame still has a cycle for it (R366, R367). -/
def yieldLand (e : EngId) (s : State) : State :=
  if (getEng e s).sb.isEmpty then s
  else
    let s := landCost e s
    if (getEng e s).cyc ≤ 1800 then landOne e s else s

/-- YIELD (R366, R367): it completes in the cycle in which the last store lands, in one cycle with none posted. One that has not
completed by tick 1999 is abandoned: what landed stays landed, and it runs again from its start after the release. -/
def yieldInstr (e : EngId) (s : State) : State :=
  let s := if (getEng e s).sb.isEmpty then spend e 1 s else forN 4 (fun _ s => yieldLand e s) s
  if (getEng e s).sb.isEmpty && decide ((getEng e s).cyc ≤ 1800) then
    modEng e (fun o => { o with pc := o.pc + 4, yielded := true, phase := .yielded }) s
  else s

/-- YIELD (R366). -/
def execYield (e : EngId) (b : BitVec 26) (s : State) : Host.Outcome State Fault Refusal :=
  asInstr e (b == 0) (yieldInstr e) s

/-- HALT (R356, R376): the stores land, then the engine halts with cause 0x09. -/
def haltInstr (e : EngId) (s : State) : State :=
  haltEngine e 9 (fin e 1 id (drain e s))

/-- HALT. -/
def execHalt (e : EngId) (b : BitVec 26) (s : State) : Host.Outcome State Fault Refusal :=
  asInstr e (b == 0) (haltInstr e) s

/-- TRAP imm (R354, R370, R371): BADADDR takes imm14, sign-extended, and EPC pc + 4. -/
def trapInstr (e : EngId) (b : BitVec 26) (s : State) : State :=
  takeException e 8 (immS b).toNat ((getEng e s).pc + 4) (spend e 1 s)

/-- TRAP: rd, rs1 and rs2 must be 0. -/
def execTrap (e : EngId) (b : BitVec 26) (s : State) : Host.Outcome State Fault Refusal :=
  asInstr e (decide (b.toNat < 2 ^ 14)) (trapInstr e b) s

/-- ERET (R370, R372): with EXH = 0 it is illegal. -/
def eretInstr (e : EngId) (s : State) : State :=
  let o := getEng e s
  if o.exh then returnException e (spend e (3 + jumpCost o o.epc.toNat) s) else fault e 1 0 s

/-- ERET. -/
def execEret (e : EngId) (b : BitVec 26) (s : State) : Host.Outcome State Fault Refusal :=
  asInstr e (b == 0) (eretInstr e) s

/-! ## Special registers (R360) -/

/-- A pin engine. -/
def isPe (e : EngId) : Bool := e == .pe0 || e == .pe1

/-- The special register of an index as engine `e` reads it; none where it may not. -/
def sregRead (e : EngId) (i : Nat) (s : State) : Option Word :=
  let o := getEng e s
  match i with
  | 0 => some (BitVec.ofNat 32 (engNo e))
  | 1 => some (BitVec.ofNat 32 (engTickNow o))
  | 2 => some s.clk.frm
  | 3 => some (BitVec.ofNat 32 s.clk.fidx)
  | 4 => some (BitVec.ofNat 32 (1999 - engTickNow o))
  | 5 => some (BitVec.ofNat 32 (o.flags + 128 * b2n o.exh))
  | 6 => some (o.epc.setWidth 32)
  | 7 => some (BitVec.ofNat 32 o.cause)
  | 8 => some (o.bad.setWidth 32)
  | 9 => some (o.acc.setWidth 32)
  | 10 => some ((o.acc >>> 32).setWidth 32)
  | 11 => some (BitVec.ofNat 32 o.ovr)
  | 12 => if isPe e then some o.ct0 else none
  | 13 => if isPe e then some o.ct1 else none
  | 14 => if isPe e then some o.th0 else none
  | 15 => if isPe e then some o.th1 else none
  | _ => none

/-- The special register of an index written by engine `e`; none where it may not: FLAGS takes bits [4:0], EPC only while EXH is 1,
TH0 and TH1 bits [23:0]. -/
def sregWrite (e : EngId) (i : Nat) (v : Word) (o : Eng) : Option Eng :=
  match i with
  | 5 => some { o with flags := v.toNat % 32 }
  | 6 => if o.exh then some { o with epc := v.setWidth 16 } else none
  | 9 => some { o with acc := (o.acc &&& 0xFFFFFFFF00000000#64) ||| v.setWidth 64 }
  | 10 => some { o with acc := (o.acc &&& 0xFFFFFFFF#64) ||| (v.setWidth 64 <<< 32) }
  | 12 => if isPe e then some { o with ct0 := v } else none
  | 13 => if isPe e then some { o with ct1 := v } else none
  | 14 => if isPe e then some { o with th0 := v &&& 0xFFFFFF } else none
  | 15 => if isPe e then some { o with th1 := v &&& 0xFFFFFF } else none
  | _ => none

/-- MFS rd, s. -/
def mfsInstr (e : EngId) (b : BitVec 26) (s : State) : State :=
  match sregRead e (fImm b % 32) s with
  | some v => fin e 1 (xw (fRd b) v) s
  | none => fault e 1 0 s

/-- MFS (R360): rs1, rs2 and imm[13:5] must be 0. -/
def execMfs (e : EngId) (b : BitVec 26) (s : State) : Host.Outcome State Fault Refusal :=
  asInstr e (fRs1 b == 0 && fRs2 b == 0 && decide (fImm b < 32)) (mfsInstr e b) s

/-- MTS s, rs1. -/
def mtsInstr (e : EngId) (b : BitVec 26) (s : State) : State :=
  let o := getEng e s
  match sregWrite e (fImm b % 32) (src1 b o) o with
  | some o' => fin e 1 (fun _ => o') s
  | none => fault e 1 0 s

/-- MTS (R360): rd, rs2 and imm[13:5] must be 0. -/
def execMts (e : EngId) (b : BitVec 26) (s : State) : Host.Outcome State Fault Refusal :=
  asInstr e (fRd b == 0 && fRs2 b == 0 && decide (fImm b < 32)) (mtsInstr e b) s

/-! ## POST and TAKE (R361) -/

/-- The waits of four word accesses. -/
def fourWaits (e : EngId) (s : State) : State := forN 4 (fun _ s => ramWaits e s) s

/-- The checks of POST and TAKE in the order of R361: ring owned, alignment, shared RAM. -/
def ringArgs (e : EngId) (b : BitVec 26) (s : State) : (Nat × Nat) ⊕ (Nat × Nat) :=
  let o := getEng e s
  let n := (src2 b o).toNat % 32
  let a := (src1 b o).toNat % 2 ^ 16
  if !ringsOf e n then .inl (4, n)
  else if !aligned a 4 then .inl (2, a)
  else if !inRam a 16 then .inl (3, a)
  else .inr (n, a)

/-- Would POST into ring `n` in clock `c` be refused: full, disabled, or short of a tag (R391)? -/
def postRefused (c n : Nat) (s : State) : Bool := decide (0xFFFFFFFE ≤ (ringPost c n [] s).1)

/-- POST. -/
def postInstr (e : EngId) (b : BitVec 26) (s : State) : State :=
  let s := drain e s
  match ringArgs e b s with
  | .inl (c, bad) => fault e c bad s
  | .inr (n, a) =>
    let s := fourWaits e (spend e 6 s)
    let c := clockOf (some e) s
    if postRefused c n s then
      let (r, s) := ringPost c n [] s
      fin e 0 (putZN b (BitVec.ofNat 32 r)) s
    else
      match ramRead (some e) a 16 s with
      | (.inl w, s) => fault e 7 w s
      | (.inr bs, s) =>
        let (r, s) := ringPost c n bs s
        fin e 0 (putZN b (BitVec.ofNat 32 r)) s

/-- POST rd, rs1, rs2 (R361). -/
def execPost (e : EngId) (b : BitVec 26) (s : State) : Host.Outcome State Fault Refusal :=
  asInstr e (fImm b == 0) (postInstr e b) s

/-- TAKE: an uncorrectable completion slot moves nothing (R584). -/
def takeInstr (e : EngId) (b : BitVec 26) (s : State) : State :=
  let s := drain e s
  match ringArgs e b s with
  | .inl (c, bad) => fault e c bad s
  | .inr (n, a) =>
    let s := fourWaits e (spend e 6 s)
    let c := clockOf (some e) s
    match ringHead c n s with
    | none => fin e 0 (putZN b 0xFFFFFFFF#32) s
    | some (tag, slot) =>
      match ramRead (some e) slot 16 s with
      | (.inl w, s) => fault e 7 w s
      | (.inr bs, s) => fin e 0 (putZN b (BitVec.ofNat 32 tag)) (ringPop c n tag (ramStoreBytes (some e) a bs s).2)

/-- TAKE rd, rs1, rs2 (R361). -/
def execTake (e : EngId) (b : BitVec 26) (s : State) : Host.Outcome State Fault Refusal :=
  asInstr e (fImm b == 0) (takeInstr e b) s

end Sys2Proof.Machine
end

