-- ==== Sys2Proof/Machine/ExtInstr.lean ====
section
/-!
DEFINITION. The CSQ extension (R362-R364) and the pin extension (R365).
-/

namespace Sys2Proof.Machine

open Sys2Proof

/-! ## CSQ -/

/-- Does an integer fit a `w`-bit two's-complement number? -/
def fitsS (w : Nat) (i : Int) : Bool := satS w i == i

/-- The accumulator takes an exact value, wrapping; Q on overflow of the signed range. -/
def accPut (i : Int) (o : Eng) : Eng := stickQ (!fitsS 64 i) { o with acc := BitVec.ofInt 64 i }

/-- The effect of MACG (R362). -/
def macEff (b : BitVec 26) (o : Eng) : Eng :=
  let x := src1 b o
  let y := src2 b o
  match fFn b with
  | 0 => accPut (o.acc.toInt + x.toInt * y.toInt) o
  | 1 => accPut (o.acc.toInt - x.toInt * y.toInt) o
  | 2 =>
    let n := o.acc.toNat + x.toNat * y.toNat
    stickQ (decide (2 ^ 64 ≤ n)) { o with acc := BitVec.ofNat 64 n }
  | _ => accPut (x.toInt * y.toInt) o

/-- MACG: MAC, MSU, MACU, MUL64; rd must be 0. -/
def execMacg (e : EngId) (b : BitVec 26) (s : State) : Host.Outcome State Fault Refusal :=
  asInstr e (e == .csq && okRR b && decide (fFn b ≤ 3) && fRd b == 0) (fin e 2 (macEff b)) s

/-- rd takes an integer limited to 32 bits; Z, N, and Q where it was limited. -/
def putSat (b : BitVec 26) (i : Int) (o : Eng) : Eng := stickQ (!fitsS 32 i) (putZN b (BitVec.ofInt 32 (satS 32 i)) o)

/-- round(y >> sh) (R363). -/
def roundShift (y : Int) (sh : Nat) : Int := if sh = 0 then y else (y + 2 ^ (sh - 1)) / 2 ^ sh

/-- The effect of ACCG (R362). -/
def accEff (b : BitVec 26) (o : Eng) : Eng :=
  let sh := fImm b % 64
  match bitsOf (fImm b) 13 12 with
  | 0 => putSat b (roundShift o.acc.toInt sh) o
  | 1 => accPut ((src1 b o).toInt * 2 ^ sh) o
  | _ => accPut (o.acc.toInt + (src1 b o).toInt * 2 ^ sh) o

/-- Legality of ACCG: imm[13:12] not 0b11, imm[11:6] zero, rd zero for SETA and ADDA. -/
def accOk (b : BitVec 26) : Bool :=
  decide (bitsOf (fImm b) 13 12 ≠ 3) && bitsOf (fImm b) 11 6 == 0 && (bitsOf (fImm b) 13 12 == 0 || fRd b == 0)

/-- ACCG: RDA, SETA, ADDA. -/
def execAccg (e : EngId) (b : BitVec 26) (s : State) : Host.Outcome State Fault Refusal :=
  asInstr e (e == .csq && accOk b) (fin e 1 (accEff b)) s

/-- The effect of QG: QADD, QSUB, QABS, QNEG. -/
def qEff (b : BitVec 26) (o : Eng) : Eng :=
  let x := (src1 b o).toInt
  let y := (src2 b o).toInt
  putSat b (match fFn b with | 0 => x + y | 1 => x - y | 2 => (x.natAbs : Int) | _ => -x) o

/-- QG: rs2 = x0 for QABS and QNEG. -/
def execQg (e : EngId) (b : BitVec 26) (s : State) : Host.Outcome State Fault Refusal :=
  asInstr e (e == .csq && okRR b && decide (fFn b ≤ 3) && (decide (fFn b < 2) || fRs2 b == 0)) (fin e 1 (qEff b)) s

/-- Real and imaginary parts of a complex operand (R363). -/
def cRe (w : Word) : Int := sgn 16 (w.toNat % 65536)
def cIm (w : Word) : Int := sgn 16 (w.toNat / 65536)

/-- A complex word from its parts, each limited to 16 bits. -/
def cWord (re im : Int) : Word := BitVec.ofNat 32 (unsgn 16 (satS 16 re) + 65536 * unsgn 16 (satS 16 im))

/-- rd takes a complex result; Z, N, and Q where a part was limited. -/
def putC (b : BitVec 26) (re im : Int) (o : Eng) : Eng := stickQ (!(fitsS 16 re && fitsS 16 im)) (putZN b (cWord re im) o)

/-- The two signed 32-bit halves of acc take values, each limited. -/
def putHalves (re im : Int) (o : Eng) : Eng :=
  stickQ (!(fitsS 32 re && fitsS 32 im))
    { o with acc := BitVec.ofNat 64 (unsgn 32 (satS 32 re) + 2 ^ 32 * unsgn 32 (satS 32 im)) }

/-- The effect of CG (R362, R363). -/
def cEff (b : BitVec 26) (o : Eng) : Eng :=
  let x := src1 b o
  let y := src2 b o
  let yi := if fFn b = 1 then -cIm y else cIm y
  let re := cRe x * cRe y - cIm x * yi
  let im := cRe x * yi + cIm x * cRe y
  let ar := sgn 32 (o.acc.toNat % 2 ^ 32)
  let ai := sgn 32 (o.acc.toNat / 2 ^ 32)
  match fFn b with
  | 0 => putC b (roundShift re 15) (roundShift im 15) o
  | 1 => putC b (roundShift re 15) (roundShift im 15) o
  | 2 => putHalves (ar + re) (ai + im) o
  | 3 => putHalves (ar - re) (ai - im) o
  | 4 => putZN b (BitVec.ofInt 32 (cRe x * cRe x + cIm x * cIm x)) o
  | 5 => putC b (cRe x + cRe y) (cIm x + cIm y) o
  | _ => putC b (cRe x - cRe y) (cIm x - cIm y) o

/-- Cycles of CG: 2 for fn 0-3, else 1. -/
def cCycles (b : BitVec 26) : Nat := if fFn b ≤ 3 then 2 else 1

/-- CG: CMUL, CMULJ, CMAC, CMSU (rd = 0), CMAG2, CADD, CSUB. -/
def execCg (e : EngId) (b : BitVec 26) (s : State) : Host.Outcome State Fault Refusal :=
  asInstr e (e == .csq && okRR b && decide (fFn b ≤ 6) && ((fFn b != 2 && fFn b != 3) || fRd b == 0)) (fin e (cCycles b) (cEff b)) s

/-- The largest `r` below `2 ^ bits` with `p r`, by bisection (`p` holds below a point and nowhere above it). -/
def bisect (p : Nat → Bool) : Nat → Nat → Nat
  | 0, r => r
  | k + 1, r => bisect p k (if p (r + 2 ^ k) then r + 2 ^ k else r)

/-- 2^x in Q16.16, for x in 1/65536, times n/2^20, rounded to the nearest LSB: the largest r with
(2r - 1)^65536 · 2^(20·65536) ≤ 2^(x + 17·65536) · n^65536. -/
def exp2Round (x : Int) (n : Nat) : Nat :=
  bisect (fun r => decide ((2 * r - 1) ^ 65536 * 2 ^ (20 * 65536) ≤ 2 ^ (x + 17 * 65536).toNat * n ^ 65536)) 33 0

/-- EXP2 (R364): any value within 2^-20 of 2^x before rounding; Config.exp2 names the one this part gives. -/
def exp2Fn (w : Word) : Word × Bool :=
  let x := w.toInt
  if 16 * 65536 ≤ x then (0xFFFFFFFF#32, true)
  else if x < -(16 * 65536) then (0, false)
  else
    let lo := exp2Round x (2 ^ 20 - 1)
    let hi := exp2Round x (2 ^ 20 + 1)
    (BitVec.ofNat 32 (lo + (Config.exp2 w).toNat % (hi - lo + 1)), false)

/-- LOG2 (R364): any value within 2 LSB of log2; Config.log2 names the one this part gives. An operand of 0 gives 0x8000_0000. -/
def log2Fn (w : Word) : Word × Bool :=
  if w = 0 then (0x80000000#32, true)
  else
    let f := (w.toNat ^ 65536).log2
    let c := if 2 ^ w.toNat.log2 = w.toNat then f else f + 1
    let lo : Int := (c : Int) - 16 * 65536 - 2
    let hi : Int := (f : Int) - 16 * 65536 + 2
    (BitVec.ofInt 32 (lo + ((Config.log2 w).toNat % (hi - lo + 1).toNat : Nat)), false)

/-- The effect of FNG. -/
def fnEff (b : BitVec 26) (o : Eng) : Eng :=
  let r := if fFn b = 0 then exp2Fn (src1 b o) else log2Fn (src1 b o)
  stickQ r.2 (putZN b r.1 o)

/-- FNG: EXP2, LOG2; rs2 must be 0. -/
def execFng (e : EngId) (b : BitVec 26) (s : State) : Host.Outcome State Fault Refusal :=
  asInstr e (e == .csq && okRR b && decide (fFn b ≤ 1) && fRs2 b == 0) (fin e 10 (fnEff b)) s

/-- The effect of SQG. -/
def sqEff (b : BitVec 26) (o : Eng) : Eng :=
  putZN b (BitVec.ofNat 32 (isqrt64 (if fFn b = 0 then (src1 b o).toNat else o.acc.toNat))) o

/-- SQG: ISQRT in 18 cycles, ISQRTA (rs1 = 0) in 34; rs2 must be 0. -/
def execSqg (e : EngId) (b : BitVec 26) (s : State) : Host.Outcome State Fault Refusal :=
  asInstr e (e == .csq && okRR b && decide (fFn b ≤ 1) && fRs2 b == 0 && (fFn b == 0 || fRs1 b == 0))
    (fin e (if fFn b = 0 then 18 else 34) (sqEff b)) s

/-- The effect of DIVAG (R362, R363). -/
def divaEff (b : BitVec 26) (o : Eng) : Eng :=
  let d := src1 b o
  if d = 0 then
    let r := if fFn b = 0 ∧ o.acc.toInt < 0 then 0x80000000#32 else 0x7FFFFFFF#32
    stickQ true (setV true (putZN b r o))
  else
    let q : Int := if fFn b = 0 then o.acc.toInt.tdiv d.toInt else ((o.acc.toNat / d.toNat : Nat) : Int)
    setV false (putSat b q o)

/-- DIVAG: DIVA, DIVAU; rs2 must be 0. -/
def execDivag (e : EngId) (b : BitVec 26) (s : State) : Host.Outcome State Fault Refusal :=
  asInstr e (e == .csq && okRR b && decide (fFn b ≤ 1) && fRs2 b == 0) (fin e 36 (divaEff b)) s

/-! ## PE0 and PE1 -/

/-- The sequencer of a pin engine: 0 for PE0, 1 for PE1. -/
def ownSeq (e : EngId) : Nat := if e = .pe1 then 1 else 0

/-- CPUSH rs1: as a write to the own PKP_SEQTX; C says the FIFO was full. -/
def cpushInstr (e : EngId) (b : BitVec 26) (s : State) : State :=
  let full := seqFull (ownSeq e) s
  fin e 1 (setFl 2 full) (seqPush (ownSeq e) (src1 b (getEng e s)) s)

/-- CPUSH (R365): rd, rs2 and imm must be 0. -/
def execCpush (e : EngId) (b : BitVec 26) (s : State) : Host.Outcome State Fault Refusal :=
  asInstr e (isPe e && fRd b == 0 && fRs2 b == 0 && fImm b == 0) (cpushInstr e b) s

/-- CPOP rd: the head of the own receive FIFO, popped; 0 when it is empty. -/
def cpopInstr (e : EngId) (b : BitVec 26) (s : State) : State :=
  let r := seqHead (ownSeq e) s
  fin e 2 (putZN b r) (seqPop (ownSeq e) s)

/-- CPOP (R365): rs1, rs2 and imm must be 0. -/
def execCpop (e : EngId) (b : BitVec 26) (s : State) : Host.Outcome State Fault Refusal :=
  asInstr e (isPe e && fRs1 b == 0 && fRs2 b == 0 && fImm b == 0) (cpopInstr e b) s

/-- The effect of CBIT. -/
def cbitEff (b : BitVec 26) (o : Eng) : Eng := xw (fRd b) (if (src1 b o).getLsbD (fImm b) then o.ct1 else o.ct0) o

/-- CBIT (R365): rs2 and imm[13:5] must be 0. -/
def execCbit (e : EngId) (b : BitVec 26) (s : State) : Host.Outcome State Fault Refusal :=
  asInstr e (isPe e && okRI b && decide (fImm b < 32)) (fin e 1 (cbitEff b)) s

/-- The classification of WCLS: thresholds take bits [23:0]. -/
def wclsFn (w th0 th1 : Word) : Word :=
  let t := w.toNat % 2 ^ 24
  if w = 0 ∨ w.getLsbD 28 then 0xFFFFFFFF#32
  else if t < th0.toNat % 2 ^ 24 then 1
  else if t < th1.toNat % 2 ^ 24 then 0
  else 0xFFFFFFFF#32

/-- The effect of WCLS. -/
def wclsEff (b : BitVec 26) (o : Eng) : Eng := putZN b (wclsFn (src1 b o) o.th0 o.th1) o

/-- WCLS (R365): rs2 and imm must be 0. -/
def execWcls (e : EngId) (b : BitVec 26) (s : State) : Host.Outcome State Fault Refusal :=
  asInstr e (isPe e && fRs2 b == 0 && fImm b == 0) (fin e 1 (wclsEff b)) s

/-- The effect of CRC8: one byte of rs2 continued from rs1. -/
def crcEff (b : BitVec 26) (o : Eng) : Eng :=
  let r := (crc8Byte ((src1 b o).setWidth 8) ((src2 b o).setWidth 8)).setWidth 32
  setZ r (xw (fRd b) r o)

/-- CRC8 (R365): imm must be 0. -/
def execCrc8 (e : EngId) (b : BitVec 26) (s : State) : Host.Outcome State Fault Refusal :=
  asInstr e (isPe e && fImm b == 0) (fin e 1 (crcEff b)) s

/-- The level at which the rest of a line leaves it. -/
def putLevel (pkc lvl : Bool) (s : State) : State :=
  if pkc then { s with pk := { s.pk with lvlC := lvl } } else { s with pk := { s.pk with lvlD := lvl } }

/-- PINR rd, imm: the filtered level of PKD (0) or PKC (1), whoever owns the pin. -/
def pinrInstr (e : EngId) (b : BitVec 26) (lvl : Bool) (s : State) : State :=
  let s := putLevel (fImm b == 1) lvl s
  let r := BitVec.ofNat 32 (b2n (pinLevel (fImm b == 1) s))
  fin e 1 (fun o => setZ r (xw (fRd b) r o)) s

/-- PINR (R365): rs1, rs2 and imm[13:1] must be 0. -/
def execPinr (e : EngId) (b : BitVec 26) (lvl : Bool) (s : State) : Host.Outcome State Fault Refusal :=
  asInstr e (isPe e && fRs1 b == 0 && fRs2 b == 0 && decide (fImm b < 2)) (pinrInstr e b lvl) s

end Sys2Proof.Machine
end

