-- ==== Sys2Proof/Machine/HostOps.lean ====
section
/-!
DEFINITION. The host two-wire interface (R467-R491): pointer mode, the reduced page, command mode with its check byte and results,
the ring and fuse commands, and Host Notify.
-/

namespace Sys2Proof.Machine

open Sys2Proof

/-- The host interface changed. -/
def modHst (f : Hst → Hst) (s : State) : State := { s with hst := f s.hst }

/-- The host bus is free; the island alone keeps no HST_STAT. -/
def busFreed (s : State) : State := if vccOn s then setF HST_STAT_BUS 0 s else s

/-- The bytes given and the acknowledgements of the last transaction. Its STOP and the bus-free time after it leave the bus free (R486,
R491; DEDUCED, log entry 157). -/
def hostAnswer (acks : List Bool) (out : List Byte) (s : State) : State :=
  modHst (fun h => { h with acks := acks, out := out }) (busFreed s)

/-- A refused access is counted (R481). -/
def refused (s : State) : State := s |> incSat HST_CNT0_REFUSED |> setF HST_STAT_REFEVT 1

/-! ## The reduced page (R474, R475) -/

/-- Is the reduced page in force (R474)? -/
def reduced (s : State) : Bool := s.sup.power != .on

/-- Byte `o` of the reduced page. -/
def reducedByte (o : Nat) (s : State) : Byte :=
  let by' := fun (v lo : Nat) => BitVec.ofNat 8 (v / 2 ^ (8 * (o - lo)))
  if o = 0x01 then
    BitVec.ofNat 8 (128 + s.sup.strap % 8 * 16 + fld GLB_SUPSTAT_AOSRC s * 4 + b2n s.sup.shipFlag * 2 + b2n (vccOn s))
  else if 0x04 ≤ o ∧ o < 0x08 then by' (rd GLB_DEVID s) 4
  else if 0x08 ≤ o ∧ o < 0x0A then by' (rd GLB_RSTCAUSE s) 8
  else if o = 0x0C then by' (rd WDG_RCNT s) 0x0C
  else if 0x10 ≤ o ∧ o < 0x12 then by' (rd LNK_ADDR s) 0x10
  else if 0x20 ≤ o ∧ o < 0x40 then by' (rd (FLT_SEVRT ((o - 0x20) / 4)) s) (o / 4 * 4)
  else 0

/-! ## Pointer mode (R469-R473) -/

/-- The address of the pointer-mode target, 0x50 + n, and of the command-mode target, 0x58 + n (R70, R468). -/
def ptrAddr (s : State) : Nat := 0x50 + s.sup.nAddr
def cmdAddr (s : State) : Nat := 0x58 + s.sup.nAddr

/-- Does the pointer-mode target answer address `a` at this bus rate (R89, R468, R474)? `fast`: above 100 kHz, at which the island
does not answer without VCC. -/
def pointerAnswers (a : Nat) (fast : Bool) (s : State) : Bool :=
  a == ptrAddr s && s.sup.power != .unpowered && (!reduced s || !fast)

/-- One data byte written in pointer mode: GLB_PAGE at pointer 0, else ignored and counted; the reduced page ignores all. -/
def pointerByte (s : State) (v : Byte) : State :=
  let s' :=
    if reduced s then s
    else if s.hst.ptr = 0 then wr GLB_PAGE v.toNat s
    else refused s
  modHst (fun h => { h with ptr := (h.ptr + 1) % 256 }) s'

/-- The command codes of R477. -/
def cmdCodes : List Nat := [0x01, 0x02, 0x03, 0x04, 0x11, 0x12, 0x13, 0x14, 0x20, 0x30, 0x31, 0x32, 0x40, 0x41, 0x50, 0x60, 0x61]

/-- A write to the command-mode target whose code is none of R477: the code is not acknowledged, and RES reads 0x04 (R480; log entry
141). -/
def unknownCmd (s : State) : State :=
  hostAnswer [true, false] [] (if s.sup.fuseBusy.isSome then s else setF HST_RES_RES 4 s)

/-- POINTER_WRITE (R469, R471): the pointer byte and the data bytes after it. The command-mode target acknowledges its own address
(R468): what is sent there is a command that no other row spells, one with an unknown code (R480). An address without a code does
nothing, and a listed code is its own row's, whose bytes are acknowledged here and have no effect (DESIGN CHOICE, log entry 177). -/
def pointerWriteOp (a : Nat) (fast : Bool) (bs : List Byte) (s : State) : State :=
  if a == cmdAddr s && !reduced s then
    if bs.head?.any (fun c => !cmdCodes.contains c.toNat) then unknownCmd s else hostAnswer (true :: bs.map (fun _ => true)) [] s
  else if !pointerAnswers a fast s then hostAnswer [false] [] s
  else
    let s := match bs with
      | [] => s
      | p :: t => t.foldl pointerByte (modHst (fun h => { h with ptr := p.toNat }) s)
    hostAnswer (true :: bs.map (fun _ => true)) [] s

/-- The addresses that `n` bytes from the pointer read (R470). -/
def pointerAddrs (n : Nat) (s : State) : List Nat :=
  (List.range n).map (fun i =>
    let o := (s.hst.ptr + i) % 256
    if o = 0 then GLB_PAGE else rd GLB_PAGE s % 256 * 256 + o)

/-- POINTER_READ (R470, R472-R475): `n` bytes; the pointer then stands after the last. The command-mode target acknowledges its own
address (R468); the manual gives no bytes for a read there without a command, and they are free values (log entry 177). -/
def pointerReadOp (a : Nat) (fast : Bool) (n : Nat) (s : State) : State :=
  if a == cmdAddr s && !reduced s then hostAnswer [true] (freeBytes n s) { s with seed := s.seed + n }
  else if !pointerAnswers a fast s then hostAnswer [false] [] s
  else
    let (bs, s) :=
      if reduced s then ((List.range n).map (fun i => reducedByte ((s.hst.ptr + i) % 256) s), s)
      else hostRead (pointerAddrs n s) [] [] s
    hostAnswer [true] bs (modHst (fun h => { h with ptr := (h.ptr + n) % 256 }) s)

/-! ## Command mode: results (R479-R481) -/

/-- The command-mode address bytes with W and with R (R468). -/
def cmdW (s : State) : Byte := BitVec.ofNat 8 (cmdAddr s * 2)
def cmdR (s : State) : Byte := BitVec.ofNat 8 (cmdAddr s * 2 + 1)

/-- The result of a write command (R481). -/
def setRes (code res val : Nat) (s : State) : State :=
  let s := s |> setF HST_RES_RES res |> setF HST_RES_CMD code |> incWrap HST_RES_SEQ |> wr HST_VAL val
  if res = 3 ∨ res = 5 then refused s else s

/-- RES of a write's outcome. -/
def resOf (r : WrRes) : Nat :=
  match r with
  | .done => 0 | .fault => 5 | .malformed => 4 | .refused => 5 | .notNow => 3 | .ecc => 0xA

/-- A write command (R476, R479-R481, R484). `len` is the number of bytes it takes after its code, none where its count is out
of range; `body` gives RES, HST_VAL and the state. -/
def hostWr (code : Nat) (fawn : Bool) (len : List Byte → Option Nat) (args : List Byte)
    (body : List Byte → State → Nat × Nat × State) (s : State) : State :=
  if reduced s then hostAnswer [false] [] s
  else if s.sup.fuseBusy.isSome then hostAnswer [true, true] [] s
  else if inFawn s && !fawn then hostAnswer [true, false] [] (setRes code 3 0 s)
  else match len args with
    | none => hostAnswer (true :: true :: args.map (fun _ => true)) [] (setRes code 4 0 s)
    | some n =>
      if args.length < n then hostAnswer (true :: true :: args.map (fun _ => true)) [] (setRes code 4 0 s)
      else
        let acks := fun (ok : Bool) => [true, true] ++ List.replicate n true ++ (if n < args.length then [ok] else [])
          ++ List.replicate (args.length - n - 1) false
        match args[n]? with
        | none =>
          if flag HST_CFG_PECREQ s then hostAnswer (acks true) [] (setRes code 2 0 s)
          else
            let (res, val, s) := body args s
            hostAnswer (acks true) [] (setRes code res val s)
        | some p =>
          let good := (p == crc8 (cmdW s :: BitVec.ofNat 8 code :: args.take n)) != (injBits 6 s != 0)
          let s := injDone 6 s
          if good then
            let (res, val, s) := body (args.take n) s
            hostAnswer (acks true) [] (setRes code res val s)
          else
            hostAnswer (acks false) [] (setRes code 2 0
              (s |> incSat HST_CNT0_PEC |> setF HST_STAT_PECEVT 1 |> raise' srcHstPec 2 none 0))

/-- A read command (R476, R477, R479, R480): `ok` says its write part is well formed, `sr` that it ends with a repeated START,
`n` how many bytes the host clocks out, the check byte and what follows included. -/
def hostRd (code : Nat) (ok sr : Bool) (args : List Byte) (n : Nat) (body : State → List Byte × State) (s : State) : State :=
  if reduced s then hostAnswer [false] [] s
  else if !(ok && sr) then
    hostAnswer ([true, true] ++ args.map (fun _ => true) ++ (if sr then [false] else [])) []
      (if s.sup.fuseBusy.isSome then s else setF HST_RES_RES 4 s)
  else
    let (data, s) := body s
    let pec := crc8 ([cmdW s, BitVec.ofNat 8 code] ++ args ++ [cmdR s] ++ data)
    hostAnswer ([true, true] ++ args.map (fun _ => true) ++ [true]) ((data ++ [pec] ++ List.replicate n 0xFF).take n) s

/-- ADDR of a command: its first two bytes. -/
def argAddr (args : List Byte) : Nat := leNat (args.take 2)

/-- Bytes from `a` upward; a byte address is 16 bits. -/
def readFrom (a n : Nat) (s : State) : List Byte × State :=
  hostRead ((List.range n).map (fun i => (a + i) % 65536)) [] [] s

/-- READ8, READ16 and READ32 (R477). -/
def readOp (code k : Nat) (args : List Byte) (sr : Bool) (n : Nat) (s : State) : State :=
  hostRd code (args.length == 2) sr args n (readFrom (argAddr args) k) s

/-- READBLK (R477). -/
def readBlkOp (args : List Byte) (sr : Bool) (n : Nat) (s : State) : State :=
  let c := (args.getD 2 0).toNat
  hostRd 0x04 (args.length == 3 && decide (1 ≤ c) && decide (c ≤ 32)) sr args n
    (fun s => let (bs, s) := readFrom (argAddr args) c s; (args.getD 2 0 :: bs, s)) s

/-- STATUS (R481). -/
def statusOp (args : List Byte) (sr : Bool) (n : Nat) (s : State) : State :=
  hostRd 0x20 args.isEmpty sr args n (fun s => (leBytes 4 (rd HST_RES s) ++ leBytes 4 (rd HST_VAL s), s)) s

/-! ## Writes (R478, R484) -/

/-- May a WRITE8, WRITE16 or WRITE32 reach `a` in Fawn mode (R484)? -/
def fawnWritable (a : Nat) : Bool :=
  a == GLB_PAGE || (decide (0x1C00 ≤ a) && decide (a < 0x1D00)) || (decide (0x1A00 ≤ a) && decide (a < 0x1C00))
    || (regOf a).any (fun p => p.2.w1c != 0)

/-- WRITE8, WRITE16 and WRITE32. -/
def writeOp (code k : Nat) (args : List Byte) (s : State) : State :=
  hostWr code true (fun _ => some (2 + k)) args (fun bs s =>
    if inFawn s && !fawnWritable (argAddr bs) then (3, 0, s)
    else
      let (r, s) := hostWrite (argAddr bs) (bs.drop 2) s
      (resOf r, 0, s)) s

/-- WRITEBLK: shared RAM only. -/
def writeBlkOp (args : List Byte) (s : State) : State :=
  hostWr 0x14 true (fun bs => let c := (bs.getD 2 0).toNat; if bs.length < 3 then some 3 else if 1 ≤ c ∧ c ≤ 32 then some (3 + c) else none)
    args (fun bs s =>
      if inRam (argAddr bs) (bs.length - 3) then
        let (r, s) := hostRam (argAddr bs) (bs.drop 3) s
        (resOf r, 0, s)
      else (4, 0, s)) s

/-! ## Ring commands (R482, R584) -/

/-- HST_VAL of a ring command that names no ring. -/
abbrev badRing : Nat := 0xFFFFFFFD

/-- Is RING one of the host's? -/
def hostRing (n : Nat) : Bool := decide (16 ≤ n) && decide (n < 24)

/-- POST (R482): in Fawn mode NOP, CRC-SCAN and PS-WRITE only (R484). -/
def hostPostOp (args : List Byte) (s : State) : State :=
  hostWr 0x30 true (fun _ => some 17) args (fun bs s =>
    let n := (bs.headD 0).toNat
    let op := (bs.getD 1 0).toNat
    if !hostRing n then (4, badRing, s)
    else if inFawn s && !(op == 0x01 || op == 0x20 || op == 0x28) then (3, badRing, s)
    else
      let (r, s) := ringPost (clockNow s) n (bs.drop 1) s
      (0, r, s)) s

/-- HST_TAKEBUF takes a completion. -/
def takeBuf (bs : List Byte) (s : State) : State :=
  forN 4 (fun w s => wr (HST_TAKEBUF w) (leNat ((bs.drop (4 * w)).take 4)) s) s

/-- TAKE (R482, R584). -/
def hostTakeOp (args : List Byte) (s : State) : State :=
  hostWr 0x31 true (fun _ => some 1) args (fun bs s =>
    let n := (bs.headD 0).toNat
    if !hostRing n then (4, badRing, s)
    else match ringHead (clockNow s) n s with
      | none => (0, 0xFFFFFFFF, takeBuf [] s)
      | some (tag, slot) =>
        match ramRead none slot 16 s with
        | (.inl _, s) => (0xA, badRing, takeBuf [] s)
        | (.inr cpl, s) => (0, tag, ringPop (clockNow s) n tag (takeBuf cpl s))) s

/-- RINGRST (R482). -/
def ringrstOp (args : List Byte) (s : State) : State :=
  hostWr 0x32 true (fun _ => some 1) args (fun bs s =>
    let m := (bs.headD 0).toNat
    if m = 0 then (4, badRing, s) else (0, m, ringReset (fun n => hostRing n && bitOf m (n - 16)) s)) s

/-! ## The confirmed commands (R477) -/

/-- A command of one confirmation byte. -/
def confirmOp (code conf : Nat) (fawn : Bool) (eff : State → Nat × State) (args : List Byte) (s : State) : State :=
  hostWr code fawn (fun _ => some 1) args (fun bs s =>
    if (bs.headD 0).toNat = conf then
      let (r, s) := eff s
      (r, 0, s)
    else (4, 0, s)) s

/-- ARM: the host's command 0x40 with its bytes, or the write to GLB_PSARM itself. Without VCC no register is there to write, and the
command is not acknowledged (R474); so too of the next two. -/
def hostArmOp (via : Option (List Byte)) (s : State) : State :=
  match via with
  | none => if vccOn s then armOp s else s
  | some args => confirmOp 0x40 0xA7 true (fun s => (0, armOp s)) args s

/-- DISARM: command 0x41, or the write. -/
def hostDisarmOp (via : Option (List Byte)) (s : State) : State :=
  match via with
  | none => if vccOn s then disarmOp s else s
  | some args => confirmOp 0x41 0x5D true (fun s => (0, disarmOp s)) args s

/-- FAWN: command 0x60, or the write to FLT_CMD. -/
def hostFawnOp (via : Option (List Byte)) (s : State) : State :=
  match via with
  | none => if vccOn s then fawnOp s else s
  | some args => confirmOp 0x60 0xF4 false (fun s => (0, fawnOp s)) args s

/-- FAWNEXIT (R534): command 0x61, or the host's write to FLT_CMD, with RES 0x00 or 0x03 either way. -/
def hostFawnExitOp (args : List Byte) (s : State) : State :=
  confirmOp 0x61 0x4F true (fun s => let (ok, s) := fawnExitReq s; (if ok then 0 else 3, s)) args s

/-! ## Fuse writes (R114, R116, R483) -/

/-- Is a code inside the range of field `i` (R113)? -/
def fuseRange (i c : Nat) : Bool :=
  match i with
  | 0 | 8 => c == 1
  | 1 => c == 1 || c == 2
  | 2 => decide (90 ≤ c) && decide (c ≤ 880)
  | 3 => decide (1 ≤ c) && decide (c ≤ 120)
  | 4 | 5 => decide (18 ≤ c) && decide (c ≤ 120)
  | 6 => (decide (1 ≤ c) && decide (c ≤ 120)) || c == 127
  | 7 => decide (c < 256) && prioOk c
  | 9 => decide (1 ≤ c) && decide (c ≤ 200)
  | _ => decide (1 ≤ c) && decide (c ≤ 7)

/-- The conditions of R116 with VCC at `mv` mV; the junction is THM_DIE. -/
def fuseMay (mv : Nat) (s : State) : Bool :=
  let t := sgn 16 (rd THM_DIE s)
  !isRunning s && decide (12000 ≤ mv) && decide (mv ≤ 60000) && rd THM_DIE s != 0x8000 && decide (0 ≤ t) && decide (t ≤ 680)
    && !inFawn s

/-- FUSEWR (R483): RES reads 0x01 while the write runs. One that is refused with RES 0x06 or 0x07 is notified too;
0x07 stands before 0x06 (DESIGN CHOICE, log entry 180). -/
def fusewrOp (args : List Byte) (mv : Nat) (s : State) : State :=
  hostWr 0x50 false (fun _ => some 4) args (fun bs s =>
    let i := (bs.headD 0).toNat
    let c := leNat ((bs.drop 1).take 2)
    let f := fuseCell i s
    if (bs.getD 3 0).toNat ≠ 0x6B ∨ 10 < i then (4, 0, s)
    else if !fuseRange i c || f.mark0 || f.mark1 then (7, 0, notify 6 s)
    else if !fuseMay mv s then (6, 0, notify 6 s)
    else (1, 0, modSup (fun u => { u with fuseBusy := some (i, c) }) s)) s

/-- FUSE_WRITE_COMPLETE (R116, R483): the code read back; the mark is set when it is the code written. The mark is the array's:
GLB_FUSESTAT.PROG shows it from the next fuse load on, as the value takes effect then (the model's choice, log entry 198). -/
def fuseDoneOp (back : Nat) (s : State) : State :=
  match s.sup.fuseBusy with
  | none => s
  | some (i, c) =>
    let ok := back == c
    modSup (fun u => { u with fuseBusy := none, fuses := u.fuses.set i ⟨back, ok, back, ok⟩ }) s
      |> setF HST_RES_RES (if ok then 0 else 8) |> wr HST_VAL back |> notify 6

/-! ## Host Notify (R486-R489) -/

/-- The bytes of a Host Notify: the data word is HST_NPEND AND HST_NEN (R487). -/
def notifyBytes (s : State) : List Byte :=
  [0x10#8, cmdW s] ++ leBytes 2 (rd HST_NPEND s &&& rd HST_NEN s)

/-- A Host Notify has failed (R487). -/
def notifyFail (s : State) : State :=
  modHst (fun h => { h with tries := 0 }) (s |> incSat HST_CNT1_NFAIL |> setF HST_STAT_NFAILEVT 1)

/-- Another controller's STOP and the bus-free time, or both lines high for 50 µs (R486): the bus is free. -/
def notifyFree (s : State) : State := busFreed s

/-- The recovery that a notify has run before its START, where BUS read unknown or SDA had been low for 35 ms (R489). -/
def notifyRecover (recov : Bool) (s : State) : State :=
  if recov || fld HST_STAT_BUS s == 3 then setF HST_STAT_HANGEVT 1 s else s

/-- One attempt at a Host Notify with its outcome on the bus. Recovery runs before its START where `recov` says that SDA has been low
for 35 ms, and where BUS reads unknown; one that succeeds sends STOP and sets HANGEVT (R489). -/
def notifyRun (recov : Bool) (ev : NotifyEv) (s : State) : State :=
  let s := if ev != .hang && ev != .free then notifyRecover recov s else s
  match ev with
  | .done =>
    let w := rd HST_NPEND s &&& rd HST_NEN s
    modHst (fun h => { h with sent := h.sent ||| w, rep := false, tries := 0, wire := notifyBytes s })
      (s |> incWrap HST_CNT1_NSENT |> setF HST_STAT_BUS 0)
  | .nack => setF HST_STAT_BUS 0 (notifyFail s)
  | .arb idx bit =>
    let s := s |> incSat HST_CNT1_ARB |> setF HST_STAT_ARBEVT 1 |> setF HST_STAT_NIDX idx.val |> setF HST_STAT_ARBBIT bit.val
      |> setF HST_STAT_BUS 2
    if 3 ≤ s.hst.tries then raise' srcHstArb 2 none 0 (notifyFail s)
    else modHst (fun h => { h with tries := h.tries + 1 }) s
  | .arbStop =>
    s |> incSat HST_CNT1_ARBSTOP |> setF HST_STAT_ARBSTEVT 1 |> setF HST_STAT_BUS 3 |> notifyFail |> raise' srcArbStop 2 none 0
  | .hang => setF HST_STAT_BUS 3 s
  | .free => notifyFree s

/-- HOST_NOTIFY: the first attempt of a notify that is due, or what frees the bus (R486, R487). -/
def hostNotifyOp (recov : Bool) (ev : NotifyEv) (s : State) : State :=
  if ev = .free ∨ (notifyDue s && s.hst.tries == 0) = true then notifyRun recov ev s else s

/-- NOTIFY_ARB_RETRY (R488): after a lost arbitration. -/
def notifyRetryOp (recov : Bool) (ev : NotifyEv) (s : State) : State :=
  if ev = .free ∨ s.hst.tries ≠ 0 then notifyRun recov ev s else s

/-- HOST_NOTIFY_REPEAT (R486). -/
def notifyRepeatOp (s : State) : State :=
  if flag HST_CFG_NOTEN s && fld HST_CFG_NRPT s != 0 && (rd HST_NPEND s &&& rd HST_NEN s) != 0 then
    modHst (fun h => { h with rep := true }) s
  else s

/-- A write command in progress is discarded: RES 0x09 (R481, R488). -/
def discardWrite (code : Option Byte) (s : State) : State :=
  match code with
  | none => s
  | some c => if s.sup.fuseBusy.isSome then s else setRes c.toNat 9 0 s

/-- START_IN_ACK_SLOT (R488). -/
def srackOp (c : SrackCase) (s : State) : State :=
  if reduced s then s
  else
    let s := s |> incSat HST_CNT0_SRACK |> setF HST_STAT_SRACKEVT 1 |> raise' srcHstSrack 2 none 0
    match c with
    | .sending => s
    | .receiving code => discardWrite code s
    | .controller recov => if notifyDue s || s.hst.tries != 0 then setF HST_STAT_BUS 2 (notifyFail (notifyRecover recov s)) else s

/-- TARGET_TIMEOUT (R488). -/
def targetTimeoutOp (code : Option Byte) (s : State) : State :=
  if reduced s then s else s |> incSat HST_CNT0_TO |> setF HST_STAT_TOEVT 1 |> discardWrite code

/-- NOTIFY_CLOCK_TIMEOUT (R488). -/
def notifyTimeoutOp (recov : Bool) (s : State) : State :=
  if notifyDue s || s.hst.tries != 0 then setF HST_STAT_BUS 3 (notifyFail (notifyRecover recov s)) else s

/-! ## Register writes as commands -/

/-- A store of engine `who`, or a write of the host, that reaches `a` with `n` bytes (R44, R348, R478, R484). -/
def busStore (who : Option EngId) (a n v : Nat) (s : State) : State :=
  match who with
  | some e =>
    if a % n ≠ 0 then takeException e 2 a (getEng e s).pc s
    else match engStore e a n v s with
      | (.done, s) => s
      | (.ecc, s) => takeException e 7 a (getEng e s).pc s
      | (_, s) => takeException e 3 a (getEng e s).pc s
  | none =>
    if inFawn s && !fawnWritable a then refused s
    else match hostWrite a (leBytes n v) s with
    | (.refused, s) => refused s
    | (.notNow, s) => refused s
    | (_, s) => s

/-- A register write by an engine that executes, or by the host (R24, R348). -/
def busStoreOp (who : Option EngId) (a n v : Nat) (s : State) : State :=
  match who with
  | some e => if (getEng e s).phase == .running then busStore who a n v s else s
  | none => if reduced s then s else busStore who a n v s

end Sys2Proof.Machine
end

