-- ==== Sys2Proof/Machine/FltCmds.lean ====
section
/-!
DEFINITION. The meanings of the commands of the collector, Fawn mode and the log: one definition per command, each over the operation of its block.
-/

namespace Sys2Proof.Machine

open Sys2Proof

/-- FAWN (R531). -/
def execFawn (via : Option (List Byte)) (s : State) : Host.Outcome State Fault Refusal := runAO (hostFawnOp via) s

/-- FAWNEXIT (R534). -/
def execFawnexit (args : List Byte) (s : State) : Host.Outcome State Fault Refusal := runAO (hostFawnExitOp args) s

/-- FAWN_EXIT (R535). -/
def execFawnExit (s : State) : Host.Outcome State Fault Refusal := run fawnExitOp s

/-- ESCALATION_WINDOW_CLOSE (R523). -/
def execEscalationWindowClose (src : Fin 37) (s : State) : Host.Outcome State Fault Refusal := run (windowCloseOp src.val) s

/-- FENCE_RELEASE (R528). -/
def execFenceRelease (who : Option EngId) (v : BitVec 16) (s : State) : Host.Outcome State Fault Refusal :=
  run (fenceReleaseOp who v.toNat) s

/-- FAULT_CONFIG_WRITE (R526). -/
def execFaultConfigWrite (src : Fin 64) (v : Word) (s : State) : Host.Outcome State Fault Refusal :=
  run (faultCfgOp src.val v.toNat) s

/-- FAULT_INJECTION_ARM (R542). -/
def execFaultInjectionArm (v : BitVec 16) (s : State) : Host.Outcome State Fault Refusal := run (injectOp v.toNat) s

/-- LOG_CLEAR (R539). -/
def execLogClear (s : State) : Host.Outcome State Fault Refusal := run logClearOp s

/-- LOG_SELECT (R540). -/
def execLogSelect (slot : BitVec 8) (s : State) : Host.Outcome State Fault Refusal := run (logSelectOp slot.toNat) s

/-- LOG_PUT (R538). -/
def execLogPut (who : Option EngId) (v : Word) (s : State) : Host.Outcome State Fault Refusal := run (logPutOp who v.toNat) s

/-- ERR_TOGGLE (R541). -/
def execErrToggle (s : State) : Host.Outcome State Fault Refusal := run errToggleOp s

end Sys2Proof.Machine
end

