-- ==== Sys2Proof/Machine/HostCmds.lean ====
section
/-!
DEFINITION. The meanings of the commands of the host two-wire interface: one definition per command, each over the operation of its block.
-/

namespace Sys2Proof.Machine

open Sys2Proof

/-- POINTER_WRITE (R471). -/
def execPointerWrite (addr : BitVec 7) (fast : Bool) (bytes : List Byte) (s : State) : Host.Outcome State Fault Refusal :=
  runAO (pointerWriteOp addr.toNat fast bytes) s

/-- POINTER_READ (R472). -/
def execPointerRead (addr : BitVec 7) (fast : Bool) (n : Nat) (s : State) : Host.Outcome State Fault Refusal :=
  runAO (pointerReadOp addr.toNat fast n) s

/-- READ8 (R477). -/
def execRead8 (args : List Byte) (sr : Bool) (n : Nat) (s : State) : Host.Outcome State Fault Refusal :=
  runAO (readOp 0x01 1 args sr n) s

/-- READ16 (R477). -/
def execRead16 (args : List Byte) (sr : Bool) (n : Nat) (s : State) : Host.Outcome State Fault Refusal :=
  runAO (readOp 0x02 2 args sr n) s

/-- READ32 (R477). -/
def execRead32 (args : List Byte) (sr : Bool) (n : Nat) (s : State) : Host.Outcome State Fault Refusal :=
  runAO (readOp 0x03 4 args sr n) s

/-- READBLK (R477). -/
def execReadblk (args : List Byte) (sr : Bool) (n : Nat) (s : State) : Host.Outcome State Fault Refusal :=
  runAO (readBlkOp args sr n) s

/-- WRITE8 (R478). -/
def execWrite8 (args : List Byte) (s : State) : Host.Outcome State Fault Refusal := runAO (writeOp 0x11 1 args) s

/-- WRITE16 (R478). -/
def execWrite16 (args : List Byte) (s : State) : Host.Outcome State Fault Refusal := runAO (writeOp 0x12 2 args) s

/-- WRITE32 (R478). -/
def execWrite32 (args : List Byte) (s : State) : Host.Outcome State Fault Refusal := runAO (writeOp 0x13 4 args) s

/-- WRITEBLK (R477). -/
def execWriteblk (args : List Byte) (s : State) : Host.Outcome State Fault Refusal := runAO (writeBlkOp args) s

/-- STATUS (R481). -/
def execStatus (args : List Byte) (sr : Bool) (n : Nat) (s : State) : Host.Outcome State Fault Refusal :=
  runAO (statusOp args sr n) s

/-- HOST_POST (R482). -/
def execHostPost (args : List Byte) (s : State) : Host.Outcome State Fault Refusal := runAO (hostPostOp args) s

/-- HOST_TAKE (R482). -/
def execHostTake (args : List Byte) (s : State) : Host.Outcome State Fault Refusal := runAO (hostTakeOp args) s

/-- RINGRST (R482). -/
def execRingrst (args : List Byte) (s : State) : Host.Outcome State Fault Refusal := runAO (ringrstOp args) s

/-- FUSEWR (R483). -/
def execFusewr (args : List Byte) (mv : Nat) (s : State) : Host.Outcome State Fault Refusal := runAO (fusewrOp args mv) s

/-- FUSE_WRITE_COMPLETE (R483). -/
def execFuseWriteComplete (back : Nat) (s : State) : Host.Outcome State Fault Refusal := run (fuseDoneOp back) s

/-- HOST_NOTIFY (R487). -/
def execHostNotify (recov : Bool) (ev : NotifyEv) (s : State) : Host.Outcome State Fault Refusal :=
  run (hostNotifyOp recov ev) s

/-- HOST_NOTIFY_REPEAT (R486). -/
def execHostNotifyRepeat (s : State) : Host.Outcome State Fault Refusal := run notifyRepeatOp s

/-- NOTIFY_ARB_RETRY (R488). -/
def execNotifyArbRetry (recov : Bool) (ev : NotifyEv) (s : State) : Host.Outcome State Fault Refusal :=
  run (notifyRetryOp recov ev) s

/-- START_IN_ACK_SLOT (R488). -/
def execStartInAckSlot (c : SrackCase) (s : State) : Host.Outcome State Fault Refusal := run (srackOp c) s

/-- TARGET_TIMEOUT (R488). -/
def execTargetTimeout (code : Option Byte) (s : State) : Host.Outcome State Fault Refusal := run (targetTimeoutOp code) s

/-- HST_NSET_WRITE (R485). -/
def execHstNsetWrite (v : BitVec 16) (s : State) : Host.Outcome State Fault Refusal := run (nsetWrite v.toNat) s

/-- NOTIFY_CLOCK_TIMEOUT (R488). -/
def execNotifyClockTimeout (recov : Bool) (s : State) : Host.Outcome State Fault Refusal := run (notifyTimeoutOp recov) s

end Sys2Proof.Machine
end

