-- ==== Sys2Proof/Machine/HubCmds.lean ====
section
/-!
DEFINITION. The meanings of the commands of the source ports and HBUS: one definition per command, each over the operation of its block.
-/

namespace Sys2Proof.Machine

open Sys2Proof

/-- PORT_MEASUREMENT (R181). -/
def execPortMeasurement (o : PortObs) (s : State) : Host.Outcome State Fault Refusal := run (portMeasureOp o) s

/-- REVERSE_CURRENT_TRIP (R182). -/
def execReverseCurrentTrip (p : Fin 4) (drop : Int) (o : FastObs) (s : State) : Host.Outcome State Fault Refusal :=
  run (reverseTrip p.val drop o) s

/-- HBUS_FALL_TRIP (R183). -/
def execHbusFallTrip (o : FastObs) (s : State) : Host.Outcome State Fault Refusal := run (hbusFall o) s

/-- HANDOVER_HOLD_END (R199). -/
def execHandoverHoldEnd (s : State) : Host.Outcome State Fault Refusal := run handoverEndOp s

/-- LOST_PORT_TIMEOUT (R200). -/
def execLostPortTimeout (s : State) : Host.Outcome State Fault Refusal := run lostTimeoutOp s

/-- QUALIFICATION_COMPLETE (R194). -/
def execQualificationComplete (p : Fin 4) (s : State) : Host.Outcome State Fault Refusal := run (qualDone p.val) s

/-- HANDBACK_CLOSE (R204). -/
def execHandbackClose (s : State) : Host.Outcome State Fault Refusal := run handbackCloseOp s

/-- HANDBACK_COMPLETE (R204). -/
def execHandbackComplete (s : State) : Host.Outcome State Fault Refusal := run handbackCompleteOp s

/-- LOCKOUT_END (R194). -/
def execLockoutEnd (p : Fin 4) (s : State) : Host.Outcome State Fault Refusal := run (lockoutEndOp p.val) s

/-- HBUS_OV_TRIP (R185). -/
def execHbusOvTrip (o : FastObs) (s : State) : Host.Outcome State Fault Refusal := run (hbusOvTripOp o) s

/-- HBUS_OV_RELEASE (R185). -/
def execHbusOvRelease (o : FastObs) (s : State) : Host.Outcome State Fault Refusal := run (hbusOvReleaseOp o) s

/-- HBUS_UV_TRIP (R185). -/
def execHbusUvTrip (o : FastObs) (s : State) : Host.Outcome State Fault Refusal := run (hbusUvTripOp o) s

/-- SAG_SHED (R209). -/
def execSagShed (o : FastObs) (s : State) : Host.Outcome State Fault Refusal := run (sagShedOp o) s

/-- SAG_RESTART (R210). -/
def execSagRestart (o : FastObs) (s : State) : Host.Outcome State Fault Refusal := run (sagRestartOp o) s

/-- PACK_START (R585). -/
def execPackStart (s : State) : Host.Outcome State Fault Refusal := run packStartOp s

/-- PACK_UNDERVOLTAGE (R214). -/
def execPackUndervoltage (o : FastObs) (s : State) : Host.Outcome State Fault Refusal := run (packUvOp o) s

/-- SID_READ (R187). -/
def execSidRead (tenthmv : Nat) (s : State) : Host.Outcome State Fault Refusal := run (sidReadOp tenthmv) s

/-- SID_RATE_WINDOW_END (R188). -/
def execSidRateWindowEnd (s : State) : Host.Outcome State Fault Refusal := run sidWindowEnd s

/-- SID_STUCK (R188). -/
def execSidStuck (s : State) : Host.Outcome State Fault Refusal := run sidStuckOp s

/-- S1_OVERCURRENT (R217). -/
def execS1Overcurrent (vds : Int) (s : State) : Host.Outcome State Fault Refusal := run (s1OverOp vds) s

/-- S1_BACKFEED (R217). -/
def execS1Backfeed (drop : Int) (s : State) : Host.Outcome State Fault Refusal := run (s1BackfeedOp drop) s

/-- S1_REENTRY (R217). -/
def execS1Reentry (s : State) : Host.Outcome State Fault Refusal := run s1ReentryOp s

end Sys2Proof.Machine
end

