-- ==== Sys2Proof/Machine/ImpCmds.lean ====
section
/-!
DEFINITION. The meanings of the commands of the impedance unit and the ADC: one definition per command, each over the operation of its block.
-/

namespace Sys2Proof.Machine

open Sys2Proof

/-- IMP_GROUP_LEAD_IN_END (R295). -/
def execImpGroupLeadInEnd (s : State) : Host.Outcome State Fault Refusal := run leadInEnd s

/-- IMP_GROUP_INTEGRATION_END (R295). -/
def execImpGroupIntegrationEnd (s : State) : Host.Outcome State Fault Refusal := run integrationEnd s

/-- IMP_CANCEL (R302). -/
def execImpCancel (s : State) : Host.Outcome State Fault Refusal := run impCancelOp s

/-- ADC_CONV (R387). -/
def execAdcConv (vals : List Int) (s : State) : Host.Outcome State Fault Refusal := run (adcConvOp vals) s

/-- IMP_SWEEP (R295). -/
def execImpSweep (s : State) : Host.Outcome State Fault Refusal := run impSweepOp s

end Sys2Proof.Machine
end

