-- ==== Sys2Proof/Machine/LnkCmds.lean ====
section
/-!
DEFINITION. The meanings of the commands of the Herd Link: one definition per command, each over the operation of its block.
-/

namespace Sys2Proof.Machine

open Sys2Proof

/-- RECEIVE_LOCK_LOSS (R429). -/
def execReceiveLockLoss (s : State) : Host.Outcome State Fault Refusal := run lockLossOp s

/-- BEACON_RECEIVED (R432). -/
def execBeaconReceived (bytes : List Byte) (err : Bool) (lead : BitVec 12) (arr : Int) (recs : List (List Byte × Bool))
    (s : State) : Host.Outcome State Fault Refusal :=
  run (beaconOp bytes err lead.toNat arr recs) s

/-- COMMAND_SLOT_RECEIVED (R433). -/
def execCommandSlotReceived (bytes : List Byte) (err : Bool) (s : State) : Host.Outcome State Fault Refusal :=
  run (commandSlotOp bytes err) s

/-- BUDGET_RECORD (R446). -/
def execBudgetRecord (s : State) : Host.Outcome State Fault Refusal := run budgetRecordOp s

/-- ROLLCALL (R444). -/
def execRollcall (s : State) : Host.Outcome State Fault Refusal := run rollcallOp s

/-- MESSAGE_RECEIVED (R456). -/
def execMessageReceived (bytes : List Byte) (err : Bool) (pre : Bool) (s : State) : Host.Outcome State Fault Refusal :=
  run (messageOp bytes err pre) s

/-- MESSAGE_RETURN_LEAD (R457). -/
def execMessageReturnLead (bytes : List Byte) (err : Bool) (s : State) : Host.Outcome State Fault Refusal :=
  run (messageReturnLeadOp bytes err) s

/-- MESSAGE_RETURN_SOURCE (R458). -/
def execMessageReturnSource (bytes : List Byte) (err : Bool) (s : State) : Host.Outcome State Fault Refusal :=
  run (messageReturnSourceOp bytes err) s

/-- MESSAGE_SEND (R456). -/
def execMessageSend (slot : Nat) (cut : Bool) (s : State) : Host.Outcome State Fault Refusal :=
  run (messageSendOp slot cut) s

/-- MESSAGE_TIMEOUT (R458). -/
def execMessageTimeout (s : State) : Host.Outcome State Fault Refusal := run messageTimeoutOp s

/-- LINK_TRAINING (R438). -/
def execLinkTraining (lat : Nat) (s : State) : Host.Outcome State Fault Refusal := run (linkTrainingOp lat) s

/-- CLAIM_START (R442). -/
def execClaimStart (s : State) : Host.Outcome State Fault Refusal := run claimStartOp s

/-- BEACON_LOSS (R461). -/
def execBeaconLoss (s : State) : Host.Outcome State Fault Refusal := run beaconLossOp s

/-- CLAIM_AFTER_LOSS (R461). -/
def execClaimAfterLoss (s : State) : Host.Outcome State Fault Refusal := run claimAfterLossOp s

/-- LEAD_HEADER_LOSS (R462). -/
def execLeadHeaderLoss (s : State) : Host.Outcome State Fault Refusal := run headerLossOp s

/-- LINK_ROLL_REQUEST (R444). -/
def execLinkRollRequest (s : State) : Host.Outcome State Fault Refusal := run rollRequestOp s

/-- LINK_ENABLE_WRITE (R426). -/
def execLinkEnableWrite (en : Bool) (s : State) : Host.Outcome State Fault Refusal :=
  run (fun t => if flag LNK_CTL_EN t == en then t else linkEnableOp en t) s

/-- LNK_SEND (R460). -/
def execLnkSend (s : State) : Host.Outcome State Fault Refusal := run lnkSendOp s

/-- LNK_RECV (R460). -/
def execLnkRecv (s : State) : Host.Outcome State Fault Refusal := run lnkRecvOp s

end Sys2Proof.Machine
end

