-- ==== Sys2Proof/Machine/PackCmds.lean ====
section
/-!
DEFINITION. The meanings of the commands of the pack port and the pack bus: one definition per command, each over the operation of its block.
-/

namespace Sys2Proof.Machine

open Sys2Proof

/-- PKT_READ (R312). -/
def execPktRead (tenthmv : Nat) (s : State) : Host.Outcome State Fault Refusal := run (pktReadOp tenthmv) s

/-- PKI_READ (R315). -/
def execPkiRead (tenthmv : Nat) (s : State) : Host.Outcome State Fault Refusal := run (pkiReadOp tenthmv) s

/-- PRESENCE_CHANGE (R316). -/
def execPresenceChange (pki : Bool) (opened : Bool) (s : State) : Host.Outcome State Fault Refusal :=
  run (presChangeOp pki opened) s

/-- PRESENCE_RATE_WINDOW_END (R316). -/
def execPresenceRateWindowEnd (pki : Bool) (s : State) : Host.Outcome State Fault Refusal := run (presWindowEnd pki) s

/-- PRESENCE_STUCK (R316). -/
def execPresenceStuck (pki : Bool) (s : State) : Host.Outcome State Fault Refusal := run (presStuckOp pki) s

/-- PKP_OWN_WRITE (R320), by the host as any register write of its (R478, R484). -/
def execPkpOwnWrite (who : Option EngId) (v : BitVec 8) (s : State) : Host.Outcome State Fault Refusal :=
  run (match who with | none => busStoreOp none PKP_OWN 1 v.toNat | some e => ownWrite (some e) v.toNat) s

/-- PKP_RTEMP_WRITE (R265). -/
def execPkpRtempWrite (v : BitVec 16) (s : State) : Host.Outcome State Fault Refusal := run (rtempWrite v.toNat) s

/-- SEQUENCER_PUSH (R325). -/
def execSequencerPush (e : Fin 2) (cell : Word) (s : State) : Host.Outcome State Fault Refusal := run (seqPush e.val cell) s

/-- SEQUENCER_POP (R325). -/
def execSequencerPop (e : Fin 2) (s : State) : Host.Outcome State Fault Refusal := run (seqPop e.val) s

/-- SEQUENCER_CELL_END (R323). -/
def execSequencerCellEnd (e : Fin 2) (edge : Bool) (lvl : Bool) (time : Nat) (s : State) : Host.Outcome State Fault Refusal :=
  run (cellEnd e.val edge lvl time) s

/-- SEQUENCER_FLUSH (R340). -/
def execSequencerFlush (e : Fin 2) (s : State) : Host.Outcome State Fault Refusal := run (seqFlushOp e.val) s

/-- SEQUENCER_DISABLE (R326). -/
def execSequencerDisable (e : Fin 2) (s : State) : Host.Outcome State Fault Refusal :=
  run (fun t => seqDisableOp e.val (setF (PKP_SEQCTL_EN e.val) 0 t)) s

/-- PKB_ARB_RETRY (R330). -/
def execPkbArbRetry (low : Bool) (ev : PkbEv) (s : State) : Host.Outcome State Fault Refusal := run (pkbRetryOp low ev) s

/-- PKB_CLOCK_TIMEOUT (R330). -/
def execPkbClockTimeout (idx : Nat) (s : State) : Host.Outcome State Fault Refusal := run (pkbTimeoutOp idx) s

/-- PKB_XFER (R328). -/
def execPkbXfer (low : Bool) (ev : PkbEv) (s : State) : Host.Outcome State Fault Refusal := run (pkbXferOp low ev) s

end Sys2Proof.Machine
end

