-- ==== Sys2Proof/Machine/PowerCmds.lean ====
section
/-!
DEFINITION. The meanings of the commands of the converter: one definition per command, each over the operation of its block.
-/

namespace Sys2Proof.Machine

open Sys2Proof

/-- SELECTOR_UPDATE (R149), with the bootstrap refresh of idle phases while the pack reserve is available (R163). -/
def execSelectorUpdate (o : FastObs) (s : State) : Host.Outcome State Fault Refusal :=
  run (fun t => impGov (selectorOp o (when' (rsv t) idleRefresh t))) s

/-- SWITCHING_CYCLE (R137). -/
def execSwitchingCycle (k : Fin 6) (o : CycleObs) (s : State) : Host.Outcome State Fault Refusal :=
  run (switchingCycle k.val o) s

/-- LIGHT_LOAD_ENTRY (R140). -/
def execLightLoadEntry (s : State) : Host.Outcome State Fault Refusal := run lightLoadEntryOp s

/-- PHASE_ADD (R153). -/
def execPhaseAdd (s : State) : Host.Outcome State Fault Refusal := run phaseAddOp s

/-- PHASE_SHED (R153). -/
def execPhaseShed (s : State) : Host.Outcome State Fault Refusal := run phaseShedOp s

/-- PHASE_HARD_OC (R168). -/
def execPhaseHardOc (k : Fin 6) (uv : Int) (s : State) : Host.Outcome State Fault Refusal := run (hardOc k.val uv) s

/-- PHASE_READMIT (R168). -/
def execPhaseReadmit (k : Fin 6) (s : State) : Host.Outcome State Fault Refusal := run (readmit k.val) s

/-- GATE_FEEDBACK_FAULT (R168). -/
def execGateFeedbackFault (k : Fin 6) (s : State) : Host.Outcome State Fault Refusal := run (gateFault k.val) s

/-- PHASE_IMBALANCE (R168). -/
def execPhaseImbalance (k : Fin 6) (s : State) : Host.Outcome State Fault Refusal := run (imbalance k.val) s

end Sys2Proof.Machine
end

