-- ==== Sys2Proof/Machine/RingCmds.lean ====
section
/-!
DEFINITION. The meanings of the commands of the ring unit, the check unit and the operations: one definition per command, each over the operation of its block.
-/

namespace Sys2Proof.Machine

open Sys2Proof

/-- NOP (R385): the NOP at the head of the ring unit's queue completes there. -/
def nopOp (s : State) : State :=
  match nextOp 0 s with
  | some t => if entB t.ent 0 = 1 then dispatch 0 s else s
  | none => s

/-- OPERATION_DISPATCH (R388). -/
def execOperationDispatch (u : Fin 15) (s : State) : Host.Outcome State Fault Refusal := run (dispatch u.val) s

/-- NOP (R385). -/
def execNop (s : State) : Host.Outcome State Fault Refusal := run nopOp s

/-- CRC_SCAN (R562). -/
def execCrcScan (s : State) : Host.Outcome State Fault Refusal := run crcScanOp s

/-- SHIP (R386). -/
def execShip (presence : Bool) (feeds : AoFeeds) (s : State) : Host.Outcome State Fault Refusal := run (shipOp presence feeds) s

/-- RING_CONFIG_WRITE (R380). -/
def execRingConfigWrite (who : Option EngId) (n : Fin 32) (v : Word) (s : State) : Host.Outcome State Fault Refusal :=
  run (busStoreOp who (RNG_CFG n.val) 4 v.toNat) s

/-- QUOTA_WRITE (R391). -/
def execQuotaWrite (second : Bool) (v : Word) (s : State) : Host.Outcome State Fault Refusal :=
  run (busStoreOp none (if second then RNG_QUOTA1 else RNG_QUOTA0) 4 v.toNat) s

/-- REGISTER_WRITE (R348). -/
def execRegisterWrite (who : Option EngId) (a : BitVec 16) (size : Fin 3) (v : Word) (s : State) : Host.Outcome State Fault Refusal :=
  run (busStoreOp who a.toNat (2 ^ size.val) v.toNat) s

end Sys2Proof.Machine
end

