-- ==== Sys2Proof/Machine/StoreCmds.lean ====
section
/-!
DEFINITION. The meanings of the commands of the program store and its update: one definition per command, each over the operation of its block.
-/

namespace Sys2Proof.Machine

open Sys2Proof

/-- PS_WRITE (R402). -/
def execPsWrite (bad : Option (Fin 16)) (s : State) : Host.Outcome State Fault Refusal := run (psWriteOp (bad.map (·.val))) s

/-- SCRUB_LINE (R407). -/
def execScrubLine (s : State) : Host.Outcome State Fault Refusal := run scrubOp s

/-- ARM (R415). -/
def execArm (via : Option (List Byte)) (s : State) : Host.Outcome State Fault Refusal := runAO (hostArmOp via) s

/-- ARM_VERIFY_DONE (R415). -/
def execArmVerifyDone (s : State) : Host.Outcome State Fault Refusal := run armDoneOp s

/-- DISARM (R416). -/
def execDisarm (via : Option (List Byte)) (s : State) : Host.Outcome State Fault Refusal := runAO (hostDisarmOp via) s

/-- BANK_SWAP (R417). -/
def execBankSwap (s : State) : Host.Outcome State Fault Refusal := run bankSwapOp s

/-- CHECK_WINDOW_CLOSE (R420). -/
def execCheckWindowClose (s : State) : Host.Outcome State Fault Refusal := run windowEndOp s

/-- IMAGE_RECOVERY (R423). -/
def execImageRecovery (s : State) : Host.Outcome State Fault Refusal := run imageRecoveryOp s

end Sys2Proof.Machine
end

