-- ==== Sys2Proof/Machine/SupplyCmds.lean ====
section
/-!
DEFINITION. The meanings of the commands of supplies, start-up and ship mode: one definition per command, each over the operation of its block.
-/

namespace Sys2Proof.Machine

open Sys2Proof

/-- AO_POWER_ON (R105). -/
def execAoPowerOn (feeds : AoFeeds) (haddr : Nat) (s : State) : Host.Outcome State Fault Refusal :=
  runAO (aoPowerOnOp feeds haddr) s

/-- VCC_POWER_ON (R106). -/
def execVccPowerOn (o : PowerObs) (s : State) : Host.Outcome State Fault Refusal := runAO (vccPowerOnOp o) s

/-- VDRV_RESENSE (R100). -/
def execVdrvResense (mv : Nat) (s : State) : Host.Outcome State Fault Refusal := run (vdrvResenseOp mv) s

/-- BOOT_TICK (R107). -/
def execBootTick (o : FrameObs) (s : State) : Host.Outcome State Fault Refusal := run (bootTickOp o) s

/-- VCC_LOSS (R112). -/
def execVccLoss (o : LossObs) (s : State) : Host.Outcome State Fault Refusal := runAO (vccLossOp o) s

/-- VCC_PATH_CHANGE (R97). -/
def execVccPathChange (vh : Nat) (vp : Nat) (s : State) : Host.Outcome State Fault Refusal := runAO (vccPathOp vh vp) s

/-- BOOTSTRAP_UV (R79). -/
def execBootstrapUv (k : Fin 6) (pack : Bool) (mv : Nat) (s : State) : Host.Outcome State Fault Refusal :=
  run (bootstrap k.val pack mv) s

/-- VDRV_OUT_OF_BAND (R102). -/
def execVdrvOutOfBand (s : State) : Host.Outcome State Fault Refusal := run vdrvOutOp s

/-- SHIP_REQUEST (R119). -/
def execShipRequest (presence : Bool) (feeds : AoFeeds) (s : State) : Host.Outcome State Fault Refusal :=
  run (shipRequestOp presence feeds) s

/-- SHIP_EXIT_WAKE (R122). -/
def execShipExitWake (ms vcc : Nat) (s : State) : Host.Outcome State Fault Refusal := runAO (shipExitWakeOp ms vcc) s

/-- SHIP_EXIT_SOURCE (R122). -/
def execShipExitSource (vcc : Nat) (s : State) : Host.Outcome State Fault Refusal := runAO (shipExitSourceOp vcc) s

/-- WAKE_PRESS (R124). -/
def execWakePress (ms : Nat) (s : State) : Host.Outcome State Fault Refusal := runAO (wakePressOp ms) s

/-- WAKE_STUCK (R126). -/
def execWakeStuck (s : State) : Host.Outcome State Fault Refusal := runAO wakeStuckOp s

/-- WAKE_PRESS_END (R124). -/
def execWakePressEnd (s : State) : Host.Outcome State Fault Refusal := runAO wakeEndOp s

/-- VDRV_BACK_IN_BAND (R102). -/
def execVdrvBackInBand (s : State) : Host.Outcome State Fault Refusal := run vdrvBackOp s

/-- AO_RETENTION_LOSS (R103). -/
def execAoRetentionLoss (s : State) : Host.Outcome State Fault Refusal := runAO aoLossOp s

end Sys2Proof.Machine
end

