-- ==== Sys2Proof/Machine/TcpCmds.lean ====
section
/-!
DEFINITION. The meanings of the commands of the Type-C port: one definition per command, each over the operation of its block.
-/

namespace Sys2Proof.Machine

open Sys2Proof

/-- TYPEC_ATTACH (R221). -/
def execTypecAttach (cc2 : Bool) (s : State) : Host.Outcome State Fault Refusal := run (attachOp cc2) s

/-- TYPEC_DETACH (R222). -/
def execTypecDetach (vbus : Bool) (s : State) : Host.Outcome State Fault Refusal := run (detachOp vbus) s

/-- RP_LEVEL_READ (R223). -/
def execRpLevelRead (mv : Nat) (s : State) : Host.Outcome State Fault Refusal := run (rpReadOp mv) s

/-- SOURCE_CAPABILITIES_RX (R228). -/
def execSourceCapabilitiesRx (epr : Bool) (hdr : BitVec 16) (objs : List Word) (s : State) : Host.Outcome State Fault Refusal :=
  run (sourceCapsOp epr hdr objs) s

/-- ACCEPT_RX (R233). -/
def execAcceptRx (id : BitVec 3) (s : State) : Host.Outcome State Fault Refusal := run (acceptOp id.toNat) s

/-- REJECT_RX (R228). -/
def execRejectRx (id : BitVec 3) (s : State) : Host.Outcome State Fault Refusal := run (declineOp 8 id.toNat) s

/-- WAIT_RX (R228). -/
def execWaitRx (id : BitVec 3) (s : State) : Host.Outcome State Fault Refusal := run (declineOp 9 id.toNat) s

/-- PS_RDY_RX (R232). -/
def execPsRdyRx (id : BitVec 3) (s : State) : Host.Outcome State Fault Refusal := run (psRdyOp id.toNat) s

/-- EPR_MODE_RX (R236). -/
def execEprModeRx (act : EprAct) (hdr : BitVec 16) (objs : List Word) (s : State) : Host.Outcome State Fault Refusal :=
  run (eprModeRxOp act hdr objs) s

/-- SOFT_RESET_RX (R239). -/
def execSoftResetRx (hdr : BitVec 16) (s : State) : Host.Outcome State Fault Refusal := run (softResetRxOp hdr) s

/-- HARD_RESET_RX (R240). -/
def execHardResetRx (s : State) : Host.Outcome State Fault Refusal := run hardResetRxOp s

/-- PING_RX (R228). -/
def execPingRx (id : BitVec 3) (s : State) : Host.Outcome State Fault Refusal := run (pingOp id.toNat) s

/-- EPR_KEEPALIVE_ACK_RX (R237). -/
def execEprKeepaliveAckRx (id : BitVec 3) (s : State) : Host.Outcome State Fault Refusal := run (keepAliveAckOp id.toNat) s

/-- UNSUPPORTED_MESSAGE_RX (R228). -/
def execUnsupportedMessageRx (id : BitVec 3) (s : State) : Host.Outcome State Fault Refusal := run (unsupportedOp id.toNat) s

/-- SINK_WAIT_CAP_TIMER (R229). -/
def execSinkWaitCapTimer (s : State) : Host.Outcome State Fault Refusal := run sinkWaitOp s

/-- RETRANSMISSION_TIMER (R227). -/
def execRetransmissionTimer (s : State) : Host.Outcome State Fault Refusal := run retransmitOp s

/-- SENDER_RESPONSE_TIMER (R230). -/
def execSenderResponseTimer (s : State) : Host.Outcome State Fault Refusal := run senderResponseOp s

/-- PS_TRANSITION_TIMER (R230). -/
def execPsTransitionTimer (s : State) : Host.Outcome State Fault Refusal := run psTransitionOp s

/-- EPR_KEEPALIVE_TIMER (R237). -/
def execEprKeepaliveTimer (s : State) : Host.Outcome State Fault Refusal := run keepAliveOp s

/-- EPR_ENTRY_TIMEOUT (R236). -/
def execEprEntryTimeout (s : State) : Host.Outcome State Fault Refusal := run eprTimeoutOp s

/-- PD_REQUEST (R231). -/
def execPdRequest (s : State) : Host.Outcome State Fault Refusal := run (txcmdWrite 1) s

/-- PD_REQUEST_AFTER_RELEASE (R234). -/
def execPdRequestAfterRelease (s : State) : Host.Outcome State Fault Refusal := run requestReleasedOp s

/-- EPR_REQUEST (R231). -/
def execEprRequest (s : State) : Host.Outcome State Fault Refusal := run (txcmdWrite 2) s

/-- GET_SOURCE_CAP (R228). -/
def execGetSourceCap (s : State) : Host.Outcome State Fault Refusal := run (txcmdWrite 3) s

/-- EPR_MODE_ENTER (R235). -/
def execEprModeEnter (s : State) : Host.Outcome State Fault Refusal := run (txcmdWrite 4) s

/-- EPR_MODE_EXIT (R236). -/
def execEprModeExit (s : State) : Host.Outcome State Fault Refusal := run (txcmdWrite 5) s

/-- SOFT_RESET_CMD (R239). -/
def execSoftResetCmd (s : State) : Host.Outcome State Fault Refusal := run (txcmdWrite 6) s

/-- HARD_RESET_CMD (R240). -/
def execHardResetCmd (s : State) : Host.Outcome State Fault Refusal := run (txcmdWrite 7) s

/-- GOODCRC_RECEIVED (R227). -/
def execGoodcrcReceived (s : State) : Host.Outcome State Fault Refusal := run goodCrcOp s

end Sys2Proof.Machine
end

