-- ==== Sys2Proof/Machine/TmrCmds.lean ====
section
/-!
DEFINITION. The meanings of the commands of the timer array: one definition per command, each over the operation of its block.
-/

namespace Sys2Proof.Machine

open Sys2Proof

/-- TIMER_RELOAD (R547). -/
def execTimerReload (n : Fin 8) (s : State) : Host.Outcome State Fault Refusal := run (timerReloadOp n.val) s

/-- TIMER_MATCH (R554). -/
def execTimerMatch (n : Fin 8) (s : State) : Host.Outcome State Fault Refusal := run (timerMatchOp n.val) s

/-- TIMER_CAPTURE (R551). -/
def execTimerCapture (n : Fin 8) (rising : Bool) (gap : Nat) (s : State) : Host.Outcome State Fault Refusal :=
  run (timerCaptureOp n.val rising gap) s

/-- TIO_STUCK (R552). -/
def execTioStuck (n : Fin 8) (s : State) : Host.Outcome State Fault Refusal := run (tioStuckOp n.val) s

/-- TIMER_COUNTER_WRITE (R550). -/
def execTimerCounterWrite (n : Fin 8) (v : Word) (s : State) : Host.Outcome State Fault Refusal :=
  run (tmrLoad n.val v.toNat) s

/-- TIMER_COMPARE_WRITE (R554). -/
def execTimerCompareWrite (n : Fin 8) (v : Word) (s : State) : Host.Outcome State Fault Refusal := run (tmrCmpWrite n.val v) s

/-- TIMER_PERIOD_WRITE (R547). -/
def execTimerPeriodWrite (n : Fin 8) (v : Word) (s : State) : Host.Outcome State Fault Refusal :=
  run (tmrPerWrite n.val v.toNat) s

/-- TIMER_CAPTURE_READ (R551). -/
def execTimerCaptureRead (n : Fin 8) (s : State) : Host.Outcome State Fault Refusal := run (timerCaptureReadOp n.val) s

/-- TIMER_STAGGER_LOAD (R557). -/
def execTimerStaggerLoad (mask : BitVec 8) (s : State) : Host.Outcome State Fault Refusal :=
  run (fun t => staggerOp mask.toNat (parWrite TMR_STAG 0xFF (wr TMR_STAG mask.toNat t))) s

/-- COUNT_EDGE (R546). -/
def execCountEdge (n : Fin 8) (gate : Bool) (gap : Nat) (s : State) : Host.Outcome State Fault Refusal :=
  run (countEdgeOp n.val gate gap) s

end Sys2Proof.Machine
end

