-- ==== Sys2Proof/Machine/WdgCmds.lean ====
section
/-!
DEFINITION. The meanings of the commands of the watchdog and thermal management: one definition per command, each over the operation of its block.
-/

namespace Sys2Proof.Machine

open Sys2Proof

/-- THERMAL_UPDATE (R507). -/
def execThermalUpdate (o : ThermObs) (s : State) : Host.Outcome State Fault Refusal := run (thermalUpdateOp o) s

/-- WATCHDOG_START (R493). -/
def execWatchdogStart (s : State) : Host.Outcome State Fault Refusal := run wdgStart s

/-- WATCHDOG_KEY_WRITE (R496). -/
def execWatchdogKeyWrite (v : Word) (s : State) : Host.Outcome State Fault Refusal := run (wdgKeyWrite v.toNat) s

/-- WATCHDOG_SERVICE (R497). -/
def execWatchdogService (v : Word) (s : State) : Host.Outcome State Fault Refusal := run (fun t => wdgServiceOp (clockNow t) v t) s

/-- WATCHDOG_CHECKIN (R499). -/
def execWatchdogCheckin (who : Option EngId) (k : BitVec 3) (s : State) : Host.Outcome State Fault Refusal :=
  run (fun t => wdgCheckinOp (clockNow t) who k.toNat t) s

/-- WATCHDOG_CONFIG_WRITE (R500). -/
def execWatchdogConfigWrite (task : Bool) (v : Word) (s : State) : Host.Outcome State Fault Refusal :=
  run (fun t => wdgCfgWrite (clockNow t) (if task then WDG_TASK else WDG_PER) v.toNat t) s

/-- OPEN_WINDOW_CLOSE (R492). -/
def execOpenWindowClose (s : State) : Host.Outcome State Fault Refusal := run wdgWindowClose s

/-- WATCHDOG_EXPIRY (R501). -/
def execWatchdogExpiry (s : State) : Host.Outcome State Fault Refusal := run wdgExpiryOp s

/-- TH_HARD_TRIP (R510). -/
def execThHardTrip (die : Int) (s : State) : Host.Outcome State Fault Refusal := run (thHardTripOp die) s

/-- TH_STOP_RELEASE (R508). -/
def execThStopRelease (s : State) : Host.Outcome State Fault Refusal := run thStopReleaseOp s

/-- TH_HARD_RELEASE (R508). -/
def execThHardRelease (s : State) : Host.Outcome State Fault Refusal := run thHardReleaseOp s

end Sys2Proof.Machine
end

