-- ==== Sys2Proof/Machine/Dispatch.lean ====
section
/-!
DEFINITION. The dispatch of a command to its meaning: one arm per constructor of `Instr`.
-/

namespace Sys2Proof.Machine

open Sys2Proof

/-- The effect of a command on everything but the queue of waiting commands. -/
def exec (i : Instr) (s : State) : Host.Outcome State Fault Refusal :=
  match i with
  | .frameTick o => Sys2Proof.Machine.execFrameTick o s
  | .engineRelease => Sys2Proof.Machine.execEngineRelease s
  | .superframeBoundary => Sys2Proof.Machine.execSuperframeBoundary s
  | .idleFramesFawn => Sys2Proof.Machine.execIdleFramesFawn s
  | .thermalUpdate o => Sys2Proof.Machine.execThermalUpdate o s
  | .clockMonitorCheck count => Sys2Proof.Machine.execClockMonitorCheck count s
  | .hfoFailed => Sys2Proof.Machine.execHfoFailed s
  | .receiveLockLoss => Sys2Proof.Machine.execReceiveLockLoss s
  | .xiStatusChange present => Sys2Proof.Machine.execXiStatusChange present s
  | .aoPowerOn feeds haddr => Sys2Proof.Machine.execAoPowerOn feeds haddr s
  | .vccPowerOn o => Sys2Proof.Machine.execVccPowerOn o s
  | .vdrvResense mv => Sys2Proof.Machine.execVdrvResense mv s
  | .bootTick o => Sys2Proof.Machine.execBootTick o s
  | .vccLoss o => Sys2Proof.Machine.execVccLoss o s
  | .vccPathChange vh vp => Sys2Proof.Machine.execVccPathChange vh vp s
  | .bootstrapUv k pack mv => Sys2Proof.Machine.execBootstrapUv k pack mv s
  | .vdrvOutOfBand => Sys2Proof.Machine.execVdrvOutOfBand s
  | .shipRequest presence feeds => Sys2Proof.Machine.execShipRequest presence feeds s
  | .shipExitWake ms vcc => Sys2Proof.Machine.execShipExitWake ms vcc s
  | .shipExitSource vcc => Sys2Proof.Machine.execShipExitSource vcc s
  | .wakePress ms => Sys2Proof.Machine.execWakePress ms s
  | .wakeStuck => Sys2Proof.Machine.execWakeStuck s
  | .engineReset e => Sys2Proof.Machine.execEngineReset e s
  | .engineHalt e => Sys2Proof.Machine.execEngineHalt e s
  | .selectorUpdate o => Sys2Proof.Machine.execSelectorUpdate o s
  | .switchingCycle k o => Sys2Proof.Machine.execSwitchingCycle k o s
  | .lightLoadEntry => Sys2Proof.Machine.execLightLoadEntry s
  | .phaseAdd => Sys2Proof.Machine.execPhaseAdd s
  | .phaseShed => Sys2Proof.Machine.execPhaseShed s
  | .phaseHardOc k uv => Sys2Proof.Machine.execPhaseHardOc k uv s
  | .phaseReadmit k => Sys2Proof.Machine.execPhaseReadmit k s
  | .gateFeedbackFault k => Sys2Proof.Machine.execGateFeedbackFault k s
  | .phaseImbalance k => Sys2Proof.Machine.execPhaseImbalance k s
  | .portMeasurement o => Sys2Proof.Machine.execPortMeasurement o s
  | .reverseCurrentTrip p drop o => Sys2Proof.Machine.execReverseCurrentTrip p drop o s
  | .hbusFallTrip o => Sys2Proof.Machine.execHbusFallTrip o s
  | .handoverHoldEnd => Sys2Proof.Machine.execHandoverHoldEnd s
  | .lostPortTimeout => Sys2Proof.Machine.execLostPortTimeout s
  | .qualificationComplete p => Sys2Proof.Machine.execQualificationComplete p s
  | .handbackClose => Sys2Proof.Machine.execHandbackClose s
  | .handbackComplete => Sys2Proof.Machine.execHandbackComplete s
  | .lockoutEnd p => Sys2Proof.Machine.execLockoutEnd p s
  | .hbusOvTrip o => Sys2Proof.Machine.execHbusOvTrip o s
  | .hbusOvRelease o => Sys2Proof.Machine.execHbusOvRelease o s
  | .hbusUvTrip o => Sys2Proof.Machine.execHbusUvTrip o s
  | .sagShed o => Sys2Proof.Machine.execSagShed o s
  | .sagRestart o => Sys2Proof.Machine.execSagRestart o s
  | .packStart => Sys2Proof.Machine.execPackStart s
  | .packUndervoltage o => Sys2Proof.Machine.execPackUndervoltage o s
  | .sidRead tenthmv => Sys2Proof.Machine.execSidRead tenthmv s
  | .sidRateWindowEnd => Sys2Proof.Machine.execSidRateWindowEnd s
  | .sidStuck => Sys2Proof.Machine.execSidStuck s
  | .s1Overcurrent vds => Sys2Proof.Machine.execS1Overcurrent vds s
  | .s1Backfeed drop => Sys2Proof.Machine.execS1Backfeed drop s
  | .s1Reentry => Sys2Proof.Machine.execS1Reentry s
  | .typecAttach cc2 => Sys2Proof.Machine.execTypecAttach cc2 s
  | .typecDetach vbus => Sys2Proof.Machine.execTypecDetach vbus s
  | .rpLevelRead mv => Sys2Proof.Machine.execRpLevelRead mv s
  | .sourceCapabilitiesRx epr hdr objs => Sys2Proof.Machine.execSourceCapabilitiesRx epr hdr objs s
  | .acceptRx id => Sys2Proof.Machine.execAcceptRx id s
  | .rejectRx id => Sys2Proof.Machine.execRejectRx id s
  | .waitRx id => Sys2Proof.Machine.execWaitRx id s
  | .psRdyRx id => Sys2Proof.Machine.execPsRdyRx id s
  | .eprModeRx act hdr objs => Sys2Proof.Machine.execEprModeRx act hdr objs s
  | .softResetRx hdr => Sys2Proof.Machine.execSoftResetRx hdr s
  | .hardResetRx => Sys2Proof.Machine.execHardResetRx s
  | .pingRx id => Sys2Proof.Machine.execPingRx id s
  | .eprKeepaliveAckRx id => Sys2Proof.Machine.execEprKeepaliveAckRx id s
  | .unsupportedMessageRx id => Sys2Proof.Machine.execUnsupportedMessageRx id s
  | .sinkWaitCapTimer => Sys2Proof.Machine.execSinkWaitCapTimer s
  | .retransmissionTimer => Sys2Proof.Machine.execRetransmissionTimer s
  | .senderResponseTimer => Sys2Proof.Machine.execSenderResponseTimer s
  | .psTransitionTimer => Sys2Proof.Machine.execPsTransitionTimer s
  | .eprKeepaliveTimer => Sys2Proof.Machine.execEprKeepaliveTimer s
  | .eprEntryTimeout => Sys2Proof.Machine.execEprEntryTimeout s
  | .pdRequest => Sys2Proof.Machine.execPdRequest s
  | .pdRequestAfterRelease => Sys2Proof.Machine.execPdRequestAfterRelease s
  | .eprRequest => Sys2Proof.Machine.execEprRequest s
  | .getSourceCap => Sys2Proof.Machine.execGetSourceCap s
  | .eprModeEnter => Sys2Proof.Machine.execEprModeEnter s
  | .eprModeExit => Sys2Proof.Machine.execEprModeExit s
  | .softResetCmd => Sys2Proof.Machine.execSoftResetCmd s
  | .hardResetCmd => Sys2Proof.Machine.execHardResetCmd s
  | .descriptorLatch => Sys2Proof.Machine.execDescriptorLatch s
  | .latchComplete => Sys2Proof.Machine.execLatchComplete s
  | .packOvTrip o => Sys2Proof.Machine.execPackOvTrip o s
  | .packOcTrip o => Sys2Proof.Machine.execPackOcTrip o s
  | .presenceOpenDetect => Sys2Proof.Machine.execPresenceOpenDetect s
  | .currentCollapseDetect o => Sys2Proof.Machine.execCurrentCollapseDetect o s
  | .packAbsent => Sys2Proof.Machine.execPackAbsent s
  | .packPresence => Sys2Proof.Machine.execPackPresence s
  | .identifyBackstop => Sys2Proof.Machine.execIdentifyBackstop s
  | .recoverAttemptEnd => Sys2Proof.Machine.execRecoverAttemptEnd s
  | .taperEndBackstop => Sys2Proof.Machine.execTaperEndBackstop s
  | .temperatureBandChange => Sys2Proof.Machine.execTemperatureBandChange s
  | .suspendTempExit => Sys2Proof.Machine.execSuspendTempExit s
  | .temperatureStale => Sys2Proof.Machine.execTemperatureStale s
  | .rechargeThreshold => Sys2Proof.Machine.execRechargeThreshold s
  | .pkDgCloseComplete => Sys2Proof.Machine.execPkDgCloseComplete s
  | .packCurrentRampEnd => Sys2Proof.Machine.execPackCurrentRampEnd s
  | .lampPatternStep lamp => Sys2Proof.Machine.execLampPatternStep lamp s
  | .impGroupLeadInEnd => Sys2Proof.Machine.execImpGroupLeadInEnd s
  | .impGroupIntegrationEnd => Sys2Proof.Machine.execImpGroupIntegrationEnd s
  | .impCancel => Sys2Proof.Machine.execImpCancel s
  | .pktRead tenthmv => Sys2Proof.Machine.execPktRead tenthmv s
  | .pkiRead tenthmv => Sys2Proof.Machine.execPkiRead tenthmv s
  | .presenceChange pki opened => Sys2Proof.Machine.execPresenceChange pki opened s
  | .presenceRateWindowEnd pki => Sys2Proof.Machine.execPresenceRateWindowEnd pki s
  | .presenceStuck pki => Sys2Proof.Machine.execPresenceStuck pki s
  | .pkpOwnWrite who v => Sys2Proof.Machine.execPkpOwnWrite who v s
  | .pkpRtempWrite v => Sys2Proof.Machine.execPkpRtempWrite v s
  | .sequencerPush e cell => Sys2Proof.Machine.execSequencerPush e cell s
  | .sequencerPop e => Sys2Proof.Machine.execSequencerPop e s
  | .sequencerCellEnd e edge lvl time => Sys2Proof.Machine.execSequencerCellEnd e edge lvl time s
  | .sequencerFlush e => Sys2Proof.Machine.execSequencerFlush e s
  | .sequencerDisable e => Sys2Proof.Machine.execSequencerDisable e s
  | .pkbArbRetry low ev => Sys2Proof.Machine.execPkbArbRetry low ev s
  | .pkbClockTimeout idx => Sys2Proof.Machine.execPkbClockTimeout idx s
  | .alu e b => Sys2Proof.Machine.execAlu e b s
  | .addi e b => Sys2Proof.Machine.execAddi e b s
  | .andi e b => Sys2Proof.Machine.execAndi e b s
  | .ori e b => Sys2Proof.Machine.execOri e b s
  | .xori e b => Sys2Proof.Machine.execXori e b s
  | .shi e b => Sys2Proof.Machine.execShi e b s
  | .slti e b => Sys2Proof.Machine.execSlti e b s
  | .sltiu e b => Sys2Proof.Machine.execSltiu e b s
  | .lui e b => Sys2Proof.Machine.execLui e b s
  | .li e b => Sys2Proof.Machine.execLi e b s
  | .mulg e b => Sys2Proof.Machine.execMulg e b s
  | .divg e b => Sys2Proof.Machine.execDivg e b s
  | .ldb e b => Sys2Proof.Machine.execLdb e b s
  | .ldbu e b => Sys2Proof.Machine.execLdbu e b s
  | .ldh e b => Sys2Proof.Machine.execLdh e b s
  | .ldhu e b => Sys2Proof.Machine.execLdhu e b s
  | .ldw e b => Sys2Proof.Machine.execLdw e b s
  | .stb e b => Sys2Proof.Machine.execStb e b s
  | .sth e b => Sys2Proof.Machine.execSth e b s
  | .stw e b => Sys2Proof.Machine.execStw e b s
  | .storeLands e => Sys2Proof.Machine.execStoreLands e s
  | .amo e b => Sys2Proof.Machine.execAmo e b s
  | .ldp e b => Sys2Proof.Machine.execLdp e b s
  | .br e b => Sys2Proof.Machine.execBr e b s
  | .bf e b => Sys2Proof.Machine.execBf e b s
  | .jal e b => Sys2Proof.Machine.execJal e b s
  | .jalr e b => Sys2Proof.Machine.execJalr e b s
  | .j e b => Sys2Proof.Machine.execJ e b s
  | .yield e b => Sys2Proof.Machine.execYield e b s
  | .halt e b => Sys2Proof.Machine.execHalt e b s
  | .trap e b => Sys2Proof.Machine.execTrap e b s
  | .eret e b => Sys2Proof.Machine.execEret e b s
  | .mfs e b => Sys2Proof.Machine.execMfs e b s
  | .mts e b => Sys2Proof.Machine.execMts e b s
  | .post e b => Sys2Proof.Machine.execPost e b s
  | .take e b => Sys2Proof.Machine.execTake e b s
  | .macg e b => Sys2Proof.Machine.execMacg e b s
  | .accg e b => Sys2Proof.Machine.execAccg e b s
  | .qg e b => Sys2Proof.Machine.execQg e b s
  | .cg e b => Sys2Proof.Machine.execCg e b s
  | .fng e b => Sys2Proof.Machine.execFng e b s
  | .sqg e b => Sys2Proof.Machine.execSqg e b s
  | .divag e b => Sys2Proof.Machine.execDivag e b s
  | .cpush e b => Sys2Proof.Machine.execCpush e b s
  | .cpop e b => Sys2Proof.Machine.execCpop e b s
  | .cbit e b => Sys2Proof.Machine.execCbit e b s
  | .wcls e b => Sys2Proof.Machine.execWcls e b s
  | .crc8 e b => Sys2Proof.Machine.execCrc8 e b s
  | .pinr e b lvl => Sys2Proof.Machine.execPinr e b lvl s
  | .lineBufferFill e line word => Sys2Proof.Machine.execLineBufferFill e line word s
  | .operationDispatch u => Sys2Proof.Machine.execOperationDispatch u s
  | .adcConv vals => Sys2Proof.Machine.execAdcConv vals s
  | .pkbXfer low ev => Sys2Proof.Machine.execPkbXfer low ev s
  | .psWrite bad => Sys2Proof.Machine.execPsWrite bad s
  | .ship presence feeds => Sys2Proof.Machine.execShip presence feeds s
  | .ringConfigWrite who n v => Sys2Proof.Machine.execRingConfigWrite who n v s
  | .quotaWrite second v => Sys2Proof.Machine.execQuotaWrite second v s
  | .arm via => Sys2Proof.Machine.execArm via s
  | .disarm via => Sys2Proof.Machine.execDisarm via s
  | .beaconReceived bytes err lead off recs => Sys2Proof.Machine.execBeaconReceived bytes err lead off recs s
  | .commandSlotReceived bytes err => Sys2Proof.Machine.execCommandSlotReceived bytes err s
  | .messageReceived bytes err pre => Sys2Proof.Machine.execMessageReceived bytes err pre s
  | .messageReturnLead bytes err => Sys2Proof.Machine.execMessageReturnLead bytes err s
  | .messageReturnSource bytes err => Sys2Proof.Machine.execMessageReturnSource bytes err s
  | .messageSend slot cut => Sys2Proof.Machine.execMessageSend slot cut s
  | .linkTraining lat => Sys2Proof.Machine.execLinkTraining lat s
  | .linkEnableWrite en => Sys2Proof.Machine.execLinkEnableWrite en s
  | .pointerWrite addr fast bytes => Sys2Proof.Machine.execPointerWrite addr fast bytes s
  | .pointerRead addr fast n => Sys2Proof.Machine.execPointerRead addr fast n s
  | .read8 args sr n => Sys2Proof.Machine.execRead8 args sr n s
  | .read16 args sr n => Sys2Proof.Machine.execRead16 args sr n s
  | .read32 args sr n => Sys2Proof.Machine.execRead32 args sr n s
  | .readblk args sr n => Sys2Proof.Machine.execReadblk args sr n s
  | .write8 args => Sys2Proof.Machine.execWrite8 args s
  | .write16 args => Sys2Proof.Machine.execWrite16 args s
  | .write32 args => Sys2Proof.Machine.execWrite32 args s
  | .writeblk args => Sys2Proof.Machine.execWriteblk args s
  | .status args sr n => Sys2Proof.Machine.execStatus args sr n s
  | .hostPost args => Sys2Proof.Machine.execHostPost args s
  | .hostTake args => Sys2Proof.Machine.execHostTake args s
  | .ringrst args => Sys2Proof.Machine.execRingrst args s
  | .fusewr args mv => Sys2Proof.Machine.execFusewr args mv s
  | .fuseWriteComplete back => Sys2Proof.Machine.execFuseWriteComplete back s
  | .fawn via => Sys2Proof.Machine.execFawn via s
  | .fawnexit args => Sys2Proof.Machine.execFawnexit args s
  | .hostNotify recov ev => Sys2Proof.Machine.execHostNotify recov ev s
  | .notifyArbRetry recov ev => Sys2Proof.Machine.execNotifyArbRetry recov ev s
  | .startInAckSlot c => Sys2Proof.Machine.execStartInAckSlot c s
  | .targetTimeout code => Sys2Proof.Machine.execTargetTimeout code s
  | .hstNsetWrite v => Sys2Proof.Machine.execHstNsetWrite v s
  | .watchdogKeyWrite v => Sys2Proof.Machine.execWatchdogKeyWrite v s
  | .watchdogService v => Sys2Proof.Machine.execWatchdogService v s
  | .watchdogCheckin who k => Sys2Proof.Machine.execWatchdogCheckin who k s
  | .watchdogConfigWrite task v => Sys2Proof.Machine.execWatchdogConfigWrite task v s
  | .escalationWindowClose src => Sys2Proof.Machine.execEscalationWindowClose src s
  | .fenceRelease who v => Sys2Proof.Machine.execFenceRelease who v s
  | .faultConfigWrite src v => Sys2Proof.Machine.execFaultConfigWrite src v s
  | .faultInjectionArm v => Sys2Proof.Machine.execFaultInjectionArm v s
  | .logSelect slot => Sys2Proof.Machine.execLogSelect slot s
  | .logPut who v => Sys2Proof.Machine.execLogPut who v s
  | .timerReload n => Sys2Proof.Machine.execTimerReload n s
  | .timerMatch n => Sys2Proof.Machine.execTimerMatch n s
  | .timerCapture n rising gap => Sys2Proof.Machine.execTimerCapture n rising gap s
  | .tioStuck n => Sys2Proof.Machine.execTioStuck n s
  | .timerCounterWrite n v => Sys2Proof.Machine.execTimerCounterWrite n v s
  | .timerCompareWrite n v => Sys2Proof.Machine.execTimerCompareWrite n v s
  | .timerPeriodWrite n v => Sys2Proof.Machine.execTimerPeriodWrite n v s
  | .timerCaptureRead n => Sys2Proof.Machine.execTimerCaptureRead n s
  | .timerStaggerLoad mask => Sys2Proof.Machine.execTimerStaggerLoad mask s
  | .registerWrite who a size v => Sys2Proof.Machine.execRegisterWrite who a size v s
  | .countEdge n gate gap => Sys2Proof.Machine.execCountEdge n gate gap s
  | .thHardTrip die => Sys2Proof.Machine.execThHardTrip die s
  | .notifyClockTimeout recov => Sys2Proof.Machine.execNotifyClockTimeout recov s
  | .nop => Sys2Proof.Machine.execNop s
  | .impSweep => Sys2Proof.Machine.execImpSweep s
  | .crcScan => Sys2Proof.Machine.execCrcScan s
  | .lnkSend => Sys2Proof.Machine.execLnkSend s
  | .lnkRecv => Sys2Proof.Machine.execLnkRecv s
  | .scrubLine => Sys2Proof.Machine.execScrubLine s
  | .armVerifyDone => Sys2Proof.Machine.execArmVerifyDone s
  | .bankSwap => Sys2Proof.Machine.execBankSwap s
  | .checkWindowClose => Sys2Proof.Machine.execCheckWindowClose s
  | .imageRecovery => Sys2Proof.Machine.execImageRecovery s
  | .budgetRecord => Sys2Proof.Machine.execBudgetRecord s
  | .rollcall => Sys2Proof.Machine.execRollcall s
  | .messageTimeout => Sys2Proof.Machine.execMessageTimeout s
  | .claimStart => Sys2Proof.Machine.execClaimStart s
  | .beaconLoss => Sys2Proof.Machine.execBeaconLoss s
  | .claimAfterLoss => Sys2Proof.Machine.execClaimAfterLoss s
  | .leadHeaderLoss => Sys2Proof.Machine.execLeadHeaderLoss s
  | .linkRollRequest => Sys2Proof.Machine.execLinkRollRequest s
  | .fawnExit => Sys2Proof.Machine.execFawnExit s
  | .hostNotifyRepeat => Sys2Proof.Machine.execHostNotifyRepeat s
  | .watchdogStart => Sys2Proof.Machine.execWatchdogStart s
  | .openWindowClose => Sys2Proof.Machine.execOpenWindowClose s
  | .watchdogExpiry => Sys2Proof.Machine.execWatchdogExpiry s
  | .thStopRelease => Sys2Proof.Machine.execThStopRelease s
  | .thHardRelease => Sys2Proof.Machine.execThHardRelease s
  | .logClear => Sys2Proof.Machine.execLogClear s
  | .wakePressEnd => Sys2Proof.Machine.execWakePressEnd s
  | .errToggle => Sys2Proof.Machine.execErrToggle s
  | .vdrvBackInBand => Sys2Proof.Machine.execVdrvBackInBand s
  | .aoRetentionLoss => Sys2Proof.Machine.execAoRetentionLoss s
  | .goodcrcReceived => Sys2Proof.Machine.execGoodcrcReceived s

end Sys2Proof.Machine
end

