-- ==== Sys2Proof/Safety.lean ====
section
/-!
DEFINITION. What a legal state of the part is, and the conditions on a state that the statements use.
-/

namespace Sys2Proof.Machine

open Sys2Proof

/-- What every step keeps: shared RAM and the program store in canonical form (R47, R398), the frame index in its superframe
of 50 frames (R13), the sub-frame tick in its frame of 2,000 ticks (R12), at most 256 log entries (R537) and 16 history
entries (R536), and no tag in use twice (R390). -/
structure LegalBlock (s : Block) : Prop where
  ram : ramWf s.mem = true
  store : cellsWf none s.store.bytes = true
  index : s.clk.fidx < 50
  tick : s.clk.sft < 2000
  log : s.flt.log.length ≤ 256
  hist : s.flt.hist.length ≤ 16
  tags : (s.rng.tags.map (fun t => t.tag)).Nodup

/-- The part is legal, and so is what the watchdog's record of a clock may give back (R501). -/
structure Legal (s : State) : Prop extends LegalBlock s.toBlock where
  back : ∀ b, s.wback = some b → LegalBlock b.was

/-- No event and no log entry of an earlier command is left to be handled. -/
abbrev Quiet (s : State) : Prop := s.evq = [] ∧ s.logq = []

/-- VCC is valid, and nothing is left from an earlier command. -/
abbrev Ready (s : State) : Prop := vccOn s = true ∧ Quiet s

/-- No source has a reaction above notify, neither as its first reaction nor when severe (R525). -/
abbrev Mild (s : State) : Prop := ∀ n < 64, fld (FLT_CFG_REACT n) s ≤ 1 ∧ fld (FLT_CFG_SEVR n) s ≤ 1

/-- From `s` to `t` at most the fields in `F` differ: every field that shares no bit with one of them reads as before. A whole
register is its field [31:0]. -/
def FieldsBut (F : List Fld) (s t : State) : Prop :=
  ∀ g : Fld, (∀ f ∈ F, g.addr ≠ f.addr ∨ f.hi < g.lo ∨ g.hi < f.lo) → fld g t = fld g s

/-- The operation of tag `k` is DONE: its completion has been written to its ring (R384, R390). -/
def Done (k : Nat) (t : State) : Prop := ∃ r ∈ t.rng.tags, r.tag = k ∧ r.st = .done

/-- Unit `u` runs the operation `r`, and its ring has not been reset meanwhile (R390). -/
def Runs (u : Nat) (r : TagRec) (s : State) : Prop := unitOp u s = some r ∧ r.st = .running

/-- What the ring unit has noted of its coincidences lies before clock `c` (R396). -/
def RingsBefore (c : Nat) (s : State) : Prop :=
  (∀ r ∈ s.rng.same.cfgs, r.clk < c) ∧ (∀ r ∈ s.rng.same.ends, r.clk < c) ∧ (∀ p ∈ s.rng.same.posted, p.2 < c) ∧
    ∀ p ∈ s.rng.same.freed, p.2.1 < c

/-- Is tag `k` in use (R390)? -/
def TagUsed (k : Nat) (s : State) : Prop := ∃ r ∈ s.rng.tags, r.tag = k

/-- Tag `k` is the lowest FREE tag (R391). -/
def LowestFree (k : Nat) (s : State) : Prop := k < 128 ∧ ¬TagUsed k s ∧ ∀ j < k, TagUsed j s

/-- `who` writes the register at `a` now: the host outside its reduced page (R474), in Fawn mode only where R484 lets it, or an engine
that executes and has rights there (R43). -/
abbrev Writes (who : Option EngId) (a : Nat) (s : State) : Prop :=
  match who with
  | none => s.sup.power = .on ∧ (inFawn s = true → fawnWritable a = true)
  | some e => (getEng e s).phase = .running ∧ engRights e a = true

/-- The register at `a` as a field. -/
abbrev whole (a : Nat) : Fld := ⟨a, 31, 0⟩

/-- The registers whose write does more than R8 and a clamp, or other than that: its own rule says what. -/
def ownEffect (a : Nat) : Bool :=
  isBuffer a ||
  [GLB_CLKSTAT, GLB_SHIP, GLB_PSARM, PWR_PHSTAT, CHG_CMD, CHG_LAMP, PKP_OWN, PKP_RTEMP, PKP_SEQCTL 0, PKP_SEQCTL 1, PKP_SEQTX 0,
    PKP_SEQTX 1, IMP_CTL, TMR_STAG, WDG_CTL, WDG_KEY, WDG_PER, WDG_TASK, WDG_ANS, WDG_CHKIN, WDG_RCNT].contains a ||
  [FLT_CMD, FLT_PEND0, FLT_PEND1, FLT_SEV0, FLT_SEV1, FLT_FREL, FLT_INJ, LOG_CTL, LOG_SEL, LOG_PUT, HST_NPEND, HST_NSET, LNK_CTL,
    LNK_ADDR, TCP_TXCMD, RNG_QUOTA0, RNG_QUOTA1].contains a ||
  (decide (0x1600 ≤ a) && decide (a < 0x1700) && [0x00, 0x04, 0x0C, 0x10, 0x18].contains (a % 0x20)) ||
  (decide (FLT_SEVRT 0 ≤ a) && decide (a ≤ FLT_SEVRT 7)) || (decide (FLT_CFG 0 ≤ a) && decide (a < 0x1C00)) ||
  (decide (0x2400 ≤ a) && decide (a < 0x2480)) || (decide (0x2500 ≤ a) && decide (a < 0x2700) && a % 16 == 0)

/-- `x` is what the register at `a`, of row `r`, takes from a write of `v`: its RW and RWL bits that no lock has frozen take the
written bits, a 1 clears a W1C bit, and the other bits stay (R8). -/
def Taken (r : RegRow) (a v : Nat) (s : State) (x : Nat) : Prop :=
  x < 2 ^ 32 ∧ ∀ i, bitOf x i = ((if bitOf (openMask r s) i then bitOf v i else bitOf (rd a s) i) && !(bitOf v i && bitOf r.w1c i))

/-! ## Engines -/

/-- Engine `e` executes an instruction now: it runs, with cycles left in its frame, its pc is in its code region and in a line
buffer that holds a good line, and nothing is left from an earlier command. -/
abbrev Fetched (e : EngId) (s : State) : Prop :=
  canRun e s = true ∧ pcOk (getEng e s) = true ∧ (∃ l ∈ (getEng e s).lines, l.1 = (getEng e s).pc.toNat / 64) ∧
    lineBad (getEng e s) ((getEng e s).pc.toNat / 64) = false ∧ Quiet s

/-- `s` at the sub-frame tick of the engine's next cycle, which may be later than that of the last command. -/
def atTick (e : EngId) (s : State) : State :=
  { s with clk := { s.clk with sft := max s.clk.sft (engTickNow (getEng e s)) } }

/-- Flags: those listed take their values, the others stay. -/
def FlagsAre (fl : List (Nat × Bool)) (o o' : Eng) : Prop :=
  ∀ i, bitOf o'.flags i = ((fl.find? (fun p => p.1 == i)).map (fun p => p.2)).getD (bitOf o.flags i)

/-- From `s` to `t` the engine's register `d` takes `v` (x0 stays 0), its flags are as listed, its pc is the next word's, and
`n` cycles are used; nothing else of the engine changes. -/
def Gives (e : EngId) (d : Nat) (v : Word) (fl : List (Nat × Bool)) (n : Nat) (s t : State) : Prop :=
  let o := getEng e s
  let o' := getEng e t
  o' = { o with x := o'.x, flags := o'.flags, pc := o.pc + 4, cyc := o.cyc + n } ∧
    (∀ r < 16, xr o' r = if r = d ∧ d ≠ 0 then v else xr o r) ∧ FlagsAre fl o o'

/-- The instruction `i` of engine `e` completes with its result `v` in register `d`: nothing outside the engine changes. -/
def Completes (e : EngId) (i : Instr) (d : Nat) (v : Word) (fl : List (Nat × Bool)) (n : Nat) (s : State) : Prop :=
  ∃ t, exec i s = .next t ∧ Gives e d v fl n s t ∧ t = putEng e (getEng e t) (atTick e s)

/-- The instruction leaves the engine as `o`, and nothing outside the engine changes. -/
def Leaves (e : EngId) (i : Instr) (o : Eng) (s : State) : Prop := exec i s = .next (putEng e o (atTick e s))

/-- The engine after taking an exception with no handler running and a vector set (R371). -/
def trapped (cause : Nat) (bad epc : Half) (n : Nat) (o : Eng) : Eng :=
  { o with
    epc := epc, cause := cause, statCause := cause, bad := bad, exh := true, excEvt := true
    pc := BitVec.ofNat 16 o.vec, cyc := o.cyc + n + jumpCost o o.vec, excAt := some (o.cyc + n + jumpCost o o.vec) }

/-- The word of shared RAM at `a` is good, and no error is armed for its next check (R351, R542). -/
abbrev CleanAt (a : Nat) (s : State) : Prop := ramErrAt (a / 4 * 4) s = 0 ∧ flag FLT_INJ_ARM s = false

/-- What an expiry of the watchdog in `s` leaves in `t`, where it is not the third within 10 s and no check window is open (R501, R502): the
event with the tasks that had not checked in, the marks, the next question, a first period, and no engine that is not fenced runs. -/
def WdgExpired (s t : State) : Prop :=
  ⟨srcWdgExp, 3, none, wdgMissing s⟩ ∈ t.evq ∧ flag WDG_STAT_EXPEVT t = true ∧ fld WDG_ERR_LASTMISS t = wdgMissing s ∧
  flag GLB_RSTCAUSE_WDG t = true ∧ fld WDG_RCNT_COUNT t = min (fmax WDG_RCNT_COUNT) (fld WDG_RCNT_COUNT s + 1) ∧
  fld WDG_Q_Q t = wdgNextQ (fld WDG_Q_Q s) ∧ t.wdg.exps = nowUs s :: wdgExps s ∧ t.wdg.start = nowUs s ∧
  t.wdg.endAt = some (clockNow s) ∧ flag WDG_STAT_OPEN t = true ∧ fld WDG_STAT_BADCNT t = 0 ∧ fld WDG_CHKD_MASK t = 0 ∧
  (∀ e, (getEng e s).phase ≠ .fenced → (getEng e t).phase = .waiting ∨ (getEng e t).phase = .notStarted) ∧
  (∀ e, (getEng e s).phase = .fenced → (getEng e t).phase = .fenced)

end Sys2Proof.Machine
end

