-- ==== Sys2Proof/Certificates/Slice0/Obligations.lean ====
section
/-!
DEFINITION. The statements for the provers. A command's own effect gives a state `t`; the collector then takes the events and log
entries that it raised, so the next state is `settle t` (R519), and `t` itself where there are none (`Ready`).
-/

open Sys2Proof Sys2Proof.Machine

/-! ## The machine -/

/-- A step takes the command at the front of the queue. -/
def Obligations.StepTakesFront : Prop :=
  ∀ (c : Instr) (rest : List Instr) (s : State), step { s with pending := c :: rest } = exec c { s with pending := rest }

/-- With no command waiting a step moves the sub-frame tick on by one, ten on the backup oscillator, up to the last of its frame, once
frames run; the model's own choice (log entry 2). -/
def Obligations.StepIdles : Prop :=
  ∀ s : State, s.pending = [] →
    step s = .next (if s.clk.running then
      { s with clk := { s.clk with sft := min 1999 (s.clk.sft + if s.clk.bkosc then 10 else 1) } } else s)

/-- No command ends in a fault or a refusal: every command answers a next state.
No command changes the queue behind it. The model's choices: no command has a fault or a refusal (log entry 7), and a command out of
place or with operands out of range still answers a next state (log entries 10, 12). -/
def Obligations.CommandsAnswerNext : Prop :=
  (∀ (c : Instr) (s : State), ∃ t, exec c s = .next t) ∧
  (∀ (c : Instr) (s t : State), exec c s = .next t → t.pending = s.pending)

/-- Every step from a legal state leads to a legal state: shared RAM and the program store in canonical form, the frame index and
the sub-frame tick in their ranges, the log and the history in their lengths, no tag used twice, and the same of what the watchdog's
record of a clock would give back (the model's record: log entries 158, 216). -/
def Obligations.StepKeepsLegal : Prop := ∀ s t : State, Legal s → step s = .next t → Legal t

/-- The state after reset is legal.
After reset, the AO island just powered: no frame has run, no engine has started, no tag is in use, shared RAM reads 0, no
event is logged, and no phase is active. Which state is State.reset is the model's choice (log entry 6), as are an empty program store
(log entry 5) and the idle values of what is no register (log entry 3). -/
def Obligations.ResetState : Prop :=
  (Legal State.reset) ∧
  (let s := State.reset
   vccOn s = false ∧ s.clk.running = false ∧ s.clk.frm = 0 ∧ s.clk.fidx = 0 ∧
     (∀ e : EngId, (getEng e s).phase = .notStarted) ∧ s.rng.tags = [] ∧ freeTags s = 128 ∧ (∀ a, ramByte a s = 0) ∧
     s.flt.log = [] ∧ rd FLT_PEND0 s = 0 ∧ rd FLT_PEND1 s = 0 ∧ rd FLT_FENCE s = 0 ∧ inFawn s = false ∧ nAct s = 0 ∧
     s.pending = [] ∧ s.marks = [])

/-- FRM and the frame index move only at a frame tick, and at the commands that take VCC away or bring it.
Only the completion of a fuse write changes a stored fuse. That a fuse write which still runs when VCC is lost or comes again is dropped, so that
its field keeps what it held, is the model's choice (log entry 173). -/
def Obligations.OnlyRowsThatMay : Prop :=
  (∀ (c : Instr) (s t : State), (∀ o, c ≠ .frameTick o) → (∀ o, c ≠ .vccPowerOn o) → (∀ a, c ≠ .vccLoss a) →
     c ≠ .aoRetentionLoss → exec c s = .next t → t.clk.frm = s.clk.frm ∧ t.clk.fidx = s.clk.fidx) ∧
  (∀ (c : Instr) (s t : State), (∀ b, c ≠ .fuseWriteComplete b) → exec c s = .next t → t.sup.fuses = s.sup.fuses)

/-- The words of the engines: the word that encodes an instruction decodes to it on its engine, and a word that decodes is the
only word of its instruction. -/
def Obligations.RauraRoundTrip : Prop :=
  (∀ (i : Instr) (e : EngId) (w : Word), encodeRaura i = some (e, w) → decodeRaura e w = some i) ∧
  (∀ (i : Instr) (e : EngId) (w : Word), decodeRaura e w = some i → encodeRaura i = some (e, w))

/-- Words written out from the encoding tables decode to their instructions. -/
def Obligations.RauraWords : Prop :=
  ∀ e : EngId,
    decodeRaura e 0b000001_0111_0010_0011_00000000000001#32 = some (.alu e 0b0111_0010_0011_00000000000001#26) ∧
    decodeRaura e 0b001010_1010_0000_000000001111101000#32 = some (.li e 0b1010_0000_000000001111101000#26) ∧
    decodeRaura e 0b011001_0000_0110_1001_00000000010000#32 = some (.sth e 0b0000_0110_1001_00000000010000#26) ∧
    decodeRaura e 0b100001_0001_0000_111111111111111111#32 = some (.bf e 0b0001_0000_111111111111111111#26) ∧
    decodeRaura e 0b101000_00000000000000000000000000#32 = some (.yield e 0) ∧
    decodeRaura e 0b110110_1001_0100_0000_00000000000000#32 = some (.divag e 0b1001_0100_0000_00000000000000#26) ∧
    decodeRaura e 0b111010_0010_0001_0000_00000000011111#32 = some (.cbit e 0b0010_0001_0000_00000000011111#26) ∧
    decodeRaura e 0 = none ∧ decodeRaura e 0b001101_00000000000000000000000000#32 = none

/-- The collector takes one event of a source whose reactions are at most notify: the source's pending bit is set; the first in
its superframe makes a history entry, any other counts in MERGED; class C of a source that is not severe notifies nobody, and a
reaction of notify reaches the host. -/
def Obligations.EventCollected : Prop :=
  ∀ (e : FEv) (s : State), s.evq = [e] → s.logq = [] → e.src < 37 → e.cls < 4 → (∀ u, e.unit = some u → u < 16) → Mild s →
    let t := settle s
    flag (pendBit e.src) t = true ∧ t.evq = [] ∧ t.logq = [] ∧
    (e.src ∉ s.flt.seenSf → e.src ∈ t.flt.seenSf ∧ ∃ a, t.flt.hist = ((a, s.clk.frm) :: s.flt.hist).take 16 ∧
      a.toNat / 2 ^ 26 = e.src ∧ a.toNat / 2 ^ 24 % 4 = e.cls ∧ a.toNat / 2 ^ 16 % 16 = e.unit.getD 15 ∧
      a.toNat % 2 ^ 16 = e.det % 2 ^ 16) ∧
    (e.src ∈ s.flt.seenSf → flag (sevBit e.src) t = flag (sevBit e.src) s →
      t.flt.hist = s.flt.hist ∧ t.flt.log = s.flt.log ∧ fld FLT_STAT_MERGED t = min (fmax FLT_STAT_MERGED) (fld FLT_STAT_MERGED s + 1)) ∧
    (e.cls = 1 → flag (sevBit e.src) t = false → fld ⟨HST_NPEND, 0, 0⟩ t = fld ⟨HST_NPEND, 0, 0⟩ s) ∧
    (e.cls ≠ 1 → fld (FLT_CFG_REACT e.src) s = 1 → e.src ∉ [9, 26, 31, 33] →
      flag ⟨HST_NPEND, 0, 0⟩ t = true ∧ flag FLT_STAT_NOTEVT t = true) ∧
    FieldsBut [pendBit e.src, sevBit e.src, sevNibble e.src, FLT_STAT_SEVEVT, FLT_STAT_MERGED, FLT_STAT_NOTEVT, ⟨HST_NPEND, 0, 0⟩,
      LOG_STAT_LOSTC, LOG_STAT_FULL, LOG_STAT_NEXT, whole LOG_WCNT] s t ∧
    t = { s with
      regs := t.regs, evq := [], logq := []
      sup := if s.sup.errSwap && errCond t then { s.sup with errSwap := false } else s.sup
      flt := { s.flt with
        wins := t.flt.wins, seenSf := t.flt.seenSf, hist := t.flt.hist, log := t.flt.log, last := t.flt.last } }

/-- The entry of a completion: 16 bytes at CWR of its ring with the operation's OP and user word, its code, tag and FRM; the tag is
DONE and CWR moves on; a completion into a host ring is notified. -/
def Obligations.CompletionEntry : Prop :=
  ∀ (r : TagRec) (code detail res : Nat) (s : State), Legal s → r ∈ s.rng.tags → r.st ≠ .orphan → r.ent.length = 16 → code < 256 →
    r.tag < 128 → r.ring < 32 →
    let a := ringBase r.ring s + 16 * (ringPtr r.ring s).1
    ramLo ≤ a → a + 16 ≤ ramHi + 1 → a % 4 = 0 →
    let t := complete r.tag code detail res s
    ramBytes a 16 t = [r.ent.getD 0 0, BitVec.ofNat 8 code, BitVec.ofNat 8 r.tag, if code = 0 then BitVec.ofNat 8 detail else 0]
        ++ (r.ent.drop 4).take 4 ++ leBytes 4 (if code = 0 then res else 0) ++ leBytes 4 s.clk.frm.toNat ∧
      (∀ x, x < a ∨ a + 16 ≤ x → ramByte x t = ramByte x s) ∧
      t.rng.tags = s.rng.tags.map (fun x => if x.tag = r.tag then { x with st := .done, slot := (ringPtr r.ring s).1 } else x) ∧
      ringPtr r.ring t = (((ringPtr r.ring s).1 + 1) % ringDepth r.ring s, (ringPtr r.ring s).2) ∧
      (16 ≤ r.ring → r.ring < 24 → flag ⟨HST_NPEND, 1, 1⟩ t = true) ∧
      FieldsBut [RNG_CNT_REFUSED, ⟨HST_NPEND, 1, 1⟩] s t ∧
      t = { s with regs := t.regs, mem := t.mem, ramErr := t.ramErr, rng := { s.rng with tags := t.rng.tags, ptr := t.rng.ptr, same := { s.rng.same with ends := t.rng.same.ends } } }

/-- At a frame tick at which no parity fails, a set point that is due takes its shadow, clamped to its range; one that is not keeps its
live value. A clamp leaves the shadow as written (the model's choice, log entry 84). -/
def Obligations.SetPointsGoLive : Prop :=
  ∀ (o : FrameObs) (s : State), vccOn s = true → s.flt.parBad = [] → ∃ t, exec (.frameTick o) s = .next t ∧
    (∀ a, isSH a = true → a ∈ dueSets s → lrd a t = clampSet a (rd a s) s % 2 ^ 32) ∧
    (∀ a, a ∉ dueSets s → lrd a t = lrd a s) ∧
    (PWR_FSW ∈ dueSets s → 2 ≤ lfld PWR_FSW_M t ∧ lfld PWR_FSW_M t ≤ 8) ∧
    (CHG_VSET ∈ dueSets s → bitsOf (lrd CHG_VSET t) 16 0 ≤ 86000) ∧
    (∀ m ∈ s.marks, m ∈ t.marks ↔ (m.2 = false ∧ (getEng (shOwner m.1) s).yielded = false)) ∧
    (∀ a, isSH a = true → rd a t = rd a s)

/-! ## Frames and clocks -/

/-- A frame tick advances FRM and the frame index by one; a frame adopted from the lead takes the lead's count; the first frame of
a power-on is frame 0 at index 0. Where no parity fails, a tick stalls every engine that ran or yielded, counts and raises the
overrun of each that has not yielded in a frame it was released in (R28), takes the cycles it used, and clears its yield (R26,
R377); the idle count restarts where CSQ or HSQ has yielded and else counts (R31); a timer that resets at the tick reads 0, one
clocked by the tick takes a source edge through its prescaler, any other stands (R545, R546, R549); a lead takes at a superframe
boundary the timing it announced and the smallest cadence that meets the length rule (R452, R453). The release at sub-frame tick
200 lets every engine that stalls or waits run, but those started by the host or a fence release in this frame; the boundary row
runs once, with what each safety timer in force adds (R269) and the graze level of the closing superframe's group maximum (R512);
500 frames without a YIELD of CSQ and HSQ enter Fawn mode with cause 0x6. The clock monitor: a count more than 3 % off raises
CLK_MON of class U, more than 5 % off moves the part to the backup oscillator with CLKFAIL and Fawn mode of cause 0x7; a failure
of the HFO does the same, and on the backup oscillator declares it again unless CLKFAIL and Fawn mode both stand. XI's presence is
shown. The model's readings: a count more than 5 % off acts as a failure of the HFO, and a second failure is declared again (log entry
89); the cycles that ENG_CYC shows and which engines overrun (log entry 86); the phase of an engine between the tick and the release
(log entry 87). -/
def Obligations.FrameAndClockRows : Prop :=
  (∀ (o : FrameObs) (s : State),
     (s.sup.power = .on → s.lnk.adopt = none →
       ∃ t, exec (.frameTick o) s = .next t ∧ t.clk.frm = s.clk.frm + 1 ∧ t.clk.fidx = (s.clk.fidx + 1) % 50) ∧
     (∀ f i, s.sup.power = .on → s.lnk.adopt = some (f, i) →
       ∃ t, exec (.frameTick o) s = .next t ∧ t.clk.frm = f + 1 ∧ t.clk.fidx = (i + 1) % 50) ∧
     (s.sup.power = .starting → ∃ t, exec (.frameTick o) s = .next t ∧ t.clk.frm = 0 ∧ t.clk.fidx = 0) ∧
     (s.sup.power = .on → s.flt.parBad = [] → ∃ t, exec (.frameTick o) s = .next (settle t) ∧
       (∀ e : EngId, let x := getEng e s; let y := getEng e t
         y.phase = (if x.phase = .running ∨ x.phase = .yielded then .stalled else x.phase) ∧ y.yielded = false ∧ y.cyc = 0 ∧
         y.cycLast = (if x.released = true ∧ x.yielded = true then min 1800 (max 1 x.cyc) else 0xFFFF) ∧
         y.ovr = (if hasOverrun e s then (x.ovr + 1) % 2 ^ 32 else x.ovr) ∧
         y.x = x.x ∧ y.pc = x.pc ∧ y.flags = x.flags ∧ y.acc = x.acc ∧
         (hasOverrun e s = true → (⟨srcOvr e, 2, some (engNo e), y.ovr % 65536⟩ : FEv) ∈ t.evq)) ∧
       fld GLB_IDLEFR_COUNT t = (if (getEng .csq s).yielded || (getEng .hsq s).yielded then 0
         else min (fmax GLB_IDLEFR_COUNT) (fld GLB_IDLEFR_COUNT s + 1)) ∧
       (∀ n : Nat, n < 8 → let c := rd (TMR_CNT n) s; let edge := fld (TMR_PRE_DIV n) s ≤ (tmrCh n s).acc + 256
         (tmrRuns n s = false → rd (TMR_CNT n) t = c) ∧
         (tmrRuns n s = true → flag (TMR_CFG_RSTF n) s = true → rd (TMR_CNT n) t = 0) ∧
         (tmrRuns n s = true → flag (TMR_CFG_RSTF n) s = false → fld (TMR_CFG_CLK n) s ≠ 1 → rd (TMR_CNT n) t = c) ∧
         (tmrRuns n s = true → flag (TMR_CFG_RSTF n) s = false → fld (TMR_CFG_CLK n) s = 1 → flag (TMR_CFG_GATE n) s = false →
           rd (TMR_CNT n) t = (if ¬edge then c else if rd (TMR_PER n) s ≤ c then 0 else c + 1) ∧
           (tmrCh n t).acc = (if edge then (tmrCh n s).acc + 256 - fld (TMR_PRE_DIV n) s else (tmrCh n s).acc + 256))) ∧
       (lnkRole s = 4 → s.lnk.adopt = none → (s.clk.fidx + 1) % 50 = 0 → flag LNK_STAT_DBL t = s.lnk.dblNext ∧
         t.lnk.cad = cadence s.lnk.nRet s.lnk.dblNext ∧ (t.lnk.cad ≠ s.lnk.cad → t.lnk.cph = 0)))) ∧
  (∀ s : State, Ready s →
     (s.clk.running = true → ∃ t, exec .engineRelease s = .next t ∧
       (∀ e : EngId, getEng e t =
         if (getEng e s).phase = .stalled ∨ (getEng e s).phase = .waiting ∧ engNo e ∉ s.flt.relEng then
           { getEng e s with phase := .running, released := true, cyc := 0 } else getEng e s) ∧
       t = { s with clk := { s.clk with sft := max 200 s.clk.sft }, engs := t.engs }) ∧
     (s.clk.running = false → exec .engineRelease s = .next s) ∧
     (s.clk.sfDue = true → ∃ t, exec .superframeBoundary s = .next (settle t) ∧
       t.clk = { s.clk with sfDue := false, shortSf := false } ∧ t.engs = s.engs ∧ t.mem = s.mem ∧
       (let r := if sfHalf s then 1 else 2
        rd CHG_TPRE t = (rd CHG_TPRE s + if s.chg.sPre then r else 0) % 2 ^ 32 ∧
        rd CHG_TFAST t = (rd CHG_TFAST s + if s.chg.sFast then r else 0) % 2 ^ 32 ∧
        rd CHG_TTOP t = (rd CHG_TTOP s + if s.chg.sTop then 2 else 0) % 2 ^ 32) ∧
       (let target := match s.thm.gSeen with
          | none => 0
          | some g =>
            if g < (fld THM_GRAZE_TGS s * 8 : Nat) then 0
            else min 45 ((g - (fld THM_GRAZE_TGS s * 8 : Nat)).toNat / max 1 (fld THM_GRAZE_GSTEP s) + 1)
        let old := fld THM_GLVL_G s
        fld THM_GLVL_TARGET t = target ∧
        fld THM_GLVL_G t = max (if old ≤ target then target else max target (old - fld THM_GRAZE_GDEC s)) (fld THM_GRAZE_GMIN s))) ∧
     (s.clk.sfDue = false → exec .superframeBoundary s = .next s) ∧
     (500 ≤ fld GLB_IDLEFR_COUNT s → inFawn s = false → exec .idleFramesFawn s = .next (settle (fawnEnter 6 0xFF s))) ∧
     (fld GLB_IDLEFR_COUNT s < 500 → exec .idleFramesFawn s = .next s)) ∧
  (∀ s : State,
     (∀ n : Nat, vccOn s = true → (195313 - n) * 100 > 195313 * 3 ∨ (n - 195313) * 100 > 195313 * 3 →
       (195313 - n) * 100 ≤ 195313 * 5 → (n - 195313) * 100 ≤ 195313 * 5 →
       exec (.clockMonitorCheck n) s = .next (settle { s with
         clk := { s.clk with hfoOkSince := none }, evq := s.evq ++ [⟨srcClkMon, 2, none, 0⟩] })) ∧
     (∀ n : Nat, vccOn s = true → (195313 - n) * 100 > 195313 * 5 ∨ (n - 195313) * 100 > 195313 * 5 →
       exec (.clockMonitorCheck n) s = exec .hfoFailed { s with
         clk := { s.clk with hfoOkSince := none }, evq := s.evq ++ [⟨srcClkMon, 2, none, 0⟩] }) ∧
     (∀ n : Nat, Ready s → (195313 - n) * 100 ≤ 195313 * 3 → (n - 195313) * 100 ≤ 195313 * 3 →
       flag GLB_CLKSTAT_CLKFAIL s = false → exec (.clockMonitorCheck n) s = .next s) ∧
     (∀ n : Nat, Ready s → (195313 - n) * 100 ≤ 195313 * 3 → (n - 195313) * 100 ≤ 195313 * 3 →
       flag GLB_CLKSTAT_CLKFAIL s = true → s.clk.hfoOkSince = none →
       exec (.clockMonitorCheck n) s = .next { s with clk := { s.clk with hfoOkSince := some (nowUs s) } }) ∧
     (vccOn s = true → s.clk.bkosc = false → ∃ u, exec .hfoFailed s = .next (settle (fawnEnter 7 0xFF u)) ∧
       u.clk = { s.clk with bkosc := true, hfoOkSince := none } ∧ flag GLB_CLKSTAT_CLKFAIL u = true ∧ u.engs = s.engs) ∧
     (Ready s → s.clk.bkosc = true → flag GLB_CLKSTAT_CLKFAIL s = true → inFawn s = true →
       exec .hfoFailed s = .next { s with clk := { s.clk with hfoOkSince := none } }) ∧
     (vccOn s = true → s.clk.bkosc = true → flag GLB_CLKSTAT_CLKFAIL s = false ∨ inFawn s = false →
       exec .hfoFailed s = .next (settle (fawnEnter 7 0xFF (setF GLB_CLKSTAT_CLKFAIL 1
         { s with clk := { s.clk with hfoOkSince := none } })))) ∧
     (∀ p : Bool, vccOn s = true → ∃ t, exec (.xiStatusChange p) s = .next (settle t) ∧ t.clk.xi = p ∧
       flag GLB_CLKSTAT_XIOK t = p ∧ t.engs = s.engs ∧ t.clk = { s.clk with xi := p }))

/-- Entry to Fawn mode: the mode, its cause and its source are recorded and logged, every engine that runs is halted with cause
0x0B, and the host is notified; an entry while in Fawn mode is logged and changes nothing else, but for one in the clock of an
accepted exit, which withdraws the exit and is recorded. That 'in the same clock' is the same sub-frame tick of the block's time is the
model's reading (log entry 145). -/
def Obligations.FawnEntry : Prop :=
  ∀ (cause src : Nat) (s : State), cause < 16 → src < 256 →
    (inFawn s = true → s.flt.exitReq = false ∨ s.flt.exitAt ≠ clockNow s → fawnEnter cause src s = { s with
      flt := { s.flt with causeAt := some (clockNow s, cause, src) }
      logq := s.logq ++ [⟨nowUs s % 2 ^ 48, 4, 3, s.clk.frm, BitVec.ofNat 32 (cause + 256 * src)⟩] }) ∧
    (inFawn s = true → s.flt.exitReq = true → s.flt.exitAt = clockNow s → let t := fawnEnter cause src s
      inFawn t = true ∧ fld FLT_FAWN_CAUSE t = cause ∧ fld FLT_FAWN_SRC t = src ∧ FieldsBut [FLT_FAWN_CAUSE, FLT_FAWN_SRC] s t ∧
      t = { s with
        regs := t.regs, flt := { s.flt with exitReq := false, causeAt := some (clockNow s, cause, src) }
        logq := s.logq ++ [⟨nowUs s % 2 ^ 48, 4, 3, s.clk.frm, BitVec.ofNat 32 (cause + 256 * src)⟩] }) ∧
    (inFawn s = false → let t := fawnEnter cause src s
      inFawn t = true ∧ fld FLT_FAWN_CAUSE t = cause ∧ fld FLT_FAWN_SRC t = src ∧ flag ⟨HST_NPEND, 3, 3⟩ t = true ∧
      t.sup.hsqLive = false ∧ t.flt.exitReq = false ∧ t.flt.causeAt = some (clockNow s, cause, src) ∧
      (⟨nowUs s % 2 ^ 48, 4, 1, s.clk.frm, BitVec.ofNat 32 (cause + 256 * src)⟩ : LogEnt) ∈ t.logq ∧
      (∀ e : EngId, (getEng e s).phase ∉ [.notStarted, .halted, .fenced] →
        (getEng e t).phase = .halted ∧ (getEng e t).statCause = 0xB ∧ (getEng e t).bad = 0 ∧
        (getEng e t).x = (getEng e s).x ∧ (getEng e t).pc = (getEng e s).pc) ∧
      (∀ e : EngId, (getEng e s).phase = .notStarted → getEng e t = getEng e s) ∧ t.clk = s.clk)

/-- The host halts an engine with cause 0x0A; right after an exception entry, before the handler's first instruction, CAUSE and
BADADDR go on describing the exception (R376). One that is not started or is halted stays so, a fenced one records the cause (R543).
During a check window the halt of an engine with a non-zero ENTRY fails the window (R420). The host resets one that is not fenced
outside Fawn mode: it waits for the next frame with its registers cleared, its rings empty, at the entry of the active bank; in the
clock of a bank swap or rollback only ENGRST is set, as the larger reset has done the rest (R118; that clock is the sub-frame tick, the
model's choice, log entry 74). -/
def Obligations.EngineHaltReset : Prop :=
  ∀ (e : EngId) (s : State), Ready s →
    (let fails := s.store.winOpen && hdrEng e 0x18 s != 0
     let halts := fun o : Eng => exec (.engineHalt e) s = .next { putEng e o s with
       store := if fails then { s.store with winFail := s.store.winFail ||| 2 ^ engNo e } else s.store }
     let x := { getEng e s with haltReq := true }
     let entered := (getEng e s).excAt = some (getEng e s).cyc
     (x.phase ∈ [.yielded, .waiting] ∨ x.phase ∈ [.running, .stalled] ∧ ¬entered →
       halts { x with phase := .halted, cause := 0xA, statCause := 0xA, bad := 0, haltEvt := true }) ∧
     (x.phase ∈ [.running, .stalled] → entered → halts { x with phase := .halted, statCause := 0xA, haltEvt := true }) ∧
     (x.phase ∈ [.notStarted, .halted] → exec (.engineHalt e) s = .next (putEng e x s)) ∧
     (x.phase = .fenced → exec (.engineHalt e) s = .next (putEng e { x with cause := 0xA, statCause := 0xA, bad := 0 } s))) ∧
    ((getEng e s).phase ≠ .fenced → inFawn s = false → s.store.restartAt ≠ some (clockNow s) →
      ∃ t, exec (.engineReset e) s = .next t ∧
        flag GLB_RSTCAUSE_ENGRST t = true ∧ engNo e ∈ t.flt.relEng ∧ (∀ k, xr (getEng e t) k = 0) ∧ (getEng e t).flags = 0 ∧
        (getEng e t).acc = 0 ∧ (getEng e t).sb = [] ∧ (getEng e t).pc.toNat = hdrEng e 0x18 s ∧
        (getEng e t).phase = (if hdrEng e 0x18 s = 0 then .notStarted else .waiting) ∧
        (∀ d : EngId, d ≠ e → getEng d t = getEng d s) ∧
        (∀ r ∈ t.rng.tags, ringsOf e r.ring = true → r.st = .orphan)) ∧
    ((getEng e s).phase ≠ .fenced → inFawn s = false → s.store.restartAt = some (clockNow s) →
      exec (.engineReset e) s = .next (setF GLB_RSTCAUSE_ENGRST 1 s)) ∧
    ((getEng e s).phase = .fenced ∨ inFawn s = true → exec (.engineReset e) s = .next s)

/-! ## Supplies, ship mode and WAKE -/

/-- The AO rail is carried by the highest of its active sources, which AOSRC names. The AO island starts only with one, with its registers
at their reset values, AOPOR set and the strap read; VCC power-on begins the start-up in boot service with the program store and the
fuses as they were, with VCC at the near bound of its rising threshold or above; a boot tick counts time; a loss of VCC, below the near
bound of its falling threshold, resets all but the AO island, and without a source of the rail, or at the loss of the island, that too.
The VCC path takes VCCIN_H from 9.0 V, leaves it below 8.5 V, and without it takes the higher input, while the inputs stay feeds of the
AO rail; the driver supply is sensed as 5 V, 6 V or internal, out of band it stops all switching and raises PH_DRV, and back in band
the stop is lifted; a floating supply below its falling threshold holds its high-side driver low until it is above the rising one, and its twentieth
cycle there raises PH_DRV. The model's readings and choices: of AO sources as high as each other the first of AOSRC's order carries the
rail, with VIO at 3.30 V (log entry 181); a fuse write that still runs is dropped and its field keeps what it held (log entry 173); of equal inputs the VCC path takes VCCIN_H (log entry 182); the near bounds of the VCC
thresholds (log entry 50); VCC_POWER_ON has no effect in ship mode (log entry 81), and PH_DRV is raised at the
first failed sense only, so not at a re-sense (log entry 82). -/
def Obligations.SupplyStartAndPaths : Prop :=
  ((∀ (vio : Bool) (f : AoFeeds),
     let level := fun k => (aoLevels vio f).getD k 0
     (∀ src, aoSource vio f = some src → src < 4 ∧ 0 < level src ∧ (∀ k < 4, level k ≤ level src) ∧ ∀ k < src, level k < level src) ∧
     (aoSource vio f = none → ∀ k < 4, level k = 0)) ∧
   (∀ (f : AoFeeds) (mv : Nat) (s : State), Quiet s → let vio := flag GLB_SUPSTAT_VIOOK s
     (∀ src, aoSource vio f = some src → ∃ t, exec (.aoPowerOn f mv) s = .next t ∧
       flag GLB_RSTCAUSE_AOPOR t = true ∧ (∀ k < 8, rd (FLT_SEVRT k) t = 0) ∧ fld WDG_RCNT_COUNT t = 0 ∧
       fld GLB_SUPSTAT_AOSRC t = src ∧ t.sup.feeds = f ∧ t.sup.shipFlag = false ∧ t.sup.strap = strapCode mv ∧
       FieldsBut ([GLB_SUPSTAT_AOSRC, GLB_WAKESTAT_STUCK, GLB_RSTCAUSE_AOPOR] ++ rtRegs.map whole) s t ∧
       t = { s with regs := t.regs, sup := t.sup }) ∧
     (aoSource vio f = none → exec (.aoPowerOn f mv) s = .next s)) ∧
   (∀ (o : PowerObs) (s : State), s.sup.power ≠ .ship → 6200 ≤ o.vcc → ∃ t, exec (.vccPowerOn o) s = .next (settle t) ∧
     t.sup.power = .starting ∧ t.sup.feeds = o.feeds ∧ t.sup.boot = true ∧ t.clk.running = false ∧ t.clk.frm = 0 ∧ t.clk.xi = o.xi ∧ t.sup.fuses = s.sup.fuses ∧
     t.store.bytes = s.store.bytes ∧ t.engs = Engs.reset ∧ t.rng = Rng.reset ∧ t.pending = s.pending) ∧
   (∀ (o : PowerObs) (s : State), Quiet s → s.sup.power = .ship ∨ o.vcc < 6200 → exec (.vccPowerOn o) s = .next s) ∧
   (∀ (o : FrameObs) (s : State), s.sup.power = .starting → ∃ t, exec (.bootTick o) s = .next (settle t) ∧
     t.clk = { s.clk with us := s.clk.us + 20, sft := 0 } ∧ t.engs = s.engs ∧ t.mem = s.mem) ∧
   (∀ (o : FrameObs) (s : State), Ready s → s.sup.power ≠ .starting → exec (.bootTick o) s = .next s) ∧
   (∀ (o : LossObs) (src : Nat) (s : State), s.sup.power ≠ .unpowered → o.vcc < 6300 → aoSource false o.feeds = some src →
     ∃ t, exec (.vccLoss o) s = .next t ∧
     t.sup.power = (if s.sup.shipFlag then .ship else .aoOnly) ∧ fld GLB_SUPSTAT_AOSRC t = src ∧ t.sup.feeds = o.feeds ∧
     (∀ a ∈ rtRegs, rd a t = rd a s) ∧ t.engs = Engs.reset ∧ t.rng = Rng.reset ∧ t.mem = [] ∧ t.flt = Flt.reset ∧
     t.sup.fuses = s.sup.fuses ∧ (unitOp 5 s = none → t.store.bytes = s.store.bytes) ∧ t.evq = [] ∧ t.pending = s.pending) ∧
   (∀ s : State, (∃ t, exec .aoRetentionLoss s = .next t ∧ t.sup.power = .unpowered ∧ t.sup.shipFlag = false ∧
       (∀ a ∈ rtRegs, rd a t = (resetValue a).toNat) ∧ t.engs = Engs.reset ∧ t.sup.fuses = s.sup.fuses ∧
       (unitOp 5 s = none → t.store.bytes = s.store.bytes)) ∧
     (∀ o : LossObs, s.sup.power ≠ .unpowered → o.vcc < 6300 → aoSource false o.feeds = none →
       exec (.vccLoss o) s = exec .aoRetentionLoss s) ∧
     (∀ o : LossObs, Quiet s → s.sup.power = .unpowered ∨ 6300 ≤ o.vcc → exec (.vccLoss o) s = .next s))) ∧
  (∀ s : State,
     (∀ vh vp : Nat, Quiet s → let f := { s.sup.feeds with vh := vh, vp := vp }
       (s.sup.power ≠ .unpowered → ∃ t, exec (.vccPathChange vh vp) s = .next t ∧
         fld GLB_SUPSTAT_AOSRC t = (aoSource (flag GLB_SUPSTAT_VIOOK s) f).getD (fld GLB_SUPSTAT_AOSRC s) ∧
         (vccOn s = true → t.sup.hSel = (if 9000 ≤ vh then true else if vh < 8500 then false else s.sup.hSel) ∧
           fld GLB_SUPSTAT_VCCSRC t = if t.sup.hSel = true ∨ vp ≤ vh then 1 else 2) ∧
         (vccOn s = false → t.sup.hSel = s.sup.hSel ∧ fld GLB_SUPSTAT_VCCSRC t = fld GLB_SUPSTAT_VCCSRC s) ∧
         FieldsBut [GLB_SUPSTAT_VCCSRC, GLB_SUPSTAT_AOSRC] s t ∧
         t = { s with regs := t.regs, sup := { s.sup with feeds := f, hSel := t.sup.hSel } }) ∧
       (s.sup.power = .unpowered → exec (.vccPathChange vh vp) s = .next s)) ∧
     (∀ mv : Nat, Ready s → .vdrv ∈ s.pwr.stops → flag GLB_SUPSTAT_VDRVEXT s = false →
       (∀ x l : Nat, (4750 ≤ mv ∧ mv ≤ 5250 ∧ x = 1 ∧ l = 0 ∨ 5700 ≤ mv ∧ mv ≤ 6300 ∧ x = 1 ∧ l = 1 ∨ mv < 1000 ∧ x = 0 ∧ l = 0) →
         ∃ t, exec (.vdrvResense mv) s = .next t ∧ fld GLB_SUPSTAT_VDRVEXT t = x ∧ fld GLB_SUPSTAT_VDRVLVL t = l ∧
           flag GLB_SUPSTAT_VDRVOK t = true ∧ t.pwr.stops = s.pwr.stops.filter (fun w => w != .vdrv) ∧
           FieldsBut [GLB_SUPSTAT_VDRVEXT, GLB_SUPSTAT_VDRVLVL, GLB_SUPSTAT_VDRVOK] s t ∧
           t = { s with regs := t.regs, pwr := { s.pwr with stops := t.pwr.stops } }) ∧
       ((1000 ≤ mv ∧ mv < 4750 ∨ 5250 < mv ∧ mv < 5700 ∨ 6300 < mv) →
         ∃ t, exec (.vdrvResense mv) s = .next t ∧ nAct t = 0 ∧ t.pwr.stops = s.pwr.stops ∧
           t = { s with regs := t.regs, pwr := t.pwr })) ∧
     (vccOn s = true → flag GLB_SUPSTAT_VDRVEXT s = true →
       (flag GLB_SUPSTAT_VDRVOK s = true → ∃ t, exec .vdrvOutOfBand s = .next (settle t) ∧ flag GLB_SUPSTAT_VDRVOK t = false ∧
         .vdrv ∈ t.pwr.stops ∧ nAct t = 0 ∧ t.evq = s.evq ++ [⟨srcPhDrv, 2, none, 0xFF⟩] ∧
         t = { s with regs := t.regs, pwr := t.pwr, evq := t.evq }) ∧
       (Quiet s → flag GLB_SUPSTAT_VDRVOK s = false → ∃ t, exec .vdrvBackInBand s = .next t ∧ flag GLB_SUPSTAT_VDRVOK t = true ∧
         .vdrv ∉ t.pwr.stops ∧ FieldsBut [GLB_SUPSTAT_VDRVOK] s t ∧
         t = { s with regs := t.regs, pwr := { s.pwr with stops := t.pwr.stops } })) ∧
     (∀ (k : Fin 6) (pack : Bool) (mv fall rise : Nat), vccOn s = true →
       (fall, rise) = (if flag GLB_SUPSTAT_VDRVLVL s then (4300, 4600) else (3600, 3900)) →
       let n := if pack then (phase k s).uvB else (phase k s).uvA
       let held := if pack then (phase k s).holdB else (phase k s).holdA
       let low : Bool := decide (mv < fall) || (held && decide (mv ≤ rise))
       ∃ t, exec (.bootstrapUv k pack mv) s = .next (settle t) ∧
         (if pack then (phase k t).holdB else (phase k t).holdA) = low ∧
         (if pack then (phase k t).uvB else (phase k t).uvA) = (if low then min (n + 1) 20 else 0) ∧
         t.evq = s.evq ++ (if low && decide (19 ≤ n) && n != 20 then [⟨srcPhDrv, 2, some (9 + k.val), k.val⟩] else []) ∧
         (∀ j : Fin 6, j ≠ k → phase j t = phase j s) ∧
         t = { s with pwr := { s.pwr with phases := t.pwr.phases }, evq := t.evq }))

/-- A request for ship mode is refused with a source present, with an update armed or a rollback pending, and in Fawn mode; an
accepted one stops switching and the engines, opens PK_DG and every port, is logged, and turns VCC off. WAKE or a source ends ship
mode with a VCC input at 7 V, and not below it, where the host bus lines or PKD alone carry the island; a press counts, one within
250 ms of the last is merged, and a stuck input is reported. The model's readings: the order of the grounds of refusal, where several
hold (log entry 120), and that a merged press can count as stuck (log entry 183); its choice: without VCC a stuck input raises no STUCK_IN (log
entry 199). -/
def Obligations.ShipAndWake : Prop :=
  ∀ s : State,
    (s.sup.power = .on →
      (∀ (present : Bool) (ao : AoFeeds) (r : Nat), Quiet s →
        (present = true ∧ r = 2 ∨ present = false ∧ shipBusy s = true ∧ r = 3 ∨
          present = false ∧ shipBusy s = false ∧ inFawn s = true ∧ r = 4) →
        ∃ t, exec (.shipRequest present ao) s = .next t ∧ fld GLB_SHIP_RESULT t = r ∧ FieldsBut [GLB_SHIP_RESULT] s t ∧
          t = { s with regs := t.regs }) ∧
      (∀ ao : AoFeeds, shipBusy s = false → inFawn s = false → ∃ t, exec (.shipRequest false ao) s = .next (settle t) ∧ t.sup.power = .ship ∧
        t.sup.shipFlag = true ∧ t.clk.running = false ∧ t.engs = Engs.reset ∧ nAct t = 0 ∧
        (∃ l ∈ t.logq, l.typ = 5 ∧ l.code = 1) ∧ fld GLB_SUPSTAT_VCCSRC t = 0 ∧
        fld GLB_SUPSTAT_AOSRC t = (aoSource false ao).getD (fld GLB_SUPSTAT_AOSRC s) ∧
        fld GLB_SHIP_RESULT t = 1 ∧ flag CHG_STAT_DGCL t = false ∧ ∀ k : Fin 4, portSt k t ∉ [4, 5, 7])) ∧
    (∀ vcc : Nat, Quiet s → s.sup.power = .ship →
      (7000 ≤ vcc →
        (∃ t, exec (.shipExitSource vcc) s = .next t ∧ flag GLB_RSTCAUSE_SHIPSRC t = true ∧ FieldsBut [GLB_RSTCAUSE_SHIPSRC] s t ∧
          t = { s with regs := t.regs, sup := { s.sup with power := .aoOnly, shipFlag := false, shipBegun := false } }) ∧
        (∀ ms : Nat, s.sup.wakeHeld = false → flag GLB_WAKESTAT_STUCK s = false → (∀ l, s.sup.wakeLast = some l → l + 250 ≤ ms) →
          ∃ t, exec (.shipExitWake ms vcc) s = .next t ∧ flag GLB_RSTCAUSE_SHIPWAKE t = true ∧ FieldsBut [GLB_RSTCAUSE_SHIPWAKE] s t ∧
            t = { s with regs := t.regs, sup := { s.sup with
              power := .aoOnly, shipFlag := false, shipBegun := false, wakeHeld := true, wakeLast := some ms } })) ∧
      (vcc < 7000 → exec (.shipExitSource vcc) s = .next s ∧
        ∀ ms : Nat, ∃ t, exec (.shipExitWake ms vcc) s = .next t ∧ t.sup.power = .ship ∧ t.sup.shipFlag = s.sup.shipFlag)) ∧
    (Quiet s → s.sup.power ≠ .ship → ∀ vcc, exec (.shipExitSource vcc) s = .next s ∧ ∀ ms, exec (.shipExitWake ms vcc) s = .next s) ∧
    (∀ ms : Nat, Quiet s → s.sup.power ≠ .unpowered → s.sup.power ≠ .ship → s.sup.wakeHeld = false → flag GLB_WAKESTAT_STUCK s = false →
      ((∀ l, s.sup.wakeLast = some l → l + 250 ≤ ms) → ∃ t, exec (.wakePress ms) s = .next t ∧
        fld GLB_WAKESTAT_EVCNT t = (fld GLB_WAKESTAT_EVCNT s + 1) % 128 ∧ FieldsBut [GLB_WAKESTAT_EVCNT] s t ∧
        t = { s with regs := t.regs, sup := { s.sup with wakeHeld := true, wakeLast := some ms } }) ∧
      (∀ l, s.sup.wakeLast = some l → ms < l + 250 → ∃ t, exec (.wakePress ms) s = .next t ∧
        fld GLB_WAKESTAT_MERGED t = min 255 (fld GLB_WAKESTAT_MERGED s + 1) ∧ FieldsBut [GLB_WAKESTAT_MERGED] s t ∧
        t = { s with regs := t.regs, sup := { s.sup with wakeHeld := true } })) ∧
    (Quiet s → ∃ t, exec .wakePressEnd s = .next t ∧ flag GLB_WAKESTAT_STUCK t = false ∧ FieldsBut [GLB_WAKESTAT_STUCK] s t ∧
      t = { s with regs := t.regs, sup := { s.sup with wakeHeld := false } }) ∧
    (s.sup.wakeHeld = true → flag GLB_WAKESTAT_STUCK s = false → ∃ t, exec .wakeStuck s = .next (settle t) ∧
      flag GLB_WAKESTAT_STUCK t = true ∧ FieldsBut [GLB_WAKESTAT_STUCK] s t ∧
      t.evq = (if vccOn s then s.evq ++ [⟨srcStuckIn, 1, none, 0⟩] else s.evq) ∧ t = { s with regs := t.regs, evq := t.evq })

/-! ## Converter -/

/-- Every microsecond the selector takes its samples, the currents by the shunts of PWR_SNS; while a stop is in force no phase is
active; while a source carries HBUS the current of a running converter is never negative, and a sag shed holds it at 0; the ceiling of EN
falls also while the converter stands. The first switching cycle takes the leg mode of its ratio; a held HBUS-side high-side driver is
never on after a cycle. A switching
cycle of an active phase brings it to its offset, keeps its command within the peak limit and counts the cycle where the phase current
reached PWR_IPK in it (R138: the `peak` flag of its walk, `phaseWalk`); 64 cycles in
a row in which the emulator is off raise PH_OC. A phase that forces does so until the preset is reached; the last one ends the
forcing.
Phases are added and shed one at a time by the mean current, shed after SHDLY frames (how these are counted is the model's reading, log
entry 184), light-load mode is entered by one phase of small current, and a
phase that meets a protection stops: hard over-current, from 1.5 × PWR_IPK sensed, with OC, the third within 1 ms raising PH_OC, until
re-admitted; a gate fault until cleared; an imbalance is reported in its 50th frame in a row. The model's choices: a mismatch of the emulator
that goes on raises PH_OC once (log entry 200), and a current is rounded to the nearest mA (log entry 203). -/
def Obligations.PowerStageRows : Prop :=
  (∀ s : State,
     (∀ o : FastObs, Ready s → ∃ t, exec (.selectorUpdate o) s = .next t ∧
       t.pwr.vPk = o.vPk ∧ t.pwr.vHb = o.vHb ∧ t.pwr.vCs = o.vCs ∧ t.pwr.iPk = shuntMa o.sPk (rPk s) ∧
       t.pwr.iHb = shuntMa o.sHb (rHb s) ∧
       (forcingNow s = true → t.pwr.iSel = s.pwr.iSel ∨ unfed t = true) ∧
       (forcingNow s = false → s.pwr.stops ≠ [] → nAct t = 0) ∧
       (forcingNow s = false → preNow s = false → isRunning s = true → packC s = false →
         0 ≤ t.pwr.iSel ∧ (s.hub.shed = true → t.pwr.iSel = 0)) ∧
       t.pwr.enc = s.pwr.enc.map (fun c : Int => max 0 (c - ((lfld PWR_CTL_SSR s + 1) * 4 * 65536 : Nat))) ∧
       t = { s with regs := t.regs, pwr := t.pwr, hub := t.hub, chg := t.chg, imp := t.imp }) ∧
     (∀ (k : Fin 6) (o : CycleObs), vccOn s = true → (phase k s).active = true → (phase k s).pre = 0 →
       (phase k s).forcing = false → (phase k s).toZero = false → (phase k s).rampDn = 0 →
       let hit := (phaseWalk k o (legCycle k o s)).2.2.peak
       ∃ t, exec (.switchingCycle k o) s = .next (settle t) ∧
         (phase k t).off = (phase k s).offTo ∧ (phase k t).kcyc = ((phase k s).kcyc + 1 +
           (if period s ≤ (phase k s).off % period s + cycleMove k s then 1 else 0)) % cyclesPerFrame s ∧
         (phase k t).plCnt = (if hit then (phase k s).plCnt + 1 else 0) ∧
         fld PWR_PLCNT_COUNT t = (if hit then (fld PWR_PLCNT_COUNT s + 1) % 2 ^ fldWidth PWR_PLCNT_COUNT
           else fld PWR_PLCNT_COUNT s) ∧
         (phase k t).cmd.natAbs ≤ lfld PWR_IPK_IPK s * 250 ∧ (∀ j : Fin 6, (phase j t).active = (phase j s).active) ∧
         ((phase k s).holdA = true → (phase k t).cell ≠ .up ∧ (phase k t).cell ≠ .pass) ∧
         (s.pwr.leg = .none → s.pwr.ratios = [] → let v := o.vs.headD (s.pwr.vPk, s.pwr.vHb)
           t.pwr.leg = if v.1 * 100 < 90 * v.2 then .legA else if 110 * v.2 < v.1 * 100 then .legB else .band) ∧
         (let ev : Prop := (phase k s).emuCnt = 63 ∧ (phase k t).emuCnt = 64;
           (ev → flag (PWR_PHSTAT_EMU k) t = true ∧ t.evq = s.evq ++ [⟨srcPhOc, 2, some (9 + k.val), k.val⟩]) ∧
           (¬ev → flag (PWR_PHSTAT_EMU k) t = flag (PWR_PHSTAT_EMU k) s ∧ t.evq = s.evq)) ∧
         FieldsBut [PWR_PLCNT_COUNT, PWR_PHSTAT_EMU k] s t ∧ t = { s with regs := t.regs, pwr := t.pwr, evq := t.evq }) ∧
     (∀ (k : Fin 6) (o : CycleObs), Ready s → (phase k s).active = true → (phase k s).pre = 0 → (phase k s).forcing = true →
       ∃ t, exec (.switchingCycle k o) s = .next t ∧ (phase k t).active = true ∧ (∀ j : Fin 6, j ≠ k → phase j t = phase j s) ∧
         (forcingNow t = true → fld PWR_STAT_DIR t = fld PWR_STAT_DIR s) ∧
         (forcingNow t = false → fld PWR_STAT_DIR t = if s.pwr.ff < 0 then 2 else 0) ∧
         FieldsBut [PWR_STAT_DIR, PWR_PLCNT_COUNT] s t ∧ t = { s with regs := t.regs, pwr := { s.pwr with phases := t.pwr.phases } }) ∧
     (∀ (k : Fin 6) (o : CycleObs), Ready s →
       (phase k s).active = false ∧ (phase k s).rampDn = 0 ∨ (phase k s).pre ≠ 0 → exec (.switchingCycle k o) s = .next s)) ∧
  (∀ s : State,
     (Ready s → nAct s ≠ 0 → nAct s < phCap s → lfld PWR_PHTH_ADD s * 125 * nAct s < totalMa s →
       ∀ k : Fin 6, phReady k s = true → (phase k s).active = false → (∀ j : Fin 6, j < k → phReady j s = true → (phase j s).active = true) →
       ∃ t, exec .phaseAdd s = .next t ∧ (phase k t).active = true ∧ (phase k t).rampUp = 8 ∧
         (∀ j : Fin 6, j ≠ k → (phase j t).active = (phase j s).active) ∧
         flag PWR_STAT_LL t = (s.pwr.llCase && !packC s && decide (s.pwr.iSel.natAbs ≤ 1500 * 65536)) ∧ FieldsBut [PWR_STAT_LL] s t ∧
         t = { s with regs := t.regs, pwr := { s.pwr with phases := t.pwr.phases, llEnt := false, llCase := t.pwr.llCase } }) ∧
     (Ready s → hoHold s = false → max 1 (nMin s) < nAct s → totalMa s < (nAct s - 1) * shedThr s * 125 →
       max 1 (lfld PWR_PHTH_SHDLY s) ≤ s.pwr.shedCnt →
       ∀ k : Fin 6, (phase k s).active = true → (∀ j : Fin 6, k < j → (phase j s).active = false) →
       ∃ t, exec .phaseShed s = .next t ∧ (phase k t).active = false ∧ (phase k t).rampDn = 8 ∧
         (∀ j : Fin 6, j ≠ k → (phase j t).active = (phase j s).active) ∧
         t = { s with pwr := { s.pwr with phases := t.pwr.phases, shedCnt := 0 } }) ∧
     (Ready s → s.pwr.shedCnt < max 1 (lfld PWR_PHTH_SHDLY s) → exec .phaseShed s = .next s) ∧
     (Ready s → lfld PWR_CTL_LLM s = 1 → nAct s = 1 → s.pwr.iSel.natAbs < 1000 * 65536 →
       ∃ t, exec .lightLoadEntry s = .next t ∧ flag PWR_STAT_LL t = true ∧ FieldsBut [PWR_STAT_LL] s t ∧
         t = { s with regs := t.regs, pwr := { s.pwr with llEnt := true } }) ∧
     (∀ (k : Fin 6) (uv : Int), Ready s → (phaseMa uv s).natAbs * 2 < lfld PWR_IPK_IPK s * 250 * 3 →
       exec (.phaseHardOc k uv) s = .next s) ∧
     (∀ (k : Fin 6) (uv : Int), vccOn s = true → lfld PWR_IPK_IPK s * 250 * 3 ≤ (phaseMa uv s).natAbs * 2 →
       ∃ t, exec (.phaseHardOc k uv) s = .next (settle t) ∧ (phase k t).active = false ∧
       (phase k t).ocIdle = true ∧ flag (PWR_PHSTAT_OC k) t = true ∧
       t.evq = (if 2 ≤ ((phase k s).ocAt.filter (fun u => decide (nowUs s < u + 1000))).length then
         s.evq ++ [⟨srcPhOc, 2, some (9 + k.val), k.val⟩] else s.evq) ∧
       t = { s with regs := t.regs, pwr := t.pwr, evq := t.evq }) ∧
     (∀ k : Fin 6, Ready s →
       ((phase k s).ocIdle = true → ∃ t, exec (.phaseReadmit k) s = .next t ∧ (phase k t).ocIdle = false ∧
         (∀ j : Fin 6, j ≠ k → (phase j t).active = (phase j s).active) ∧ t = { s with pwr := { s.pwr with phases := t.pwr.phases } }) ∧
       ((phase k s).ocIdle = false → exec (.phaseReadmit k) s = .next s)) ∧
     (∀ k : Fin 6, vccOn s = true → ∃ t, exec (.gateFeedbackFault k) s = .next (settle t) ∧ (phase k t).active = false ∧
       (phase k t).drvStop = true ∧ flag (PWR_PHSTAT_DRV k) t = true ∧
       t.evq = s.evq ++ [⟨srcPhDrv, 2, some (9 + k.val), k.val⟩] ∧ t = { s with regs := t.regs, pwr := t.pwr, evq := t.evq }) ∧
     (∀ k : Fin 6, Ready s → (phase k s).active = false ∨ (phase k s).imbCnt ≠ 50 → exec (.phaseImbalance k) s = .next s) ∧
     (∀ k : Fin 6, vccOn s = true → (phase k s).active = true → (phase k s).imbCnt = 50 → ∃ t, exec (.phaseImbalance k) s = .next (settle t) ∧
       flag (PWR_PHSTAT_IMB k) t = true ∧ FieldsBut [PWR_PHSTAT_IMB k] s t ∧
       t.evq = s.evq ++ [⟨srcPhOc, 2, some (9 + k.val), k.val⟩] ∧ t = { s with regs := t.regs, evq := t.evq }) ∧
     (∀ (w : StopWhy) (k : Fin 6), (phase k (stopFor w s)).active = false ∧ w ∈ (stopFor w s).pwr.stops ∧
       fld PWR_STAT_GOV (stopFor w s) = 7))

/-! ## Power path -/

/-- A port measurement stores its voltages; a port that has been in window for SRC_QUAL becomes READY, and may carry at once; a
lockout ends with its losses cleared; of the ports lost unfed that are still LOST the first is released at its timeout. The loss
of the carrying port by reverse current or the fall of HBUS past its threshold: with the pack reserve HBUS is pack-carried at once
and a hold runs, without it and without a READY port HBUS is unfed; the port counts the loss. The fall is looked for once HBUS has risen
above the sag threshold after the close, or 1 ms after it. A hand-back closes its port and ends with the port carrying, and V_REF the
voltage that the port closed at. That a trip acts from the near bound of its comparator is the model's reading (log entry 50); the rounding of a
current to the nearest mA is its choice (log entry 203). -/
def Obligations.PortRows : Prop :=
  (∀ s : State,
     (∀ o : PortObs, vccOn s = true → ∃ t, exec (.portMeasurement o) s = .next (settle t) ∧ t.pwr.vPk = o.fast.vPk ∧
       t.pwr.vHb = o.fast.vHb ∧ t.pwr.iHb = shuntMa o.fast.sHb (rHb s) ∧ ∀ k : Fin 4, (port k t).mv = o.mv.getD k 0 ∧ fld (HUB_PMEAS_V k) t = min 65535 (o.mv.getD k 0 / 10)) ∧
     (∀ p : Fin 4, Ready s → portSt p s = 2 → inWin p s = true → cport s ≠ some p.val →
       hubF HUB_QUAL_QUAL s * 100 ≤ (port p s).qual →
       ∃ t, exec (.qualificationComplete p) s = .next t ∧ (portSt p t = 3 ∨ portSt p t = 4) ∧
         (hoHold s = true → portSt p t = 3 ∧ FieldsBut [HUB_PSTAT_STATE p] s t ∧
           t = { s with regs := t.regs, hub := { s.hub with ports := t.hub.ports } })) ∧
     (∀ p : Fin 4, Ready s → portSt p s ≠ 2 ∨ (port p s).qual < hubF HUB_QUAL_QUAL s * 100 → exec (.qualificationComplete p) s = .next s) ∧
     (∀ p : Fin 4, Ready s → portSt p s = 6 → ∃ t, exec (.lockoutEnd p) s = .next t ∧ portSt p t = 1 ∧ fld (HUB_PSTAT_LCNT p) t = 0 ∧
       inWin p t = false ∧ (port p t).losses = [] ∧ (port p t).mv = (port p s).mv ∧ (∀ q : Fin 4, q ≠ p → port q t = port q s) ∧
       FieldsBut [HUB_PSTAT_STATE p, HUB_PSTAT_LCNT p, HUB_PSTAT_INWIN p] s t ∧
       t = { s with regs := t.regs, hub := { s.hub with ports := t.hub.ports } }) ∧
     (∀ p : Fin 4, Ready s → portSt p s ≠ 6 → exec (.lockoutEnd p) s = .next s) ∧
     (∀ (p : Fin 4) (l : List Nat), Ready s → s.hub.lostUnfed.filter (fun q => portSt q s == 5) = p.val :: l →
       ∃ t, exec .lostPortTimeout s = .next t ∧ portSt p t = (if inWin p s then 2 else 1) ∧ FieldsBut [HUB_PSTAT_STATE p] s t ∧
         t = { s with regs := t.regs, hub := { s.hub with lostUnfed := l, ports := t.hub.ports } }) ∧
     (Ready s → (∀ q ∈ s.hub.lostUnfed, portSt q s ≠ 5) →
       exec .lostPortTimeout s = .next { s with hub := { s.hub with lostUnfed := [] } })) ∧
  (∀ s : State,
     (∀ (p : Fin 4) (drop : Int) (o : FastObs) (c : Instr), vccOn s = true → s.hub.hb = none → portSt p s = 4 → cport s = some p.val →
       (c = .reverseCurrentTrip p drop o ∧ drop < 1000 - hubF HUB_DETCFG_RCTH s * 1000 ∨
         c = .hbusFallTrip o ∧ (s.hub.detArmed = true ∨ s.hub.closeUs + 1000 ≤ nowUs s) ∧ o.vHb * 100 < fallThr s * 101) →
       let u := putFast o s
       ∃ t, exec c s = .next (settle t) ∧ flag (HUB_PSTAT_LOSS p) t = true ∧ t.pwr.vPk = o.vPk ∧ t.pwr.vHb = o.vHb ∧
         (rsv u = true → (portSt p t = 5 ∨ portSt p t = 6) ∧ packC t = true ∧ unfed t = false ∧ cport t = none ∧ hoHold t = true ∧ flag HUB_STAT_HO t = true ∧
           t.hub.ho = some (some p.val, true) ∧ t.hub.detArmed = false) ∧
         (rsv u = false → chosen u = none → (portSt p t = 5 ∨ portSt p t = 6) ∧ packC t = false ∧ unfed t = true ∧ cport t = none ∧
           t.hub.lostUnfed = s.hub.lostUnfed.filter (fun q => q != p.val) ++ (if portSt p t = 5 then [p.val] else [])) ∧
         t = { s with
           regs := t.regs, hub := t.hub, pwr := t.pwr, chg := t.chg, evq := t.evq, thm := { s.thm with grazed := t.thm.grazed } }) ∧
     (∀ (p : Fin 4) (drop : Int) (o : FastObs), Ready s →
       1000 - hubF HUB_DETCFG_RCTH s * 1000 ≤ drop ∨ s.hub.hb = none ∧ portSt p s ≠ 4 ∧ (p = 1 → portSt p s ≠ 7) →
       exec (.reverseCurrentTrip p drop o) s = .next (putFast o s)) ∧
     (∀ o : FastObs, armFast o s = { putFast o s with
       hub := { s.hub with
         detArmed := s.hub.detArmed || srcCarried s && (decide (sagThr s < o.vHb) || decide (s.hub.closeUs + 1000 ≤ nowUs s)) } }) ∧
     (∀ o : FastObs, Ready s → (armFast o s).hub.detArmed = false ∨ fallThr s * 101 ≤ o.vHb * 100 ∨ cport s = none →
       exec (.hbusFallTrip o) s = .next (armFast o s)) ∧
     (∀ c : Bool, vccOn s = true → forcingNow s = false → ∀ l, s.hub.ho = some (l, c) → ∃ t, exec .handoverHoldEnd s = .next (settle t) ∧
       fld HUB_HOCNT_HO t = (if c then (fld HUB_HOCNT_HO s + 1) % 2 ^ fldWidth HUB_HOCNT_HO else fld HUB_HOCNT_HO s) ∧
       (c = true → flag HUB_STAT_HOEVT t = true)) ∧
     (Ready s → s.hub.ho = none ∨ forcingNow s = true → exec .handoverHoldEnd s = .next s) ∧
     (∀ h : HandBack, Ready s → s.hub.hb = some h → h.closing = false → exec .handbackClose s = .next { s with
       hub := { s.hub with
         hb := some { h with closing := true, vc := (port h.port s).mv }, holdRef := max (h.vs * 99 / 100) 9000 }
       pwr := { s.pwr with hbRamp := some (holdBound (vAt (bounds s).b 4) s, 0, (lfld PWR_CTL_HBR s + 1) * 250) } }) ∧
     (∀ h : HandBack, Ready s → s.hub.hb = some h → h.closing = true → h.port < 4 → ∃ t, exec .handbackComplete s = .next t ∧
       portSt h.port t = 4 ∧ cport t = some h.port ∧ packC t = false ∧ unfed t = false ∧ flag HUB_STAT_HB t = false ∧
       t.hub.hb = none ∧ t.hub.detArmed = true ∧ t.hub.vref = h.vc ∧
       fld HUB_HOCNT_HB t = (fld HUB_HOCNT_HB s + 1) % 2 ^ fldWidth HUB_HOCNT_HB ∧ flag HUB_STAT_HBEVT t = true ∧
       t = { s with
         regs := t.regs, hub := t.hub, pwr := t.pwr, thm := { s.thm with grazed := s.thm.grazed || s.thm.graze } }) ∧
     (Ready s → s.hub.hb = none → exec .handbackClose s = .next s ∧ exec .handbackComplete s = .next s))

/-- HBUS over- and under-voltage, the sag shed, and the pack start, past their thresholds: what each records, stops, raises and
ends. SID: five equal readings accept a bin, at most one change in 100 ms, and a pin short derates; stuck, it raises STUCK_IN. S1
opens on over-current, measured by VDS over RDS, or back-feed, for good after three times in 10 s, and closes again where it may, up
to three times (R217): each end of the 1 s counts as one of the three, also where S1 stays open because its terminal stands at 2.0 V or
more (the model's choice, log entry 164). A sag trip while the converter does not switch holds the upper bound at 0 and counts nothing
(the model's choice, log entry 189), nor does one while a shed is in force (log entry 207), while a shed counts in the microsecond of a fall that
comes after it (log entry 206), both the model's choices too; a current is rounded to the nearest mA (log entry 203). The model's readings: a trip acts from the near bound of its comparator (log entry 50), and boot service raises
no fault source of the ports, HBUS or pack voltage, Fawn mode raises them (log entry 128). -/
def Obligations.HbusRows : Prop :=
  (∀ s : State,
     (∀ o : FastObs, vccOn s = true → hbOvThr s * 99 ≤ o.vHb * 100 → ∃ t, exec (.hbusOvTrip o) s = .next (settle t) ∧
       flag HUB_STAT_OVEVT t = true ∧ t.hub.ovOn = true ∧ .hbOv ∈ t.pwr.stops ∧ nAct t = 0 ∧
       (s.sup.boot = false ∨ inFawn s = true → ⟨srcHbusOv, 3, none, 0⟩ ∈ t.evq) ∧
       t = { s with
         regs := t.regs, hub := t.hub, pwr := t.pwr, chg := t.chg, evq := t.evq, thm := { s.thm with grazed := t.thm.grazed } }) ∧
     (∀ o : FastObs, Ready s → o.vHb * 100 < hbOvThr s * 99 → exec (.hbusOvTrip o) s = .next (putFast o s)) ∧
     (∀ o : FastObs, Ready s → exec (.hbusOvRelease o) s = .next (if o.vHb < vhbceil s then { s with
       hub := { s.hub with ovOn := false }
       pwr := { (putFast o s).pwr with stops := s.pwr.stops.filter (fun w => w != .hbOv) } } else putFast o s)) ∧
     (∀ o : FastObs, vccOn s = true → unfed s = false → o.vHb ≤ 8585 → ∃ t, exec (.hbusUvTrip o) s = .next (settle t) ∧
       flag HUB_STAT_UVEVT t = true ∧ FieldsBut [HUB_STAT_UVEVT] s t ∧
       t.evq = (if s.sup.boot && !inFawn s then s.evq else s.evq ++ [⟨srcHbusUv, 2, none, 0⟩]) ∧
       t = { s with regs := t.regs, hub := { s.hub with uvOn := true }, pwr := (putFast o s).pwr, evq := t.evq }) ∧
     (∀ o : FastObs, Ready s → unfed s = true ∨ 8585 < o.vHb → exec (.hbusUvTrip o) s = .next (putFast o s)) ∧
     (∀ o : FastObs, Ready s →
       (srcCarried s = true → (armFast o s).hub.detArmed = true → s.hub.shed = false → o.vHb * 100 < sagThr s * 101 →
         (isRunning s = true → ∃ t, exec (.sagShed o) s = .next t ∧ t.pwr.iSel = min s.pwr.iSel 0 ∧
           (∀ k : Fin 6, (phase k s).active = true ∨ (phase k s).rampDn ≠ 0 → (phase k t).toZero = true ∧
             (phase k t).cell = (if (phase k s).iL = 0 then Cell.circ else .down).held (phase k s).holdA (phase k s).holdB) ∧
           fld HUB_SAGCNT_COUNT t = min (fmax HUB_SAGCNT_COUNT) (fld HUB_SAGCNT_COUNT s + 1) ∧ flag HUB_STAT_SAGEVT t = true ∧
           flag PWR_STAT_SHGOV t = true ∧ FieldsBut [HUB_SAGCNT_COUNT, HUB_STAT_SAGEVT, PWR_STAT_SHGOV] s t ∧
           t = { s with
             regs := t.regs, hub := { s.hub with shed := true, detArmed := true }
             pwr := { (putFast o s).pwr with iSel := t.pwr.iSel, phases := t.pwr.phases }
             lnk := { s.lnk with sag := true }, chg := { s.chg with fShed := true } }) ∧
         (isRunning s = false → ∃ t, exec (.sagShed o) s = .next t ∧ flag PWR_STAT_SHGOV t = true ∧ FieldsBut [PWR_STAT_SHGOV] s t ∧
           t = { s with regs := t.regs, hub := { s.hub with shed := true, detArmed := true }, pwr := (putFast o s).pwr })) ∧
       (srcCarried s = false ∨ (armFast o s).hub.detArmed = false ∨ s.hub.shed = true ∨ sagThr s * 101 ≤ o.vHb * 100 →
         exec (.sagShed o) s = .next (armFast o s))) ∧
     (∀ o : FastObs, Ready s → s.hub.shed = true → s.hub.vref * (202 - sagPct s) < o.vHb * 200 →
       exec (.sagRestart o) s = .next { s with
         hub := { s.hub with shed := false }
         pwr := { (putFast o s).pwr with ss := some (max 0 (shuntMa o.sPk (rPk s)) * 65536) } }) ∧
     (∀ o : FastObs, Ready s → s.hub.shed = false ∨ o.vHb * 200 ≤ s.hub.vref * (202 - sagPct s) →
       exec (.sagRestart o) s = .next (putFast o s)) ∧
     (Ready s → unfed s = true → rsv s = true → ∃ t, exec .packStart s = .next t ∧ packC t = true ∧ unfed t = false ∧ cport t = none ∧
       t.pwr.rss = some 0 ∧ FieldsBut [PWR_STAT_CARRIER, HUB_STAT_PACKC, HUB_STAT_UNFED, HUB_STAT_CPORT] s t ∧
       t = { s with regs := t.regs, hub := t.hub, pwr := { s.pwr with rss := some 0 } }) ∧
     (Ready s → (unfed s && rsv s) = false → exec .packStart s = .next s) ∧
     (∀ o : FastObs, vccOn s = true → packC s = true → s.hub.belowFloor = false → o.vPk < pkFloor s →
       ∃ t, exec (.packUndervoltage o) s = .next (settle t) ∧ t.hub.belowFloor = true ∧
       flag HUB_STAT_RSVLOST t = true ∧ (s.sup.boot = false ∨ inFawn s = true → ⟨srcPkUv, 2, none, 0⟩ ∈ t.evq)) ∧
     (∀ o : FastObs, Ready s → packC s = false ∨ pkFloor s ≤ o.vPk ∨ s.hub.belowFloor = true →
       exec (.packUndervoltage o) s = .next (putFast o s))) ∧
  (∀ s : State,
     (∀ v : Nat, Ready s → flag HUB_SID_STUCK s = false → sidBin v = s.hub.sidCand → s.hub.sidCnt = 4 → sidBin v ≠ fld HUB_SID_BIN s →
       (sidBusy s = false → ∃ t, exec (.sidRead v) s = .next t ∧ fld HUB_SID_BIN t = sidBin v ∧ flag HUB_SID_CHG t = true ∧
         t.hub.sidAt = some (nowUs s) ∧ flag HUB_SID_DERATE t = decide (sidBin v = 0) ∧
         (sidBin v ≠ 0 → t.hub.s0Type = if sidBin v = 8 then 1 else sidBin v + 1) ∧
         FieldsBut [HUB_SID_BIN, HUB_SID_CHG, HUB_SID_DERATE] s t ∧ t = { s with regs := t.regs, hub := t.hub }) ∧
       (sidBusy s = true → ∃ t, exec (.sidRead v) s = .next t ∧ t.hub.sidMerge = true ∧
         fld HUB_SID_MERGED t = min (fmax HUB_SID_MERGED) (fld HUB_SID_MERGED s + 1) ∧ FieldsBut [HUB_SID_MERGED] s t ∧
         t = { s with regs := t.regs, hub := t.hub })) ∧
     (Ready s → s.hub.sidMerge = true → s.hub.sidCnt = 5 → s.hub.sidCand ≠ fld HUB_SID_BIN s → s.hub.sidCand < 9 →
       ∃ t, exec .sidRateWindowEnd s = .next t ∧ fld HUB_SID_BIN t = s.hub.sidCand ∧ t.hub.sidMerge = false ∧
         FieldsBut [HUB_SID_BIN, HUB_SID_CHG, HUB_SID_DERATE] s t ∧ t = { s with regs := t.regs, hub := t.hub }) ∧
     (Ready s → s.hub.sidMerge = false → exec .sidRateWindowEnd s = .next s) ∧
     (vccOn s = true → flag HUB_SID_DERATE s = true → ∃ t, exec .sidStuck s = .next (settle t) ∧ flag HUB_SID_STUCK t = true ∧
       flag HUB_SID_DERATE t = false ∧ FieldsBut [HUB_SID_STUCK, HUB_SID_DERATE] s t ∧
       t.evq = (if s.sup.boot && !inFawn s then s.evq else s.evq ++ [⟨srcStuckIn, 1, none, 0⟩]) ∧
       t = { s with regs := t.regs, hub := { s.hub with sidOut := 0 }, evq := t.evq }) ∧
     (∀ (c : Instr) (f : Fld), Ready s → portSt 1 s = 7 →
       ((∃ vds : Int, c = .s1Overcurrent vds ∧ f = HUB_PSTAT_OCP 1 ∧
           ((hubF HUB_S1OUT_ILIM s * max 1 (hubF (HUB_PLIM_RDS 1) s) : Nat) : Int) < -clampI (-100000) 100000 vds) ∨
         (∃ drop : Int, c = .s1Backfeed drop ∧ drop < 1000 - hubF HUB_DETCFG_RCTH s * 1000 ∧ f = HUB_PSTAT_BACKF 1)) →
       ∃ t, exec c s = .next t ∧ portSt 1 t = 1 ∧ flag f t = true ∧
         (2 ≤ (s.hub.s1Opens.filter (fun u => decide (nowUs s < u + 10000000))).length → t.hub.s1Block = true) ∧
         FieldsBut [HUB_PSTAT_STATE 1, f] s t ∧
         t = { s with regs := t.regs, hub := { s.hub with
           ports := t.hub.ports, s1Opens := t.hub.s1Opens, s1Block := t.hub.s1Block, s1Wait := true } }) ∧
     (∀ vds : Int, Ready s →
       -clampI (-100000) 100000 vds ≤ ((hubF HUB_S1OUT_ILIM s * max 1 (hubF (HUB_PLIM_RDS 1) s) : Nat) : Int) →
       exec (.s1Overcurrent vds) s = .next s) ∧
     (Ready s → s.hub.s1Wait = true → s.hub.s1Tries < 3 →
       (portSt 1 s = 1 → hubF HUB_S1OUT_EN s = 1 → s.hub.s1Block = false → (port 1 s).mv < 2000 →
         ∃ t, exec .s1Reentry s = .next t ∧ portSt 1 t = 7 ∧ FieldsBut [HUB_PSTAT_STATE 1] s t ∧ t = { s with
           regs := t.regs, hub := { s.hub with ports := t.hub.ports, s1Wait := false, s1Tries := s.hub.s1Tries + 1 } }) ∧
       (2000 ≤ (port 1 s).mv → exec .s1Reentry s = .next { s with
         hub := { s.hub with s1Wait := false, s1Tries := s.hub.s1Tries + 1 } })) ∧
     (Ready s → s.hub.s1Wait = true → 3 ≤ s.hub.s1Tries →
       exec .s1Reentry s = .next { s with hub := { s.hub with s1Block := true } }) ∧
     (Ready s → s.hub.s1Wait = false → exec .s1Reentry s = .next s))

/-! ## Engines -/

/-- ALU of each function: its value, its flags (Z and N of every function, C and V of ADD and SUB), one cycle; x0 takes none.
The immediate forms. -/
def Obligations.AluAndImmediateResults : Prop :=
  (∀ (e : EngId) (b : BitVec 26) (s : State), Fetched e s → fImm b < 64 → fFn b ≤ 0x10 → (0x0E ≤ fFn b → fRs2 b = 0) →
     ∃ (v : Word) (c o : Bool), let x := src1 b (getEng e s); let y := src2 b (getEng e s)
       Completes e (.alu e b) (fRd b) v
         (if fFn b ≤ 1 then [(0, v == 0), (1, v.msb), (2, c), (3, o)] else [(0, v == 0), (1, v.msb)]) 1 s ∧
       (fFn b = 0x00 → v = x + y ∧ (c = true ↔ 2 ^ 32 ≤ x.toNat + y.toNat) ∧ (o = true ↔ v.toInt ≠ x.toInt + y.toInt)) ∧
       (fFn b = 0x01 → v = x - y ∧ (c = true ↔ y.toNat ≤ x.toNat) ∧ (o = true ↔ v.toInt ≠ x.toInt - y.toInt)) ∧
       (fFn b = 0x02 → v = x &&& y) ∧ (fFn b = 0x03 → v = x ||| y) ∧ (fFn b = 0x04 → v = x ^^^ y) ∧
       (fFn b = 0x05 → v = x <<< (y.toNat % 32)) ∧ (fFn b = 0x06 → v = x >>> (y.toNat % 32)) ∧
       (fFn b = 0x07 → v.toInt = x.toInt / 2 ^ (y.toNat % 32)) ∧
       (fFn b = 0x08 → v.toNat = if x.toInt < y.toInt then 1 else 0) ∧
       (fFn b = 0x09 → v.toNat = if x.toNat < y.toNat then 1 else 0) ∧
       (fFn b = 0x0A → v.toInt = min x.toInt y.toInt) ∧ (fFn b = 0x0B → v.toInt = max x.toInt y.toInt) ∧
       (fFn b = 0x0C → v.toNat = min x.toNat y.toNat) ∧ (fFn b = 0x0D → v.toNat = max x.toNat y.toNat) ∧
       (fFn b = 0x0E → v.toNat ≤ 32 ∧ (x = 0 → v.toNat = 32) ∧ (x ≠ 0 → v.toNat ≤ 31 ∧ x.toNat / 2 ^ (31 - v.toNat) = 1)) ∧
       (fFn b = 0x0F → ∀ i < 32, v.getLsbD i = x.getLsbD (31 - i)) ∧
       (fFn b = 0x10 → ∀ k < 4, v.toNat / 2 ^ (8 * k) % 256 = x.toNat / 2 ^ (8 * (3 - k)) % 256)) ∧
  (∀ (e : EngId) (b : BitVec 26) (s : State), Fetched e s →
     let x := src1 b (getEng e s)
     let zn := fun (v : Word) => [(0, v == 0), (1, v.msb)]
     (fRs2 b = 0 →
       Completes e (.addi e b) (fRd b) (x + immS b)
         [(0, x + immS b == 0), (1, (x + immS b).msb), (2, decide (2 ^ 32 ≤ x.toNat + (immS b).toNat)),
           (3, decide ((x + immS b).toInt ≠ x.toInt + (immS b).toInt))] 1 s ∧
       Completes e (.andi e b) (fRd b) (x &&& immZ b) (zn (x &&& immZ b)) 1 s ∧
       Completes e (.ori e b) (fRd b) (x ||| immZ b) (zn (x ||| immZ b)) 1 s ∧
       Completes e (.xori e b) (fRd b) (x ^^^ immZ b) (zn (x ^^^ immZ b)) 1 s ∧
       (let v : Word := if x.toInt < (immS b).toInt then 1 else 0; Completes e (.slti e b) (fRd b) v (zn v) 1 s) ∧
       (let v : Word := if x.toNat < (immS b).toNat then 1 else 0; Completes e (.sltiu e b) (fRd b) v (zn v) 1 s)) ∧
     (fRs2 b = 0 → fImm b / 2 ^ 5 % 2 ^ 7 = 0 → ∀ m < 3, fImm b / 2 ^ 12 = m →
       let k := fImm b % 32
       let v := match m with | 0 => x <<< k | 1 => x >>> k | _ => x.sshiftRight k
       Completes e (.shi e b) (fRd b) v (zn v) 1 s) ∧
     (fRs1 b = 0 →
       Completes e (.lui e b) (fRd b) (BitVec.ofNat 32 (b.toNat % 2 ^ 18 * 2 ^ 14)) [] 1 s ∧
       ∃ v : Word, Completes e (.li e b) (fRd b) v [] 1 s ∧ v.toInt = sgn 18 b.toNat))

/-- Multiplication takes 2 cycles and division 34; a division by 0 and the division that overflows give the values of the table
and set V, and raise nothing. -/
def Obligations.MulDivResults : Prop :=
  ∀ (e : EngId) (b : BitVec 26) (s : State), Fetched e s → fImm b < 4 →
    let x := src1 b (getEng e s)
    let y := src2 b (getEng e s)
    (∃ v : Word,
      Completes e (.mulg e b) (fRd b) v
        (if fImm b = 0 then [(0, v == 0), (1, v.msb), (3, decide (x.toInt * y.toInt ≠ v.toInt))] else [(0, v == 0), (1, v.msb)])
        2 s ∧
      (fImm b = 0 → v = x * y) ∧ (fImm b = 1 → v.toInt = x.toInt * y.toInt / 2 ^ 32) ∧
      (fImm b = 2 → v.toNat = x.toNat * y.toNat / 2 ^ 32) ∧ (fImm b = 3 → v.toInt = x.toInt * y.toNat / 2 ^ 32)) ∧
    (∃ (v : Word) (o : Bool),
      Completes e (.divg e b) (fRd b) v [(0, v == 0), (1, v.msb), (3, o)] 34 s ∧
      (y = 0 → o = true ∧ v = if fImm b < 2 then 0xFFFFFFFF#32 else x) ∧
      (x = 0x80000000#32 → y = 0xFFFFFFFF#32 →
        (fImm b = 0 → o = true ∧ v = 0x80000000#32) ∧ (fImm b = 2 → o = true ∧ v = 0)) ∧
      (y ≠ 0 → ¬(x = 0x80000000#32 ∧ y = 0xFFFFFFFF#32 ∧ fImm b % 2 = 0) → o = false ∧
        (fImm b = 0 → v.toInt = x.toInt.tdiv y.toInt) ∧ (fImm b = 1 → v.toNat = x.toNat / y.toNat) ∧
        (fImm b = 2 → v.toInt = x.toInt.tmod y.toInt) ∧ (fImm b = 3 → v.toNat = x.toNat % y.toNat)))

/-- A load of shared RAM with a good word: rd takes the bytes, extended; no flag changes; 2 cycles and the bank's wait of at most 4 are
used. Word stores posted to shared RAM land first, in their order, each in a cycle and its wait, and the load reads what they wrote
(R350). A load of a register block gives its bytes in 4 cycles; it pops PKP_SEQRXe (R325), and a load of the low byte of a capture
clears its NEW (R551). A load of the program-store window gives bytes of the bank it shows in 6 cycles. An address wraps modulo 2^16
(DEDUCED, log entry 16).
LDP gives a word of the active bank in 6 cycles; a prefetched line enters a buffer, marked where it is uncorrectable. -/
def Obligations.LoadResults : Prop :=
  (∀ (e : EngId) (b : BitVec 26) (n : Nat) (s : State), Fetched e s → fRs2 b = 0 → (getEng e s).sb = [] →
     let a := dataAddr b (getEng e s)
     ramLo ≤ a → a ≤ ramHi → a % n = 0 → CleanAt a s →
     ∀ (i : Instr) (v : Word),
       (n = 1 ∧ i = .ldb e b ∧ v = (ramByte a s).signExtend 32 ∨ n = 1 ∧ i = .ldbu e b ∧ v = (ramByte a s).setWidth 32 ∨
         n = 2 ∧ i = .ldh e b ∧ v = (BitVec.ofNat 16 (ramNat a 2 s)).signExtend 32 ∨
         n = 2 ∧ i = .ldhu e b ∧ v = BitVec.ofNat 32 (ramNat a 2 s) ∨ n = 4 ∧ i = .ldw e b ∧ v = BitVec.ofNat 32 (ramNat a 4 s)) →
       ∃ t, ∃ w ≤ 4, exec i s = .next t ∧ Gives e (fRd b) v [] (2 + w) s t ∧
         t = { putEng e (getEng e t) (atTick e s) with seed := s.seed + 1 }) ∧
  (∀ (e : EngId) (b : BitVec 26) (s : State), Fetched e s → fRs2 b = 0 →
     let o := getEng e s
     let a := dataAddr b o
     let loads := fun (x : Nat → Nat) (n : Nat) (i : Instr) (v : Word) =>
       n = 1 ∧ i = .ldb e b ∧ v = (BitVec.ofNat 8 (x 1)).signExtend 32 ∨ n = 1 ∧ i = .ldbu e b ∧ v = BitVec.ofNat 32 (x 1) ∨
       n = 2 ∧ i = .ldh e b ∧ v = (BitVec.ofNat 16 (x 2)).signExtend 32 ∨ n = 2 ∧ i = .ldhu e b ∧ v = BitVec.ofNat 32 (x 2) ∨
       n = 4 ∧ i = .ldw e b ∧ v = BitVec.ofNat 32 (x 4)
     (∀ (n : Nat) (i : Instr) (v : Word), o.sb.length ≤ 4 → (∀ p ∈ o.sb, p.size = 4 ∧ ramLo ≤ p.addr ∧ p.addr ≤ ramHi ∧ p.addr % 4 = 0) →
       Legal s → ramLo ≤ a → a ≤ ramHi → a % n = 0 → CleanAt a s →
       let byte := fun y : Nat => match o.sb.reverse.find? (fun p => decide (p.addr ≤ y) && decide (y < p.addr + 4)) with
         | some p => BitVec.ofNat 8 (p.val.toNat / 2 ^ (8 * (y - p.addr)))
         | none => ramByte y s
       loads (fun n => leNat ((List.range n).map (fun j => byte (a + j)))) n i v →
       ∃ t, ∃ w ≤ 4 * (o.sb.length + 1), exec i s = .next t ∧ (∀ y, ramByte y t = byte y) ∧
         (∀ k < 16, xr (getEng e t) k = if k = fRd b ∧ fRd b ≠ 0 then v else xr o k) ∧
         getEng e t = { o with x := (getEng e t).x, sb := [], pc := o.pc + 4, cyc := o.cyc + o.sb.length + 2 + w } ∧
         t = { putEng e (getEng e t) (atTick e s) with mem := t.mem, ramErr := t.ramErr, seed := s.seed + o.sb.length + 1 }) ∧
     (∀ (n : Nat) (i : Instr) (v : Word), o.sb = [] → a < 0x2800 → a % n = 0 → s.flt.parBad = [] → flag FLT_INJ_ARM s = false →
       let u := putEng e { o with cyc := o.cyc + 4 } (atTick e s)
       loads (fun n => readReg (a / 4 * 4) u / 2 ^ (8 * (a % 4)) % 2 ^ (8 * n)) n i v →
       ∃ t, exec i s = .next t ∧ Gives e (fRd b) v [] 4 s t ∧
         let t' := putEng e (getEng e t) (atTick e s)
         (∀ k < 2, a / 4 * 4 = PKP_SEQRX k → t = putSeq k { getSeq k s with rx := (getSeq k s).rx.tail } t') ∧
         (∀ k < 8, a = TMR_CAP k → t = setF (TMR_CAPSTAT_NEW k) 0 t') ∧
         ((∀ k < 2, a / 4 * 4 ≠ PKP_SEQRX k) → (∀ k < 8, a ≠ TMR_CAP k) → t = t')) ∧
     (∀ (n : Nat) (i : Instr) (v : Word), o.sb = [] → 0x8000 ≤ a → a % n = 0 → flag FLT_INJ_ARM s = false →
       lineErrAt (winBank s) (winAddr a s / 64) s = 0 →
       loads (fun n => psNat (winBank s) (winAddr (a / 4 * 4) s) 4 s / 2 ^ (8 * (a % 4)) % 2 ^ (8 * n)) n i v →
       Completes e i (fRd b) v [] 6 s)) ∧
  (∀ (e : EngId) (s : State),
     (∀ b : BitVec 26, Fetched e s → fRs2 b = 0 → let a := dataAddr b (getEng e s)
       a % 4 = 0 → lineErrAt (actBank s) (a / 64) s = 0 → flag FLT_INJ_ARM s = false →
       Completes e (.ldp e b) (fRd b) (BitVec.ofNat 32 (psNat (actBank s) a 4 s)) [] 6 s) ∧
     (∀ (l : Fin 1024) (word : Option Word), word.all (fun w => (decodeRaura e w).isSome) = true →
       Quiet s → (getEng e s).phase ∉ [.notStarted, .halted, .fenced] → flag FLT_INJ_ARM s = false →
       lineErrAt (actBank s) l s ≠ 1 → (∀ x ∈ (getEng e s).lines, x.1 ≠ l) →
       ∃ t, exec (.lineBufferFill e l word) s = .next t ∧ (l.val, if 2 ≤ lineErrAt (actBank s) l s then 1 else 0) ∈ (getEng e t).lines ∧
         (getEng e t).lines.length ≤ 2 ∧ (∀ x ∈ (getEng e s).lines, x.1 = (getEng e s).pc.toNat / 64 →
           ∃ y ∈ (getEng e t).lines, y.1 = x.1) ∧
         t = putEng e { getEng e s with lines := (getEng e t).lines } s))

/-- A narrow store to shared RAM is written at once; a word store there, and any store to a register block, is posted in one cycle.
With the store buffer full the oldest store lands first. The oldest posted store lands: one to shared RAM changes exactly its bytes,
one to a register without an effect of its own or to a set point does what a write of the register does, and so does any other while
the engine runs. AMO reads a word and writes it in one. An address is taken modulo 2^16 (DEDUCED, log entry 16). -/
def Obligations.StoreResults : Prop :=
  ∀ (e : EngId) (b : BitVec 26) (s : State), Legal s →
    let o := getEng e s
    let a := dataAddr b o
    (∀ (n : Nat) (i : Instr), n = 1 ∧ i = .stb e b ∨ n = 2 ∧ i = .sth e b → Fetched e s → fRd b = 0 → o.sb = [] → ramLo ≤ a →
      a ≤ ramHi → a % n = 0 → CleanAt a s →
      ∃ t, ∃ w ≤ 4, exec i s = .next t ∧
        (∀ x, ramByte x t = if a ≤ x ∧ x < a + n then BitVec.ofNat 8 ((src2 b o).toNat / 2 ^ (8 * (x - a))) else ramByte x s) ∧
        t = { putEng e { o with pc := o.pc + 4, cyc := o.cyc + 2 + w } (atTick e s) with
          mem := t.mem, ramErr := t.ramErr, seed := s.seed + 1 }) ∧
    (Fetched e s → fRd b = 0 → o.sb.length < 4 → ramLo ≤ a → a ≤ ramHi → a % 4 = 0 →
      Leaves e (.stw e b) { o with pc := o.pc + 4, cyc := o.cyc + 1, sb := o.sb ++ [⟨a, 4, src2 b o⟩] } s) ∧
    (∀ (x : Nat) (v : Word) (l : List SbEntry), Quiet s → o.sb = ⟨x, 4, v⟩ :: l → ramLo ≤ x → x ≤ ramHi → x % 4 = 0 →
      ∃ t, exec (.storeLands e) s = .next t ∧
        (∀ y, ramByte y t = if x ≤ y ∧ y < x + 4 then BitVec.ofNat 8 (v.toNat / 2 ^ (8 * (y - x))) else ramByte y s) ∧
        ramErrAt x t = 0 ∧ t = { putEng e { o with sb := l } s with mem := t.mem, ramErr := t.ramErr }) ∧
    (∀ (n : Nat) (i : Instr), n = 1 ∧ i = .stb e b ∨ n = 2 ∧ i = .sth e b ∨ n = 4 ∧ i = .stw e b → Fetched e s → fRd b = 0 →
      o.sb.length < 4 → a < ramLo → a % n = 0 → engStoreOk e a n = true →
      Leaves e i { o with pc := o.pc + 4, cyc := o.cyc + 1, sb := o.sb ++ [⟨a, n, src2 b o⟩] } s) ∧
    (∀ (x : Nat) (v : Word) (l : List SbEntry), Fetched e s → fRd b = 0 → o.sb = ⟨x, 4, v⟩ :: l → l.length = 3 → ramLo ≤ x →
      x ≤ ramHi → x % 4 = 0 → a % 4 = 0 → engStoreOk e a 4 = true →
      ∃ t, ∃ w ≤ 4, exec (.stw e b) s = .next t ∧
        (∀ y, ramByte y t = if x ≤ y ∧ y < x + 4 then BitVec.ofNat 8 (v.toNat / 2 ^ (8 * (y - x))) else ramByte y s) ∧
        t = { putEng e { o with pc := o.pc + 4, cyc := o.cyc + 2 + w, sb := l ++ [⟨a, 4, src2 b o⟩] } (atTick e s) with
          mem := t.mem, ramErr := t.ramErr, seed := s.seed + 1 }) ∧
    (∀ (x : Nat) (k : Fin 3) (v : Word) (l : List SbEntry) (r : RegRow), Quiet s → o.sb = ⟨x, 2 ^ k.val, v⟩ :: l →
      engRights e x = true → findRow x = some r → r.width ≤ 8 * 2 ^ k.val →
      let s' := putEng e { o with sb := l } s
      let m := openMask r s
      (r.sh = false → ownEffect x = false → ∃ t y, exec (.storeLands e) s = .next t ∧ Taken r x v.toNat s y ∧
        rd x t = clampWrite x y % 2 ^ 32 ∧ FieldsBut [whole x] s t ∧ t = { parWrite x m s' with regs := t.regs }) ∧
      (r.sh = true → m ≠ 0 → ∃ t, exec (.storeLands e) s = .next t ∧ Taken r x v.toNat s (rd x t) ∧ marked x t = true ∧
        FieldsBut [whole x] s t ∧ t = { parWrite x m s' with regs := t.regs, marks := (mark x false s).marks }) ∧
      (vccOn s = true → o.phase = .running → x % 2 ^ k.val = 0 → isBuffer x = false →
        exec (.storeLands e) s = exec (.registerWrite (some e) (BitVec.ofNat 16 x) k v) s')) ∧
    (Fetched e s → fImm b < 4 → o.sb = [] → let c := (src1 b o).toNat % 2 ^ 16
      ramLo ≤ c → c ≤ ramHi → c % 4 = 0 → CleanAt c s →
      let old := BitVec.ofNat 32 (ramNat c 4 s)
      let new := match fImm b with | 0 => src2 b o | 1 => old + src2 b o | 2 => old &&& src2 b o | _ => old ||| src2 b o
      ∃ t, ∃ w ≤ 4, exec (.amo e b) s = .next t ∧ Gives e (fRd b) old [] (4 + w) s t ∧ ramNat c 4 t = new.toNat ∧
        (∀ y, y < c ∨ c + 4 ≤ y → ramByte y t = ramByte y s) ∧
        t = { putEng e (getEng e t) (atTick e s) with mem := t.mem, ramErr := t.ramErr, seed := s.seed + 1 })

/-- Each branch, jump, YIELD, HALT, TRAP and ERET completes: `exec` answers the next state in which the engine is as given here
and nothing else has changed. A taken branch or a jump goes to its own address plus four times the sign-extended offset in 3
cycles, and 4 more where no line buffer holds the target's line; a branch not taken goes on in 1. YIELD, HALT, TRAP and ERET with
no store posted: the engine waits for the next frame, or halts with cause 0x09, or takes the exception of cause 0x08 with EPC at
the next word and BADADDR the sign-extended imm14 (R354), or goes back to EPC. The model's readings: TRAP uses 1 + 3 cycles (log
entry 20), and HALT leaves pc at the next word (log entry 23). -/
def Obligations.JumpAndControlResults : Prop :=
  (∀ (e : EngId) (b : BitVec 26) (s : State), Fetched e s →
     let o := getEng e s
     let x := src1 b o
     let y := src2 b o
     let to' := fun (p : Half) => { o with pc := p, cyc := o.cyc + 3 + jumpCost o p.toNat }
     let off := fun (w : Nat) => o.pc + BitVec.ofInt 16 (sgn w b.toNat * 4)
     let ends := fun (i : Instr) (o' : Eng) => exec i s = .next (putEng e o' (atTick e s))
     (∀ c : Bool, (fRd b, c) ∈ [(0, x == y), (1, x != y), (2, decide (x.toInt < y.toInt)), (3, decide (y.toInt ≤ x.toInt)),
         (4, decide (x.toNat < y.toNat)), (5, decide (y.toNat ≤ x.toNat))] →
       ends (.br e b) (if c then to' (off 14) else { o with pc := o.pc + 4, cyc := o.cyc + 1 })) ∧
     (∀ c : Bool, fRs1 b = 0 → (fRd b, c) ∈ [(0, flZ o), (1, !flZ o), (2, flN o), (3, !flN o), (4, flC o), (5, !flC o), (6, flV o),
         (7, !flV o), (8, flQ o), (9, !flQ o), (10, !flZ o && flN o == flV o), (11, flZ o || flN o != flV o), (12, true)] →
       ends (.bf e b) (if c then to' (off 18) else { o with pc := o.pc + 4, cyc := o.cyc + 1 })) ∧
     (fRd b = 0 → ends (.j e b) (to' (off 22))) ∧
     (fRs1 b = 0 → ∃ x, (∀ r < 16, xr { o with x := x } r = if r = fRd b ∧ fRd b ≠ 0 then (o.pc + 4).setWidth 32 else xr o r) ∧
       ends (.jal e b) { to' (off 18) with x := x }) ∧
     (fRs2 b = 0 → ∃ x, (∀ r < 16, xr { o with x := x } r = if r = fRd b ∧ fRd b ≠ 0 then (o.pc + 4).setWidth 32 else xr o r) ∧
       ends (.jalr e b) { to' (BitVec.ofNat 16 ((src1 b o + immS b).toNat / 4 * 4)) with x := x })) ∧
  (∀ (e : EngId) (s : State), Fetched e s →
     let o := getEng e s
     let ends := fun (i : Instr) (o' : Eng) => exec i s = .next (putEng e o' (atTick e s))
     (o.sb = [] → ends (.yield e 0) { o with phase := .yielded, yielded := true, pc := o.pc + 4, cyc := o.cyc + 1 }) ∧
     (o.sb = [] → s.store.winOpen = false → ends (.halt e 0) { o with
       phase := .halted, cause := 9, statCause := 9, bad := 0, haltEvt := true, pc := o.pc + 4, cyc := o.cyc + 1 }) ∧
     (∀ b : BitVec 26, b.toNat < 2 ^ 14 → o.exh = false → o.vec ≠ 0 →
       ends (.trap e b) (trapped 8 (BitVec.ofInt 16 (sgn 14 b.toNat)) (o.pc + 4) 4 o)) ∧
     (o.exh = true → ends (.eret e 0) { o with pc := o.epc, exh := false, cyc := o.cyc + 3 + jumpCost o o.epc.toNat }))

/-- An instruction that breaks a rule takes its exception (R370, R371). Illegal words have cause 0x01: a field that must be 0, a
function, a condition or a special register not listed for the engine, ERET outside a handler, a word of no instruction. A
misaligned address has cause 0x02, a store or a ring entry outside the engine's rights 0x03, a ring not owned 0x04, a pc outside
the code region 0x05, a line marked uncorrectable 0x06, on a fetch and on LDP, and an uncorrectable word of shared RAM 0x07. EPC
holds the instruction's pc and the handler runs; while a handler runs the engine halts with DOUBLE and keeps EPC; without a vector
it halts with NOVEC and keeps the code. The model's readings: a word of no instruction comes with LINE_BUFFER_FILL (log entry 11),
a pc that is no multiple of 4 is a fetch fault (log entry 14), a later fetch from a line already reported only takes its exception
(log entry 15), addresses are taken modulo 2^16 (log entry 16); its choice: a load of shared RAM spends its access before the 3
cycles of the exception, LDP does not (log entry 178). -/
def Obligations.ExceptionEntry : Prop :=
  (∀ (e : EngId) (b : BitVec 26) (s : State), Fetched e s →
     let o := getEng e s
     let a := dataAddr b o
     let c := (src1 b o).toNat % 2 ^ 16
     let n := (src2 b o).toNat % 32
     let m := fImm b
     let pe := e = .pe0 ∨ e = .pe1
     ∀ (i : Instr) (cause : Nat) (bad : Half),
       (cause = 1 ∧ bad = 0 ∧
           ((∃ p ∈ ([(.alu e b, 0x10 < m ∨ 0x0E ≤ m ∧ fRs2 b ≠ 0), (.addi e b, fRs2 b ≠ 0), (.andi e b, fRs2 b ≠ 0),
               (.ori e b, fRs2 b ≠ 0), (.xori e b, fRs2 b ≠ 0), (.slti e b, fRs2 b ≠ 0), (.sltiu e b, fRs2 b ≠ 0),
               (.shi e b, fRs2 b ≠ 0 ∨ 3 ≤ m / 2 ^ 12 ∨ m / 2 ^ 5 % 2 ^ 7 ≠ 0), (.lui e b, fRs1 b ≠ 0), (.li e b, fRs1 b ≠ 0),
               (.mulg e b, 4 ≤ m), (.divg e b, 4 ≤ m), (.amo e b, 4 ≤ m), (.ldb e b, fRs2 b ≠ 0), (.ldbu e b, fRs2 b ≠ 0),
               (.ldh e b, fRs2 b ≠ 0), (.ldhu e b, fRs2 b ≠ 0), (.ldw e b, fRs2 b ≠ 0), (.ldp e b, fRs2 b ≠ 0),
               (.stb e b, fRd b ≠ 0), (.sth e b, fRd b ≠ 0), (.stw e b, fRd b ≠ 0), (.br e b, 6 ≤ fRd b),
               (.bf e b, fRs1 b ≠ 0 ∨ 13 ≤ fRd b), (.jal e b, fRs1 b ≠ 0), (.jalr e b, fRs2 b ≠ 0), (.j e b, fRd b ≠ 0),
               (.yield e b, b ≠ 0), (.halt e b, b ≠ 0), (.eret e b, b ≠ 0 ∨ o.exh = false), (.trap e b, 2 ^ 14 ≤ b.toNat),
               (.mfs e b, fRs1 b ≠ 0 ∨ fRs2 b ≠ 0 ∨ 16 ≤ m ∨ 12 ≤ m ∧ ¬pe),
               (.mts e b, fRd b ≠ 0 ∨ fRs2 b ≠ 0 ∨ m ∉ [5, 6, 9, 10, 12, 13, 14, 15] ∨ m = 6 ∧ o.exh = false ∨ 12 ≤ m ∧ ¬pe),
               (.post e b, m ≠ 0), (.take e b, m ≠ 0)] : List (Instr × Prop)), p.1 = i ∧ p.2) ∨
             (∃ p ∈ ([(.macg e b, 4 ≤ m ∨ fRd b ≠ 0), (.accg e b, 3 ≤ m / 2 ^ 12 ∨ m / 2 ^ 6 % 2 ^ 6 ≠ 0 ∨ 2 ^ 12 ≤ m ∧ fRd b ≠ 0),
               (.qg e b, 4 ≤ m ∨ 2 ≤ m ∧ fRs2 b ≠ 0), (.cg e b, 7 ≤ m ∨ (m = 2 ∨ m = 3) ∧ fRd b ≠ 0), (.fng e b, 2 ≤ m ∨ fRs2 b ≠ 0),
               (.sqg e b, 2 ≤ m ∨ fRs2 b ≠ 0 ∨ m = 1 ∧ fRs1 b ≠ 0), (.divag e b, 2 ≤ m ∨ fRs2 b ≠ 0)] : List (Instr × Prop)),
               p.1 = i ∧ (e ≠ .csq ∨ p.2)) ∨
             (∃ (l : Bool), ∃ p ∈ ([(.cpush e b, fRd b ≠ 0 ∨ fRs2 b ≠ 0 ∨ m ≠ 0), (.cpop e b, fRs1 b ≠ 0 ∨ fRs2 b ≠ 0 ∨ m ≠ 0),
               (.cbit e b, fRs2 b ≠ 0 ∨ 32 ≤ m), (.wcls e b, fRs2 b ≠ 0 ∨ m ≠ 0), (.crc8 e b, m ≠ 0),
               (.pinr e b l, fRs1 b ≠ 0 ∨ fRs2 b ≠ 0 ∨ 2 ≤ m)] : List (Instr × Prop)), p.1 = i ∧ (¬pe ∨ p.2)) ∨
             (∃ (l : Fin 1024) (w : Word), i = .lineBufferFill e l (some w) ∧ l.val = o.pc.toNat / 64 ∧ decodeRaura e w = none)) ∨
         cause = 2 ∧
           (bad = BitVec.ofNat 16 a ∧
               (fRs2 b = 0 ∧ a % 4 ≠ 0 ∧ i ∈ [.ldw e b, .ldp e b] ∨ fRs2 b = 0 ∧ a % 2 ≠ 0 ∧ i ∈ [.ldh e b, .ldhu e b] ∨
                 fRd b = 0 ∧ a % 4 ≠ 0 ∧ i = .stw e b ∨ fRd b = 0 ∧ a % 2 ≠ 0 ∧ i = .sth e b) ∨
             bad = BitVec.ofNat 16 c ∧ c % 4 ≠ 0 ∧
               (m < 4 ∧ i = .amo e b ∨ m = 0 ∧ o.sb = [] ∧ n / 4 = engNo e ∧ i ∈ [.post e b, .take e b])) ∨
         cause = 3 ∧
           (bad = BitVec.ofNat 16 a ∧ fRd b = 0 ∧
               (∃ k, (k, i) ∈ [(1, .stb e b), (2, .sth e b), (4, .stw e b)] ∧ a % k = 0 ∧
                 (ramHi < a ∨ engRights e a = false ∨
                   ∃ w r, regOf a = some (w, r) ∧ isBuffer w = false ∧ (a ≠ w ∨ 8 * k < r.width))) ∨
             bad = BitVec.ofNat 16 c ∧ c % 4 = 0 ∧
               (m < 4 ∧ (c < ramLo ∨ ramHi < c) ∧ i = .amo e b ∨
                 m = 0 ∧ o.sb = [] ∧ n / 4 = engNo e ∧ (c < ramLo ∨ ramHi + 1 < c + 16) ∧ i ∈ [.post e b, .take e b])) ∨
         cause = 4 ∧ bad = BitVec.ofNat 16 n ∧ m = 0 ∧ o.sb = [] ∧ n / 4 ≠ engNo e ∧ i ∈ [.post e b, .take e b]) →
       (o.exh = false → o.vec ≠ 0 → Leaves e i (trapped cause bad o.pc 3 o) s) ∧
       (o.exh = true → Leaves e i { o with
         phase := .halted, cause := cause, statCause := cause, bad := bad, double := true, haltEvt := true, excEvt := true
         cyc := o.cyc + 3 } s) ∧
       (o.exh = false → o.vec = 0 → Leaves e i { o with
         phase := .halted, epc := o.pc, cause := cause, statCause := cause, bad := bad, exh := true, novec := true, haltEvt := true
         excEvt := true, cyc := o.cyc + 3 } s)) ∧
  (∀ (e : EngId) (i : Instr) (w : Word) (s : State), encodeRaura i = some (e, w) → canRun e s = true → Quiet s →
     (getEng e s).exh = false → (getEng e s).vec ≠ 0 →
     let o := getEng e s
     let l := o.pc.toNat / 64
     (pcOk o = false → Leaves e i (trapped 5 o.pc o.pc 3 o) s) ∧
     (pcOk o = true → lineBad o l = true →
       let first := o.lines.any (fun x => x.1 == l && x.2 == 1)
       ∃ t, exec i s = .next (settle t) ∧
         getEng e t = trapped 6 (BitVec.ofNat 16 (64 * l)) o.pc 3 { o with lines := (getEng e t).lines } ∧
         (getEng e t).lines.map (·.1) = o.lines.map (·.1) ∧ lineBad (getEng e t) l = true ∧
         t.evq = (if first then [⟨srcEccPs, 2, some (engNo e), b2n (actBank s) * 32768 + l⟩] else []) ∧
         t.store = { s.store with
           winFail := if first = true ∧ s.store.winOpen = true then s.store.winFail ||| 16 else s.store.winFail } ∧
         (first = true → fld GLB_PSECC_UNCOR t = min (fmax GLB_PSECC_UNCOR) (fld GLB_PSECC_UNCOR s + 1) ∧ fld GLB_PSECC_LINE t = l) ∧
         FieldsBut [GLB_PSECC_UNCOR, GLB_PSECC_LBANK, GLB_PSECC_LMARK, GLB_PSECC_LINE] s t ∧
         t = { putEng e (getEng e t) (atTick e s) with regs := t.regs, evq := t.evq, store := t.store })) ∧
  (∀ (e : EngId) (b : BitVec 26) (s : State), Fetched e s → fRs2 b = 0 → flag FLT_INJ_ARM s = false →
     (getEng e s).exh = false → (getEng e s).vec ≠ 0 →
     let o := getEng e s
     let a := dataAddr b o
     a % 4 = 0 →
     (2 ≤ lineErrAt (actBank s) (a / 64) s → ∃ t, exec (.ldp e b) s = .next (settle t) ∧
       getEng e t = trapped 6 (BitVec.ofNat 16 (a / 64 * 64)) o.pc 3 o ∧
       t.evq = [⟨srcEccPs, 2, some (engNo e), b2n (actBank s) * 32768 + a / 64⟩] ∧
       t.store = { s.store with winFail := if s.store.winOpen = true then s.store.winFail ||| 16 else s.store.winFail } ∧
       fld GLB_PSECC_UNCOR t = min (fmax GLB_PSECC_UNCOR) (fld GLB_PSECC_UNCOR s + 1) ∧ fld GLB_PSECC_LINE t = a / 64 ∧
       FieldsBut [GLB_PSECC_UNCOR, GLB_PSECC_LBANK, GLB_PSECC_LMARK, GLB_PSECC_LINE] s t ∧
       t = { putEng e (getEng e t) (atTick e s) with regs := t.regs, evq := t.evq, store := t.store }) ∧
     (o.sb = [] → ramLo ≤ a → a ≤ ramHi → 2 ≤ ramErrAt a s → ∃ t, ∃ w ≤ 4, exec (.ldw e b) s = .next (settle t) ∧
       t = { putEng e (trapped 7 (BitVec.ofNat 16 a) o.pc (5 + w) o) (atTick e s) with
         evq := [⟨srcEccRam, 2, some (engNo e), a⟩], seed := s.seed + 1 }))

/-- The special registers: what MFS reads, and what MTS writes; CT0 to TH1 belong to the pin engines. The model's readings: TH0
and TH1 keep bits [23:0] and read zeros above (log entry 21), and SFT is 200 plus the cycles used (log entry 13). -/
def Obligations.SpecialRegisters : Prop :=
  ∀ (e : EngId) (b : BitVec 26) (s : State), Fetched e s →
    let o := getEng e s
    let v := src1 b o
    (fRs1 b = 0 → fRs2 b = 0 → ∀ w : Word,
      (fImm b, w) ∈ [(0, BitVec.ofNat 32 (engNo e)), (1, BitVec.ofNat 32 (200 + o.cyc)), (2, s.clk.frm),
        (3, BitVec.ofNat 32 s.clk.fidx), (4, BitVec.ofNat 32 (1799 - o.cyc)), (5, BitVec.ofNat 32 (o.flags + if o.exh then 128 else 0)),
        (6, o.epc.setWidth 32), (7, BitVec.ofNat 32 o.cause), (8, o.bad.setWidth 32), (9, o.acc.setWidth 32),
        (10, (o.acc >>> 32).setWidth 32), (11, BitVec.ofNat 32 o.ovr)] ∨
      (e = .pe0 ∨ e = .pe1) ∧ (fImm b, w) ∈ [(12, o.ct0), (13, o.ct1), (14, o.th0), (15, o.th1)] →
      Completes e (.mfs e b) (fRd b) w [] 1 s) ∧
    (fRd b = 0 → fRs2 b = 0 → ∀ o' : Eng,
      (fImm b, o') ∈ [(5, { o with flags := v.toNat % 32 }), (9, { o with acc := o.acc.extractLsb' 32 32 ++ v }),
        (10, { o with acc := v ++ o.acc.extractLsb' 0 32 })] ∨
      o.exh = true ∧ (fImm b, o') = (6, { o with epc := v.setWidth 16 }) ∨
      (e = .pe0 ∨ e = .pe1) ∧ (fImm b, o') ∈ [(12, { o with ct0 := v }), (13, { o with ct1 := v }),
        (14, { o with th0 := v &&& 0xFFFFFF }), (15, { o with th1 := v &&& 0xFFFFFF })] →
      Leaves e (.mts e b) { o' with pc := o.pc + 4, cyc := o.cyc + 1 } s)

/-- POST takes the lowest free tag, keeps the 16 bytes of the entry and answers the tag; with the ring disabled or full it
answers 0xFFFF_FFFF and sets FULL; without a tag or its quota 0xFFFF_FFFE and NOTAG.
TAKE of an empty ring answers 0xFFFF_FFFF; otherwise the 16 bytes of the oldest completion are moved to the address, its
tag is answered and is free again. Of one clock a TAKE leaves a completion that is written in it, a POST sees the pool before another
owner's TAKE, and a write of RNG_CFGn before a POST is undone with CFGREF (R396). The model's readings: the address of the entry is taken
modulo 2^16 (log entry 16), and an engine's clock is the cycle at which its instruction ends (log entry 8). -/
def Obligations.PostAndTakeResults : Prop :=
  (∀ (e : EngId) (b : BitVec 26) (s : State), Fetched e s → RingsBefore (clockOf (some e) s) s → fImm b = 0 → (getEng e s).sb = [] →
     let o := getEng e s
     let n := (src2 b o).toNat % 32
     let a := (src1 b o).toNat % 2 ^ 16
     n / 4 = engNo e → a % 4 = 0 → ramLo ≤ a → a + 16 ≤ ramHi + 1 → (∀ k < 4, CleanAt (a + 4 * k) s) →
     ∃ t, ∃ w ≤ 16, exec (.post e b) s = .next t ∧
       t.rng.same = { s.rng.same with posted := (n, clockOf (some e) t) :: s.rng.same.posted.filter (fun r => r.1 != n) } ∧
       (ringEn n s = false ∨ ringDepth n s ≤ ringOut n s →
         Gives e (fRd b) 0xFFFFFFFF#32 [(0, false), (1, true)] (6 + w) s t ∧ flag (RNG_STAT_FULL n) t = true ∧
         FieldsBut [RNG_STAT_FULL n] s t ∧
         t = { putEng e (getEng e t) (atTick e s) with
           regs := t.regs, rng := { s.rng with same := t.rng.same }, seed := s.seed + 4 }) ∧
       (ringEn n s = true → ringOut n s < ringDepth n s →
         ((∀ k < 128, TagUsed k s) ∨ quota (ringOwner n) s ≤ tagsHeld (ringOwner n) s →
           Gives e (fRd b) 0xFFFFFFFE#32 [(0, false), (1, true)] (6 + w) s t ∧ flag (RNG_STAT_NOTAG n) t = true ∧
           FieldsBut [RNG_STAT_NOTAG n] s t ∧
           t = { putEng e (getEng e t) (atTick e s) with
             regs := t.regs, rng := { s.rng with same := t.rng.same }, seed := s.seed + 4 }) ∧
         (∀ k, LowestFree k s → tagsHeld (ringOwner n) s < quota (ringOwner n) s →
           Gives e (fRd b) (BitVec.ofNat 32 k) [(0, k == 0), (1, false)] (6 + w) s t ∧
           t.rng.tags = s.rng.tags ++ [⟨k, n, .queued, ramBytes a 16 s, 0⟩] ∧ FieldsBut [RNG_TAGSTAT_MINFREE] s t ∧
           t = { putEng e (getEng e t) (atTick e s) with
             regs := t.regs, rng := { s.rng with tags := t.rng.tags, same := t.rng.same }, seed := s.seed + 4 }))) ∧
  (∀ (e : EngId) (b : BitVec 26) (s : State), Legal s → Fetched e s → fImm b = 0 → (getEng e s).sb = [] →
     let o := getEng e s
     let n := (src2 b o).toNat % 32
     let a := (src1 b o).toNat % 2 ^ 16
     n / 4 = engNo e → a % 4 = 0 → ramLo ≤ a → a + 16 ≤ ramHi + 1 →
     ∃ t, ∃ w ≤ 16, exec (.take e b) s = .next t ∧
       (ringHead (clockOf (some e) t) n s = none →
         Gives e (fRd b) 0xFFFFFFFF#32 [(0, false), (1, true)] (6 + w) s t ∧
         t = { putEng e (getEng e t) (atTick e s) with seed := s.seed + 4 }) ∧
       (∀ k c, ringHead (clockOf (some e) t) n s = some (k, c) → k < 128 → c % 4 = 0 → ramLo ≤ c → c + 16 ≤ ramHi + 1 →
         (∀ j < 4, CleanAt (c + 4 * j) s) →
         Gives e (fRd b) (BitVec.ofNat 32 k) [(0, k == 0), (1, false)] (6 + w) s t ∧
         (∀ x, ramByte x t = if a ≤ x ∧ x < a + 16 then ramByte (c + (x - a)) s else ramByte x s) ∧
         t.rng.tags = s.rng.tags.filter (fun r => r.tag != k) ∧
         ringPtr n t = ((ringPtr n s).1, ((ringPtr n s).2 + 1) % ringDepth n s) ∧
         t.rng.same = { s.rng.same with
           freed := (k, clockOf (some e) t, ringOwner n) :: s.rng.same.freed.filter (fun r => r.1 != k) } ∧
         t = { putEng e (getEng e t) (atTick e s) with
           rng := { s.rng with tags := t.rng.tags, ptr := t.rng.ptr, same := t.rng.same }, mem := t.mem, ramErr := t.ramErr
           seed := s.seed + 4 })) ∧
  (∀ (c n : Nat) (s : State),
     (∀ k a, ringHead c n s = some (k, a) → (∀ r ∈ s.rng.same.ends, r.tag = k → r.clk ≠ c) ∧
       ∃ r ∈ s.rng.tags, r.tag = k ∧ r.ring = n ∧ r.st = .done ∧ r.slot = (ringPtr n s).2 ∧ a = ringBase n s + 16 * r.slot) ∧
     (∀ o k, postTag c o s = some k → k < 128 ∧ ¬TagUsed k s ∧ ∀ p ∈ s.rng.same.freed, p.1 = k → p.2.1 = c → p.2.2 = o) ∧
     (∀ (ent : List Byte) (r : CfgWas), r ∈ s.rng.same.cfgs → r.ring = n → r.clk = c → n < 32 →
       (∀ x ∈ s.rng.same.cfgs, x.ring = n → x = r) → r.cfg < 2 ^ 32 →
       let t := (ringPost c n ent s).2
       rd (RNG_CFG n) t = r.cfg ∧ ringPtr n t = r.ptr ∧ flag (RNG_STAT_CFGREF n) t = true))

/-- The accumulator instructions of CSQ: the accumulator takes the exact sum, and Q tells that it did not fit; RDA rounds and
limits, SETA and ADDA shift their operand in; the 64-bit division limits its quotient, and a divisor of 0 gives the greatest
magnitude with V and Q. The limited and complex arithmetic of CSQ, its square root and its functions: results, and the halves that
CMAC and CMSU add to, are limited to their width with Q, CMAG2 is the sum of the squares, EXP2 and LOG2 saturate outside their
ranges, and a square root is the greatest whole number whose square does not exceed. The model's readings: fields that RDA, SETA,
ADDA and CMAG2 do not list are ignored (log entry 17), DIVAG clears V where its divisor is not 0 (log entry 18), the sum of RDA is
exact (log entry 19). -/
def Obligations.AccumulatorResults : Prop :=
  (∀ (b : BitVec 26) (s : State), Fetched .csq s →
     let o := getEng .csq s
     let x := src1 b o
     let y := src2 b o
     (fImm b < 4 → fRd b = 0 → ∀ v : Int, (fImm b, v) ∈ [(0, o.acc.toInt + x.toInt * y.toInt), (1, o.acc.toInt - x.toInt * y.toInt),
         (2, (o.acc.toNat + x.toNat * y.toNat : Nat)), (3, x.toInt * y.toInt)] →
       ∃ f, (∀ i, bitOf f i = (bitOf o.flags i || decide (i = 4) &&
           (if fImm b = 2 then decide (2 ^ 64 ≤ v) else decide (v < -2 ^ 63 ∨ 2 ^ 63 ≤ v)))) ∧
         Leaves .csq (.macg .csq b) { o with acc := BitVec.ofInt 64 v, flags := f, pc := o.pc + 4, cyc := o.cyc + 2 } s) ∧
     (fImm b < 64 → let k := fImm b
       let v : Int := if k = 0 then o.acc.toInt else (o.acc.toInt + 2 ^ (k - 1)) / 2 ^ k
       ∃ (w : Word), w.toInt = max (-2 ^ 31) (min v (2 ^ 31 - 1)) ∧
         Completes .csq (.accg .csq b) (fRd b) w
           [(0, w == 0), (1, w.msb), (4, flQ o || decide (w.toInt ≠ v))] 1 s) ∧
     (∀ (k : Nat) (v : Int), k < 64 → fRd b = 0 →
       (fImm b, v) ∈ [(2 ^ 12 + k, x.toInt * 2 ^ k), (2 ^ 13 + k, o.acc.toInt + x.toInt * 2 ^ k)] →
       ∃ f, (∀ i, bitOf f i = (bitOf o.flags i || decide (i = 4) && decide (v < -2 ^ 63 ∨ 2 ^ 63 ≤ v))) ∧
         Leaves .csq (.accg .csq b) { o with acc := BitVec.ofInt 64 v, flags := f, pc := o.pc + 4, cyc := o.cyc + 1 } s) ∧
     (fImm b < 2 → fRs2 b = 0 →
       (x = 0 → let w := if fImm b = 0 ∧ o.acc.toInt < 0 then 0x80000000#32 else 0x7FFFFFFF#32
         Completes .csq (.divag .csq b) (fRd b) w [(0, false), (1, w.msb), (3, true), (4, true)] 36 s) ∧
       (x ≠ 0 → let v : Int := if fImm b = 0 then o.acc.toInt.tdiv x.toInt else (o.acc.toNat / x.toNat : Nat)
         ∃ w : Word, w.toInt = max (-2 ^ 31) (min v (2 ^ 31 - 1)) ∧
           Completes .csq (.divag .csq b) (fRd b) w
             [(0, w == 0), (1, w.msb), (3, false), (4, flQ o || decide (w.toInt ≠ v))] 36 s))) ∧
  (∀ (b : BitVec 26) (s : State), Fetched .csq s → fImm b < 64 →
     let o := getEng .csq s
     let x := src1 b o
     let y := src2 b o
     let re := fun (w : Word) => (w.extractLsb' 0 16).toInt
     let im := fun (w : Word) => (w.extractLsb' 16 16).toInt
     let lim := fun (n : Nat) (v : Int) => max (-2 ^ (n - 1)) (min v (2 ^ (n - 1) - 1))
     (∀ v : Int, (fImm b, v) ∈ [(0, x.toInt + y.toInt), (1, x.toInt - y.toInt), (2, |x.toInt|), (3, -x.toInt)] →
       (2 ≤ fImm b → fRs2 b = 0) →
       ∃ w : Word, w.toInt = lim 32 v ∧
         Completes .csq (.qg .csq b) (fRd b) w [(0, w == 0), (1, w.msb), (4, flQ o || decide (w.toInt ≠ v))] 1 s) ∧
     (∀ p q : Int, (fImm b, p, q) ∈ [(0, (re x * re y - im x * im y + 2 ^ 14) / 2 ^ 15, (re x * im y + im x * re y + 2 ^ 14) / 2 ^ 15),
         (1, (re x * re y + im x * im y + 2 ^ 14) / 2 ^ 15, (im x * re y - re x * im y + 2 ^ 14) / 2 ^ 15),
         (5, re x + re y, im x + im y), (6, re x - re y, im x - im y)] →
       ∃ w : Word, re w = lim 16 p ∧ im w = lim 16 q ∧
         Completes .csq (.cg .csq b) (fRd b) w
           [(0, w == 0), (1, w.msb), (4, flQ o || decide (re w ≠ p ∨ im w ≠ q))] (if fImm b < 2 then 2 else 1) s) ∧
     (∀ p q : Int, fRd b = 0 → let pr := re x * re y - im x * im y; let pi := re x * im y + im x * re y
       let ar := (o.acc.extractLsb' 0 32).toInt; let ai := (o.acc.extractLsb' 32 32).toInt
       (fImm b, p, q) ∈ [(2, ar + pr, ai + pi), (3, ar - pr, ai - pi)] →
       ∃ (acc : BitVec 64) (f : Nat), (acc.extractLsb' 0 32).toInt = lim 32 p ∧ (acc.extractLsb' 32 32).toInt = lim 32 q ∧
         (∀ i, bitOf f i = (bitOf o.flags i || decide (i = 4) && decide (lim 32 p ≠ p ∨ lim 32 q ≠ q))) ∧
         Leaves .csq (.cg .csq b) { o with acc := acc, flags := f, pc := o.pc + 4, cyc := o.cyc + 2 } s) ∧
     (fImm b = 4 → ∃ w : Word, (w.toNat : Int) = re x ^ 2 + im x ^ 2 ∧
       Completes .csq (.cg .csq b) (fRd b) w [(0, w == 0), (1, w.msb)] 1 s) ∧
     (fImm b < 2 → fRs2 b = 0 → (fImm b = 1 → fRs1 b = 0) →
       let n := if fImm b = 0 then x.toNat else o.acc.toNat
       ∃ w : Word, w.toNat ^ 2 ≤ n ∧ n < (w.toNat + 1) ^ 2 ∧
         Completes .csq (.sqg .csq b) (fRd b) w [(0, w == 0), (1, w.msb)] (if fImm b = 0 then 18 else 34) s) ∧
     (fImm b < 2 → fRs2 b = 0 → ∃ (w : Word) (q : Bool),
       Completes .csq (.fng .csq b) (fRd b) w [(0, w == 0), (1, w.msb), (4, flQ o || q)] 10 s ∧
       (fImm b = 0 → (16 * 65536 ≤ x.toInt → w = 0xFFFFFFFF#32 ∧ q = true) ∧ (x.toInt < -(16 * 65536) → w = 0 ∧ q = false) ∧
         (-(16 * 65536) ≤ x.toInt → x.toInt < 16 * 65536 → q = false)) ∧
       (fImm b = 1 → (x = 0 → w = 0x80000000#32 ∧ q = true) ∧ (x ≠ 0 → q = false))))

/-- The pin engines' instructions: bit cells, pulse classes, CRC, the line's level as the rest of the line leaves it and the sequencer
pulls it, and the FIFOs. A push goes the way of a write to the sequencer's register: it waits behind a running cell, with the
sequencer disabled or with the lines released, starts at once in an idle enabled one, where a MARK of an owned pin gives its tag at
once and a reserved OP flushes with BADOP; into a full FIFO it is dropped with TXOVF and C set. The model's readings: a cell pushed while the
lines are released waits in the FIFO (log entry 116), and the running cell holds its place there (log entry 196). -/
def Obligations.PinResults : Prop :=
  ∀ (e : EngId) (b : BitVec 26) (s : State), e = .pe0 ∨ e = .pe1 → Fetched e s →
    let o := getEng e s
    let x := src1 b o
    let k := engNo e - 2
    (fRs2 b = 0 → fImm b < 32 → Completes e (.cbit e b) (fRd b) (if x.getLsbD (fImm b) then o.ct1 else o.ct0) [] 1 s) ∧
    (fRs2 b = 0 → fImm b = 0 →
      let t := x.toNat % 2 ^ 24
      let v := if x = 0 ∨ x.getLsbD 28 = true then 0xFFFFFFFF#32 else if t < o.th0.toNat % 2 ^ 24 then 1#32
        else if t < o.th1.toNat % 2 ^ 24 then 0#32 else 0xFFFFFFFF#32
      Completes e (.wcls e b) (fRd b) v [(0, v == 0), (1, v.msb)] 1 s) ∧
    (fImm b = 0 → ∃ v : Word, v.toNat < 256 ∧ (v.setWidth 8 = crc8Byte (x.setWidth 8) ((src2 b o).setWidth 8)) ∧
      Completes e (.crc8 e b) (fRd b) v [(0, v == 0)] 1 s) ∧
    (fRs1 b = 0 → fRs2 b = 0 → fImm b < 2 →
      ∀ lvl : Bool, let l := lvl && !drivenLow (decide (fImm b = 1)) s
      ∃ t, exec (.pinr e b lvl) s = .next t ∧ Gives e (fRd b) (if l then 1 else 0) [(0, !l)] 1 s t ∧
        t = { putEng e (getEng e t) (atTick e s) with
          pk := if fImm b = 0 then { s.pk with lvlD := lvl } else { s.pk with lvlC := lvl } }) ∧
    (fRs1 b = 0 → fRs2 b = 0 → fImm b = 0 →
      let v := ((getSeq k s).rx.head?).getD 0
      ∃ t, exec (.cpop e b) s = .next t ∧ Gives e (fRd b) v [(0, v == 0), (1, v.msb)] 2 s t ∧
        getSeq k t = { getSeq k s with rx := (getSeq k s).rx.drop 1 } ∧ getSeq (1 - k) t = getSeq (1 - k) s ∧
        t = { putEng e (getEng e t) (atTick e s) with pk := t.pk }) ∧
    (fRd b = 0 → fRs2 b = 0 → fImm b = 0 →
      (32 ≤ (getSeq k s).tx.length + b2n (getSeq k s).run.isSome → ∃ t, exec (.cpush e b) s = .next t ∧ Gives e 0 0 [(2, true)] 1 s t ∧
        flag (PKP_SEQSTAT_TXOVF k) t = true ∧ FieldsBut [PKP_SEQSTAT_TXOVF k] s t ∧
        t = { putEng e (getEng e t) (atTick e s) with regs := t.regs }) ∧
      ((getSeq k s).tx.length + b2n (getSeq k s).run.isSome < 32 → flag (PKP_SEQCTL_EN k) s = false ∨ (getSeq k s).run.isSome ∨ padsOff s = true →
        ∃ t, exec (.cpush e b) s = .next t ∧ Gives e 0 0 [(2, false)] 1 s t ∧
          getSeq k t = { getSeq k s with tx := (getSeq k s).tx ++ [x] } ∧ getSeq (1 - k) t = getSeq (1 - k) s ∧
          t = { putEng e (getEng e t) (atTick e s) with pk := t.pk }) ∧
      ((getSeq k s).tx = [] → (getSeq k s).run = none → flag (PKP_SEQCTL_EN k) s = true → padsOff s = false →
        ∃ t, exec (.cpush e b) s = .next t ∧ Gives e 0 0 [(2, false)] 1 s t ∧ getSeq (1 - k) t = getSeq (1 - k) s ∧
          t = { putEng e (getEng e t) (atTick e s) with pk := t.pk, regs := t.regs } ∧
          (x.toNat / 2 ^ 29 < 5 → getSeq k t = { getSeq k s with tx := [], run := some x } ∧ t.regs = s.regs) ∧
          (x.toNat / 2 ^ 29 = 5 → (getSeq k s).rx.length < 16 →
            (if bitOf x.toNat 28 then fld PKP_OWN_PKC s else fld PKP_OWN_PKD s) = k + 1 →
            getSeq k t = { getSeq k s with rx := (getSeq k s).rx ++ [BitVec.ofNat 32 (5 * 2 ^ 29 + bitsOf x.toNat 26 16)] } ∧
            t.regs = s.regs) ∧
          (6 ≤ x.toNat / 2 ^ 29 → getSeq k t = getSeq k s ∧ flag (PKP_SEQSTAT_BADOP k) t = true ∧
            FieldsBut [PKP_SEQSTAT_BADOP k] s t)))

/-! ## USB-C port -/

/-- Attach, detach and the Rp level of the USB-C port, and the messages it receives: each is acknowledged, a repeat of the last
MessageID does nothing more, and what each other one sets, clears, delivers and answers. The model's readings and choices: when BUSY
ends and TXRES 0x03 at a detach (log entries 62, 63), a Soft_Reset is never a repeat (presumed, log entry 115), RPLVL keeps its level
over a detach (log entry 160) and has its filter of 10 reads under a contract too (log entry 194), a port that has stopped sending
ignores what it receives (log entry 193). -/
def Obligations.TypecRows : Prop :=
  ∀ s : State, Ready s →
    (∀ cc2 : Bool,
      (flag TCP_STAT_ATT s = true → exec (.typecAttach cc2) s = .next s) ∧
      (flag TCP_STAT_ATT s = false → ∃ t, exec (.typecAttach cc2) s = .next t ∧ flag TCP_STAT_ATT t = true ∧ flag TCP_STAT_POL t = cc2 ∧
        FieldsBut [TCP_STAT_ATT, TCP_STAT_POL] s t ∧ t = { s with regs := t.regs, tcp := { s.tcp with
          waitCap := true, hrCnt := 0, stopped := false, hrOff := false, hrGone := false, rpCnt := 0 } })) ∧
    (∀ vbus : Bool,
      (flag TCP_STAT_ATT s = false ∨ vbus = false ∧ flag TCP_STAT_CONTRACT s = true → exec (.typecDetach vbus) s = .next s) ∧
      (flag TCP_STAT_ATT s = true → vbus = true ∨ flag TCP_STAT_CONTRACT s = false → ∃ t, exec (.typecDetach vbus) s = .next t ∧
        flag TCP_STAT_ATT t = false ∧ rd TCP_CONTRACT t = 0 ∧ flag TCP_STAT_CONTRACT t = false ∧ flag TCP_STAT_EPR t = false ∧
        flag TCP_STAT_PSTRANS t = false ∧ flag TCP_STAT_BUSY t = false ∧ t.tcp.tx = none ∧ t.tcp.held = [] ∧
        t.tcp.asked = none ∧ t.tcp.trans = none ∧ t.tcp.caps = [] ∧
        (flag TCP_STAT_BUSY s = true → fld TCP_TXRES_RES t = 3) ∧
        FieldsBut [TCP_STAT_ATT, whole TCP_CONTRACT, TCP_STAT_CONTRACT, TCP_STAT_EPR, TCP_STAT_PSTRANS, TCP_STAT_BUSY,
          TCP_TXRES_RES] s t ∧ t = { s with regs := t.regs, tcp := t.tcp })) ∧
    (∀ mv : Nat, flag TCP_STAT_ATT s = true →
      (rpBand mv = s.tcp.rpCand → s.tcp.rpCnt = 9 → s.tcp.held = [] → ∃ t, exec (.rpLevelRead mv) s = .next t ∧
        fld TCP_STAT_RPLVL t = rpBand mv ∧ FieldsBut [TCP_STAT_RPLVL] s t ∧
        t = { s with regs := t.regs, tcp := { s.tcp with rpCnt := 10 } }) ∧
      (rpBand mv ≠ s.tcp.rpCand → exec (.rpLevelRead mv) s = .next { s with tcp := { s.tcp with rpCand := rpBand mv, rpCnt := 1 } })) ∧
    (∀ id : BitVec 3, ∀ c ∈ [Instr.pingRx id, .acceptRx id, .rejectRx id, .waitRx id, .psRdyRx id, .eprKeepaliveAckRx id,
        .unsupportedMessageRx id],
      (tcpHears s = false → exec c s = .next s) ∧
      (tcpHears s = true → s.tcp.rxId = some id.toNat → exec c s = .next { s with tcp := { s.tcp with ack := some id.toNat } })) ∧
    (tcpHears s = true →
      (∀ id : BitVec 3, s.tcp.rxId ≠ some id.toNat →
        let c := { s.tcp with ack := some id.toNat, rxId := some id.toNat }
        exec (.pingRx id) s = .next { s with tcp := c } ∧
        exec (.eprKeepaliveAckRx id) s = .next { s with tcp := { c with kaWait := false } } ∧
        (s.tcp.wait = .reply →
          (∃ t, exec (.acceptRx id) s = .next t ∧ flag TCP_STAT_PSTRANS t = true ∧
            (s.tcp.asked.any (·.2) = true → flag TCP_STAT_BUSY s = true → fld TCP_TXRES_RES t = 7) ∧
            FieldsBut [TCP_STAT_PSTRANS, TCP_TXRES_RES] s t ∧
            t = { s with regs := t.regs, tcp := { c with wait := .none, asked := none, trans := s.tcp.asked } }) ∧
          (∀ (i : Instr) (r : Nat), i = .rejectRx id ∧ r = 8 ∨ i = .waitRx id ∧ r = 9 → ∃ t, exec i s = .next t ∧
            (s.tcp.asked.any (·.2) = true → flag TCP_STAT_BUSY s = true → fld TCP_TXRES_RES t = r ∧ flag TCP_STAT_BUSY t = false) ∧
            FieldsBut [TCP_STAT_BUSY, TCP_TXRES_RES] s t ∧
            t = { s with regs := t.regs, tcp := { c with wait := .none, asked := none } })) ∧
        (∀ (d : TcpDeal) (cmd : Bool), flag TCP_STAT_PSTRANS s = true → s.tcp.trans = some (d, cmd) → d.pos < 16 → d.i < 8192 → d.v < 8192 →
          ∃ t, exec (.psRdyRx id) s = .next t ∧ flag TCP_CONTRACT_AVS t = d.avs ∧ fld TCP_CONTRACT_POS t = d.pos ∧
            fld TCP_CONTRACT_I t = d.i ∧ fld TCP_CONTRACT_V t = d.v ∧ flag TCP_STAT_CONTRACT t = true ∧
            flag TCP_STAT_PSTRANS t = false ∧
            (cmd = true → flag TCP_STAT_BUSY s = true → fld TCP_TXRES_RES t = 0xA ∧ flag TCP_STAT_BUSY t = false) ∧
            FieldsBut [TCP_CONTRACT_AVS, TCP_CONTRACT_POS, TCP_CONTRACT_I, TCP_CONTRACT_V, TCP_STAT_CONTRACT, TCP_STAT_PSTRANS,
              TCP_STAT_BUSY, TCP_TXRES_RES] s t ∧ t = { s with regs := t.regs, tcp := { c with trans := none } }) ∧
        (s.tcp.tx = none → ∃ t, exec (.unsupportedMessageRx id) s = .next t ∧ fld TCP_CNT_NS t = min 255 (fld TCP_CNT_NS s + 1) ∧
          FieldsBut [TCP_CNT_NS] s t ∧ t = { s with regs := t.regs, tcp := { c with tx := some (.notSupported, 0), txCmd := false } }) ∧
        (s.tcp.tx.isSome = true → exec (.unsupportedMessageRx id) s = .next { s with
          tcp := { c with txq := s.tcp.txq ++ [(.notSupported, false)] } })) ∧
      (∀ hdr : BitVec 16, ∃ t, exec (.softResetRx hdr) s = .next t ∧ flag TCP_STAT_SRSTEVT t = true ∧
        fld TCP_CNT_SRST t = min 255 (fld TCP_CNT_SRST s + 1) ∧ flag TCP_RXSTAT_RDY t = true ∧
        (flag TCP_RXSTAT_RDY s = true → flag TCP_RXSTAT_OVW t = true) ∧ fld TCP_RXSTAT_LEN t = 2 ∧
        fld ⟨TCP_RXBUF 0, 15, 0⟩ t = hdr.toNat ∧ t.tcp.txId = 0 ∧ t.tcp.rxId = some (hdrId hdr) ∧ t.tcp.waitCap = true ∧
        (s.tcp.tx = none → t.tcp.tx = some (.accept, 0)) ∧
        (s.tcp.tx.isSome = true → t.tcp.tx = s.tcp.tx ∧ t.tcp.txq = s.tcp.txq ++ [(.accept, false)]) ∧
        t = { s with regs := t.regs, tcp := t.tcp }) ∧
      (∀ (act : EprAct) (hdr : BitVec 16) (objs : List Word), s.tcp.rxId ≠ some (hdrId hdr) →
        ∃ t, exec (.eprModeRx act hdr objs) s = .next t ∧
        flag TCP_RXSTAT_RDY t = true ∧ fld ⟨TCP_RXBUF 0, 15, 0⟩ t = hdr.toNat ∧
        flag TCP_STAT_EPR t = (match act with
          | .enterSucceeded => flag TCP_STAT_EPR s || s.tcp.eprWait | .exit => false | _ => flag TCP_STAT_EPR s) ∧
        (act = .enterAck ∨ act = .enterFailed → s.tcp.enterWait = true → t.tcp.enterWait = false ∧
          t.tcp.eprWait = decide (act = .enterAck) ∧
          (flag TCP_STAT_BUSY s = true → fld TCP_TXRES_RES t = 2 ∧ flag TCP_STAT_BUSY t = false)) ∧
        (act = .enterSucceeded ∨ act = .exit → t.tcp.eprWait = false) ∧
        (act = .exit → t.tcp.kaWait = false ∧ ∀ x ∈ t.tcp.txq ++ t.tcp.held, x.1 ≠ .keepAlive) ∧
        t.tcp.wait = s.tcp.wait ∧ t = { s with regs := t.regs, tcp := t.tcp }) ∧
      (∀ (epr : Bool) (hdr : BitVec 16) (objs : List Word), s.tcp.rxId ≠ some (hdrId hdr) → s.tcp.txq = [] →
        ∃ t, exec (.sourceCapabilitiesRx epr hdr objs) s = .next t ∧ t.tcp.caps = objs.take 11 ∧
          t.tcp.capsEpr = epr ∧ t.tcp.waitCap = false ∧ flag TCP_RXSTAT_RDY t = true ∧ fld ⟨TCP_RXBUF 0, 15, 0⟩ t = hdr.toNat ∧
          (tcpFixed s = false → t.tcp.wait = .request ∧ t = { s with regs := t.regs, tcp := t.tcp })) ∧
      (∀ (act : EprAct) (epr : Bool) (hdr : BitVec 16) (objs : List Word), s.tcp.rxId = some (hdrId hdr) →
        ∀ c ∈ [Instr.eprModeRx act hdr objs, .sourceCapabilitiesRx epr hdr objs],
          exec c s = .next { s with tcp := { s.tcp with ack := some (hdrId hdr) } })) ∧
    (flag TCP_STAT_ATT s = true → ∃ t, exec .hardResetRx s = .next (settle t) ∧ flag TCP_STAT_HRSTEVT t = true ∧
      flag TCP_STAT_CONTRACT t = false ∧ flag TCP_STAT_BUSY t = false ∧ fld (HUB_PSTAT_TYPE 3) t = 0 ∧ t.tcp.tx = none ∧
      t.tcp.hrOff = true ∧ t.tcp.waitCap = true) ∧
    (flag TCP_STAT_ATT s = false → exec .hardResetRx s = .next s)

/-- The timers of the USB-C port and the acknowledgement of a message: retries, resets and TCP_ERR, which a Request that never
left after received capabilities does not raise. The message that waits leaves next, or is held where it begins a sequence that
the source's Rp forbids. The commands of HSQ to the USB-C port: ignored while BUSY; a request that fails its check, and an entry
to EPR in any state but that of R235, are refused with 0x06 whether or not the port sends; a request that passes is sent; the
others are sent, or held while the source's Rp forbids a sink's sequence, and take effect when they leave. A command written has
its parity written too (R522). The model's readings and choices: GoodCRC ends BUSY of the other messages (log entry 62), a command
that a check refuses gets 0x06 whether or not the port sends (log entry 161), which of the two commands may name an AVS object (log entry 208),
and a Request that waits for S3's release leaves with no new check (log entry 209). -/
def Obligations.TypecTimersAndCommands : Prop :=
  (∀ s : State, vccOn s = true →
     (tcpHears s = true →
       (s.tcp.waitCap = true → s.tcp.hrCnt < 2 → ∃ t, exec .sinkWaitCapTimer s = .next (settle t) ∧ flag TCP_STAT_HRSTEVT t = true ∧
         t.tcp.hrCnt = s.tcp.hrCnt + 1 ∧ t.tcp.waitCap = true ∧ flag TCP_STAT_CONTRACT t = false) ∧
       (s.tcp.waitCap = true → 2 ≤ s.tcp.hrCnt → ∃ t, exec .sinkWaitCapTimer s = .next (settle t) ∧ flag TCP_STAT_ERREVT t = true ∧
         t.evq = s.evq ++ [⟨srcTcpErr, 2, some uTcp, 0⟩] ∧ FieldsBut [TCP_STAT_ERREVT] s t ∧
         t = { s with regs := t.regs, evq := t.evq, tcp := { s.tcp with waitCap := false, stopped := true, hrOff := false, hrGone := false } }) ∧
       (s.tcp.wait = .reply ∨ s.tcp.enterWait = true ∨ s.tcp.kaWait = true →
         ∃ t, exec .senderResponseTimer s = .next (settle t) ∧ flag TCP_STAT_ERREVT t = true ∧
         flag TCP_STAT_HRSTEVT t = true ∧ ⟨srcTcpErr, 2, some uTcp, 0⟩ ∈ t.evq ∧ t.tcp.wait = .none ∧
         t.tcp.enterWait = false ∧ t.tcp.kaWait = false) ∧
       (s.tcp.wait = .request → s.tcp.enterWait = false → s.tcp.kaWait = false →
         ∃ t, exec .senderResponseTimer s = .next (settle t) ∧ flag TCP_STAT_ERREVT t = flag TCP_STAT_ERREVT s ∧
         flag TCP_STAT_HRSTEVT t = true ∧ (∀ x ∈ t.evq, x.src = srcTcpErr → x ∈ s.evq) ∧ t.tcp.wait = .none) ∧
       (Quiet s → s.tcp.wait = .none → s.tcp.enterWait = false → s.tcp.kaWait = false → exec .senderResponseTimer s = .next s) ∧
       (flag TCP_STAT_PSTRANS s = true → ∃ t, exec .psTransitionTimer s = .next (settle t) ∧ flag TCP_STAT_ERREVT t = true ∧
         flag TCP_STAT_HRSTEVT t = true ∧ ⟨srcTcpErr, 2, some uTcp, 0⟩ ∈ t.evq ∧ flag TCP_STAT_PSTRANS t = false) ∧
       (Quiet s → flag TCP_STAT_EPR s = true → kaPending s = false → s.tcp.tx = none →
         exec .eprKeepaliveTimer s = .next { s with tcp := if tcpHolds s then { s.tcp with held := s.tcp.held ++ [(.keepAlive, false)] }
           else { s.tcp with tx := some (.keepAlive, 0), txCmd := false } }) ∧
       (Quiet s → flag TCP_STAT_EPR s = false ∨ kaPending s = true → exec .eprKeepaliveTimer s = .next s)) ∧
     (Quiet s → exec .eprEntryTimeout s = .next { s with tcp := { s.tcp with eprWait := false } }) ∧
     (tcpSends s = true → ∀ (m : TcpMsg) (n : Nat), s.tcp.tx = some (m, n) →
       (Quiet s → n < 2 → ∃ t, exec .retransmissionTimer s = .next t ∧ t.tcp.tx = some (m, n + 1) ∧
         fld TCP_CNT_RETRY t = min 255 (fld TCP_CNT_RETRY s + 1) ∧ FieldsBut [TCP_CNT_RETRY] s t ∧
         t = { s with regs := t.regs, tcp := { s.tcp with tx := some (m, n + 1) } }) ∧
       (2 ≤ n → ∃ t, exec .retransmissionTimer s = .next (settle t) ∧ flag TCP_STAT_ERREVT t = true ∧
         ⟨srcTcpErr, 2, some uTcp, 0⟩ ∈ t.evq ∧
         (s.tcp.txCmd = true → flag TCP_STAT_BUSY s = true → fld TCP_TXRES_RES t = 3 ∧ flag TCP_STAT_BUSY t = false) ∧
         (m ≠ .softReset → tcpHolds s = false → t.tcp.tx = some (.softReset, 0) ∧ flag TCP_STAT_SRSTEVT t = true) ∧
         (m ≠ .softReset → tcpHolds s = true → (.softReset, false) ∈ t.tcp.held) ∧
         (m = .softReset → t.tcp.tx = none ∧ flag TCP_STAT_HRSTEVT t = true))) ∧
     (Quiet s → s.tcp.tx = none → exec .goodcrcReceived s = .next s ∧ exec .retransmissionTimer s = .next s) ∧
     (Quiet s → ∀ (m : TcpMsg) (n : Nat), s.tcp.tx = some (m, n) → s.tcp.txq = [] → ∃ t, exec .goodcrcReceived s = .next t ∧
       t.tcp.tx = none ∧ t.tcp.txId = (s.tcp.txId + 1) % 8 ∧ (m.isRequest = true → t.tcp.wait = .reply) ∧
       t.tcp.asked = (if m.isRequest then (m.deal s).map (fun d => (d, s.tcp.txCmd)) else s.tcp.asked) ∧ t.tcp.trans = s.tcp.trans ∧
       (m.isRequest = false → t.tcp.wait = s.tcp.wait) ∧
       (∀ r, m = .eprEnter r → t.tcp.enterWait = true) ∧ (m = .keepAlive → t.tcp.kaWait = flag TCP_STAT_EPR s) ∧
       (s.tcp.txCmd = true → flag TCP_STAT_BUSY s = true → m = .getSourceCap ∨ m = .eprExit ∨ m = .softReset →
         fld TCP_TXRES_RES t = 2 ∧ flag TCP_STAT_BUSY t = false) ∧
       FieldsBut [TCP_TXRES_RES, TCP_STAT_BUSY] s t ∧ t = { s with regs := t.regs, tcp := t.tcp }) ∧
     (Quiet s → tcpSends s = true → ∀ (x : TcpMsg × Nat) (m : TcpMsg) (c : Bool) (l : List (TcpMsg × Bool)),
       s.tcp.tx = some x → s.tcp.txq = (m, c) :: l →
       (m = .accept ∨ m = .notSupported ∨
           tcpHolds s = false ∧ (m.isRequest = true → (m.deal s).any (fun d => lowersS3 d s) = false) →
         ∃ t, exec .goodcrcReceived s = .next t ∧ t.tcp.tx = some (m, 0) ∧ (m ≠ .eprExit → t.tcp.txq = l) ∧ t.tcp.txCmd = c ∧
           t = { s with regs := t.regs, tcp := t.tcp }) ∧
       (tcpHolds s = true → m.isRequest = false → m ≠ .accept → m ≠ .notSupported → l = [] →
         ∃ t, exec .goodcrcReceived s = .next t ∧ t.tcp.tx = none ∧ t.tcp.txq = [] ∧ t.tcp.held = s.tcp.held ++ [(m, c)] ∧
           t = { s with regs := t.regs, tcp := t.tcp }))) ∧
  (∀ s : State, Ready s →
     (∀ c ∈ [Instr.pdRequest, .eprRequest, .getSourceCap, .eprModeEnter, .eprModeExit, .softResetCmd, .hardResetCmd],
       flag TCP_STAT_BUSY s = true → exec c s = .next s) ∧
     (flag TCP_STAT_BUSY s = false → ∀ (c : Instr) (k : Nat),
       c = .pdRequest ∧ k = 1 ∧ rdoOk (txObj s) false s = false ∨ c = .eprRequest ∧ k = 2 ∧ rdoOk (txObj s) true s = false ∨
         c = .eprModeEnter ∧ k = 4 ∧ (flag TCP_STAT_CONTRACT s = false ∨ flag TCP_CONTRACT_AVS s = true ∨ flag TCP_STAT_EPR s = true ∨
           capsEprOk s = false) →
       ∃ t, exec c s = .next t ∧ fld TCP_TXRES_RES t = 6 ∧ rd TCP_TXCMD t = k ∧
         FieldsBut [whole TCP_TXCMD, TCP_TXRES_RES] s t ∧ t = { parWrite TCP_TXCMD 0xFF s with regs := t.regs }) ∧
     (flag TCP_STAT_BUSY s = false → tcpSends s = true →
       (∀ (epr : Bool) (c : Instr) (k : Nat), epr = false ∧ c = .pdRequest ∧ k = 1 ∨ epr = true ∧ c = .eprRequest ∧ k = 2 →
         let r := txObj s
         (∀ d, rdoOk r epr s = true → rdoDeal r s = some d →
           (tcpHolds s = false ∨ s.tcp.wait = .request) → lowersS3 d s = false → s.tcp.tx = none →
           ∃ t, exec c s = .next t ∧ fld TCP_TXRES_RES t = 1 ∧ flag TCP_STAT_BUSY t = true ∧ rd TCP_TXCMD t = k ∧
             FieldsBut [whole TCP_TXCMD, TCP_TXRES_RES, TCP_STAT_BUSY] s t ∧
             t = { parWrite TCP_TXCMD 0xFF s with regs := t.regs, tcp := { s.tcp with
               txCmd := true, wait := if s.tcp.wait = .request then .none else s.tcp.wait
               tx := some ((if epr then .eprRequest r ((rdoPdo r s).getD 0) else .request r), 0) } }) ∧
         (∀ d, rdoOk r epr s = true → rdoDeal r s = some d → tcpHolds s = true → s.tcp.wait ≠ .request →
           ∃ t, exec c s = .next t ∧ fld TCP_TXRES_RES t = 1 ∧ flag TCP_STAT_BUSY t = true ∧ rd TCP_TXCMD t = k ∧
             FieldsBut [whole TCP_TXCMD, TCP_TXRES_RES, TCP_STAT_BUSY] s t ∧
             t = { parWrite TCP_TXCMD 0xFF s with regs := t.regs, tcp := { s.tcp with
               held := s.tcp.held ++ [((if epr then .eprRequest r ((rdoPdo r s).getD 0) else .request r), true)] } })) ∧
       (∀ (c : Instr) (m : TcpMsg) (k : Nat),
         (c = .getSourceCap ∧ m = .getSourceCap ∧ k = 3 ∨
           c = .eprModeEnter ∧ m = .eprEnter (txObj s) ∧ k = 4 ∧ flag TCP_STAT_CONTRACT s = true ∧ flag TCP_CONTRACT_AVS s = false ∧
             flag TCP_STAT_EPR s = false ∧ capsEprOk s = true ∨
           c = .eprModeExit ∧ m = .eprExit ∧ k = 5 ∨ c = .softResetCmd ∧ m = .softReset ∧ k = 6) →
         s.tcp.tx = none → ∃ t, exec c s = .next t ∧ fld TCP_TXRES_RES t = 1 ∧ flag TCP_STAT_BUSY t = true ∧ rd TCP_TXCMD t = k ∧
           (tcpHolds s = true → t.tcp.held = s.tcp.held ++ [(m, true)] ∧ flag TCP_STAT_EPR t = flag TCP_STAT_EPR s ∧
             t.tcp.txId = s.tcp.txId) ∧
           (tcpHolds s = false → t.tcp.tx = some (m, 0) ∧ t.tcp.txCmd = true ∧ (k = 5 → flag TCP_STAT_EPR t = false) ∧
             (k = 6 → flag TCP_STAT_SRSTEVT t = true ∧ t.tcp.txId = 0 ∧ t.tcp.waitCap = true)) ∧
           FieldsBut [whole TCP_TXCMD, TCP_TXRES_RES, TCP_STAT_BUSY, TCP_STAT_EPR, TCP_STAT_SRSTEVT, TCP_CNT_SRST] s t ∧
           t = { parWrite TCP_TXCMD 0xFF s with regs := t.regs, tcp := t.tcp }) ∧
       (∃ t, exec .hardResetCmd s = .next (settle t) ∧ fld TCP_TXRES_RES t = 2 ∧ rd TCP_TXCMD t = 7 ∧ flag TCP_STAT_HRSTEVT t = true ∧
         flag TCP_STAT_CONTRACT t = false ∧ fld (HUB_PSTAT_TYPE 3) t = 0 ∧ t.tcp.tx = none)) ∧
     (∀ (m : TcpMsg) (c : Bool), s.tcp.defer = some (m, c) → m.isRequest = true → portSt 3 s ≠ 4 →
       (tcpHolds s = false ∨ s.tcp.wait = .request → tcpSends s = true → s.tcp.tx = none →
         exec .pdRequestAfterRelease s = .next { s with tcp := { s.tcp with
           defer := none, tx := some (m, 0), txCmd := c, wait := if s.tcp.wait = .request then .none else s.tcp.wait } }) ∧
       (tcpHolds s = true → s.tcp.wait ≠ .request → exec .pdRequestAfterRelease s = .next { s with tcp := { s.tcp with
         defer := none, held := s.tcp.held ++ [(m, c)] } })) ∧
     (s.tcp.defer = none ∨ portSt 3 s = 4 → exec .pdRequestAfterRelease s = .next s))

/-! ## Charge control -/

/-- The descriptor latch: asked for in a state that allows it; a descriptor that passes its checks fills the latch, the first
check that fails is reported, and one whose state was left since is discarded; the pins a filled latch names give presence (R253).
The rows of charge control that time or a condition brings: a hardware row waits for the next tick in the states it applies in;
the band, RECHG, PK_DG, the ramp and the lamps follow their rules at once. A move to the normal band needs the temperature 1 °C
inside it, and the exit from SUSPEND_TEMP 2 °C inside the band in force (R266); the unknown band in RECOVER is as restrictive as
cool (R264). The model's readings and choices: a latch whose state was left is discarded and sets LATFAIL, also after a return (log
entry 44), an earlier valid latch stays beside LATFAIL (log entry 155), the way out of a suspend band is taken at the next tick (log
entry 41). -/
def Obligations.LatchAndChargeRows : Prop :=
  (∀ s : State, Ready s →
     (latchState s = true → exec .descriptorLatch s = .next { s with chg := { s.chg with latPend := true, latGone := false } }) ∧
     (latchState s = false → exec .descriptorLatch s = .next s) ∧
     (s.chg.latPend = false → exec .latchComplete s = .next s) ∧
     (s.chg.latPend = true → latchState s = false ∨ s.chg.latGone = true → ∃ t, exec .latchComplete s = .next t ∧ fld CHG_STAT_LATERR t = 6 ∧
       flag CHG_STAT_LATFAIL t = true ∧ FieldsBut [CHG_STAT_LATERR, CHG_STAT_LATFAIL] s t ∧
       t = { s with regs := t.regs, chg := { s.chg with latPend := false } }) ∧
     (s.chg.latPend = true → latchState s = true → s.chg.latGone = false → (∀ i < 32, CleanAt (0x4400 + 4 * i) s) →
       let d := ramBytes 0x4400 128 s
       let e := latchCheck d (vpkceil s)
       let h := fun i => (d.getD i 0).toNat + 256 * (d.getD (i + 1) 0).toNat
       (e ≠ 0 → ∃ t, exec .latchComplete s = .next t ∧ fld CHG_STAT_LATERR t = e ∧ flag CHG_STAT_LATFAIL t = true ∧
         FieldsBut [CHG_STAT_LATERR, CHG_STAT_LATFAIL] s t ∧ t = { s with regs := t.regs, chg := { s.chg with latPend := false } }) ∧
       (e = 0 → ∃ t, exec .latchComplete s = .next t ∧ dvalid t = true ∧ fld CHG_STAT_LATERR t = 0 ∧
         vMaxP t = (d.getD 2 0).toNat * h 6 ∧ ichMax t = min (h 10) (ipkceil s) ∧ idsMax t = min (h 12) (ipkceil s) ∧
         fld CHG_DLAT4_IPRE t = min (h 8) (min 2000 (ichMax t)) ∧
         flag CHG_STAT_PRES t = packPresent t ∧
         FieldsBut [whole (CHG_DLAT 0), whole (CHG_DLAT 1), whole (CHG_DLAT 2), whole (CHG_DLAT 3), whole (CHG_DLAT 4),
           whole (CHG_DLAT 5), CHG_STAT_DVALID, CHG_STAT_LATERR, CHG_STAT_PRES] s t ∧
         t = { s with regs := t.regs, chg := { s.chg with latPend := false } }))) ∧
  (∀ s : State, Ready s →
     (∀ (c : Instr) (row cause : Nat),
       (c = .packAbsent ∧ packPresent s = false ∧ row = 6 ∧ cause = 0 ∨ c = .packPresence ∧ packPresent s = true ∧ row = 7 ∧ cause = 0 ∨
         c = .identifyBackstop ∧ chgSt s = 2 ∧ row = 9 ∧ cause = 1 ∨
         c = .recoverAttemptEnd ∧ chgSt s = 3 ∧ fld CHG_REC_ATT s < 5 ∧ row = 11 ∧ cause = 0 ∨
         c = .recoverAttemptEnd ∧ chgSt s = 3 ∧ 5 ≤ fld CHG_REC_ATT s ∧ row = 12 ∧ cause = 5 ∨
         c = .taperEndBackstop ∧ chgSt s = 8 ∧ row = 23 ∧ cause = 0 ∨
         c = .suspendTempExit ∧ chgSt s = 11 ∧ band s ∈ [1, 2, 3] ∧ insideBy 2 (band s) s = true ∧ row = 28 ∧ cause = 0) →
       exec c s = .next { s with chg := { s.chg with hwq := s.chg.hwq ++ [(row, cause)] } }) ∧
     (∀ c : Instr, (c = .packAbsent ∧ packPresent s = true ∨ c = .packPresence ∧ packPresent s = false ∨
         c = .identifyBackstop ∧ chgSt s ≠ 2 ∨ c = .recoverAttemptEnd ∧ chgSt s ≠ 3 ∨ c = .taperEndBackstop ∧ chgSt s ≠ 8 ∨
         c = .suspendTempExit ∧ (chgSt s ≠ 11 ∨ band s ∉ [1, 2, 3] ∨ insideBy 2 (band s) s = false)) → exec c s = .next s) ∧
     (let less := s.chg.bandRaw = 2 ∧ (band s = 1 ∨ band s = 3 ∨ band s = 7 ∧ chgSt s = 3) ∨ s.chg.bandRaw = 1 ∧ band s = 3;
       (less → insideBy 1 s.chg.bandRaw s = true → ∃ t, exec .temperatureBandChange s = .next t ∧ band t = s.chg.bandRaw ∧
         FieldsBut [CHG_STAT_BAND] s t ∧ t = { s with regs := t.regs }) ∧
       (¬ less ∨ insideBy 1 s.chg.bandRaw s = false → exec .temperatureBandChange s = .next s)) ∧
     (s.chg.rtFresh = true → s.chg.rtUs + 1000000 ≤ nowUs s →
       ∃ t, exec .temperatureStale s = .next t ∧ flag CHG_STAT_TSTALE t = true ∧
       (rtUsed s = true → fld CHG_PKTEMP_TEMP t = 0x8000 ∧ FieldsBut [CHG_STAT_TSTALE, CHG_PKTEMP_TEMP] s t ∧
         t = { s with regs := t.regs, chg := { s.chg with rtFresh := false, bandRaw := 7, bandPend := some 7 } }) ∧
       (rtUsed s = false → FieldsBut [CHG_STAT_TSTALE] s t ∧ t = { s with regs := t.regs, chg := { s.chg with rtFresh := false } })) ∧
     (s.chg.rtFresh = false ∨ nowUs s < s.chg.rtUs + 1000000 → exec .temperatureStale s = .next s) ∧
     (chgSt s = 10 → s.chg.vAvg < vRch s → ∃ t, exec .rechargeThreshold s = .next t ∧ flag CHG_STAT_RECHG t = true ∧
       FieldsBut [CHG_STAT_RECHG] s t ∧ t = { s with regs := t.regs }) ∧
     (chgSt s ≠ 10 ∨ vRch s ≤ s.chg.vAvg → exec .rechargeThreshold s = .next s) ∧
     (s.chg.dg ≠ .gating → exec .pkDgCloseComplete s = .next s) ∧
     (s.chg.dg = .gating →
       (dgPermit s = true → ∃ t, exec .pkDgCloseComplete s = .next t ∧ flag CHG_STAT_DGCL t = true ∧ FieldsBut [CHG_STAT_DGCL] s t ∧
         t = { s with regs := t.regs, chg := { s.chg with dg := .closed } }) ∧
       (dgPermit s = false → ∃ t, exec .pkDgCloseComplete s = .next t ∧ flag CHG_STAT_DGCL t = false ∧ FieldsBut [CHG_STAT_DGCL] s t ∧
         t = { s with regs := t.regs, chg := { s.chg with dg := .open', dgBoot := false } })) ∧
     (s.chg.dg = .opening → ∃ t, exec .packCurrentRampEnd s = .next t ∧ flag CHG_STAT_DGCL t = false ∧ FieldsBut [CHG_STAT_DGCL] s t ∧
       t = { s with regs := t.regs, chg := { s.chg with ramp := none, dg := .open', dgBoot := false } }) ∧
     (s.chg.dg ≠ .opening → exec .packCurrentRampEnd s = .next { s with chg := { s.chg with ramp := none } }) ∧
     (∀ k : Fin 2,
       let l := if k = 0 then s.chg.lamp0 else s.chg.lamp1
       let iv := (l.iv + 1) % lampLen l.pat l.n
       let l' : Lamp := { l with iv := iv, on := lampOn l.pat l.n iv }
       exec (.lampPatternStep k) s = .next { s with
         chg := if k = 0 then { s.chg with lamp0 := l' } else { s.chg with lamp1 := l' } }))

/-- The trips of charge control: PK_OV stops pack-side switching, opens a PK_DG that is closing, and with PK_DG closed a removal is
declared; PK_OC goes to FAULT with cause 6 and opens PK_DG; the detectors of R275 declare a removal while PK_DG is closed, the collapse
of the current in forward operation. Below its threshold a comparator does nothing. The model's readings: a trip acts from the near
bound of its comparator (log entry 50), when PK_DG counts as closed (log entry 127), and PK_OV and PK_OC are raised in boot service too
(log entry 195). -/
def Obligations.PackTrips : Prop :=
  ∀ (o : FastObs) (s : State), let u := putFast o s
    (Ready s → u.pwr.vPk * 1000 < s.chg.vov * 995 → exec (.packOvTrip o) s = .next u) ∧
    (vccOn s = true → s.chg.vov * 995 ≤ u.pwr.vPk * 1000 → ∃ t, exec (.packOvTrip o) s = .next (settle t) ∧
      ⟨srcPkOv, 3, none, 0⟩ ∈ t.evq ∧ t.chg.ovOn = true ∧ .pkOv ∈ t.pwr.stops ∧ nAct t = 0 ∧
      (dgOn s = false → chgSt t = chgSt s ∧ t.chg.dg = .open') ∧
      (dgOn s = true → chgSt t = 13 ∧ dvalid t = false ∧ t.chg.dg = .open' ∧
        (s.chg.ocUs ≠ some (nowUs s) → fld CHG_STATE_PREV t = chgSt s) ∧
        fld CHG_STAT_LOSTBY t = if fld CHG_STAT_LOSTBY s = 0 then 1 else fld CHG_STAT_LOSTBY s)) ∧
    (Ready s → u.pwr.iPk.natAbs * 1000 < ocThr (decide (0 ≤ u.pwr.iPk)) u * 985 → exec (.packOcTrip o) s = .next u) ∧
    (vccOn s = true → ocThr (decide (0 ≤ u.pwr.iPk)) u * 985 ≤ u.pwr.iPk.natAbs * 1000 →
      ∃ t, exec (.packOcTrip o) s = .next (settle t) ∧ ⟨srcPkOc, 3, none, 0⟩ ∈ t.evq ∧ t.chg.ocOn = true ∧ .pkOc ∈ t.pwr.stops ∧
        (chgSt s ∉ [0, 1, 2, 12, 13] → chgSt t = 12 ∧ fld CHG_FCAUSE_CAUSE t = 6 ∧ t.chg.dg = .open' ∧
          flag CHG_STAT_DGCL t = false ∧ fld CHG_STATE_PREV t = chgSt s) ∧
        (chgSt s ∈ [0, 1, 2, 12, 13] → chgSt t = chgSt s)) ∧
    (∀ (c : Instr) (k : Nat) (v : State) (on : Bool), c = .presenceOpenDetect ∧ k = 2 ∧ v = s ∧ on = dgOn s ∨
        c = .currentCollapseDetect o ∧ k = 3 ∧ v = u ∧ on = (dgOn s && !packC s && collapsed u) →
      (Ready s → on = false → exec c s = .next v) ∧
      (vccOn s = true → on = true → ∃ t, exec c s = .next (settle t) ∧ ⟨srcPkLost, 2, none, 0⟩ ∈ t.evq ∧ chgSt t = 13 ∧
        dvalid t = false ∧ t.chg.dg = .open' ∧ flag CHG_STAT_DGCL t = false ∧ nAct t = 0 ∧
        fld CHG_STAT_LOSTBY t = if fld CHG_STAT_LOSTBY s = 0 then k else fld CHG_STAT_LOSTBY s))

/-! ## Impedance unit and ADC -/

/-- The impedance unit: a sweep whose descriptor passes starts at the next tick, and one refused completes with its outcome; a
group's lead-in and integration end at their frames and not before, and a cancel waits for the tick. ADC-CONV answers its rounded
average once its CNT conversions are made, with DETAIL 0x01 where one lies over the channel's range. That a descriptor which cannot
be read is refused with 0x06 too is the model's reading (log entry 47). -/
def Obligations.SweepRows : Prop :=
  ∀ s : State, Legal s → vccOn s = true →
    (∀ r : TagRec, Runs 2 r s → s.imp.job = none →
      let a := entH r.ent 8
      ((sweepCheck a s).1 = none → ∃ t, exec .impSweep s = .next (settle t) ∧ fld IMP_STAT_OUTCOME t = 6 ∧
        flag IMP_STAT_ABEVT t = true ∧ flag IMP_STAT_BUSY t = false ∧ Done r.tag t ∧ t.imp.job = none) ∧
      (∀ (rt ct : Bool) (res : Nat) (pts : List ImpPt), (sweepCheck a s).1 = some (rt, ct, res, pts) →
        ((flag IMP_CTL_EN s = false ∨ chgSt s ∉ [4, 5, 6]) → ∃ t, exec .impSweep s = .next (settle t) ∧
          fld IMP_STAT_OUTCOME t = 9 ∧ flag IMP_STAT_ABEVT t = true ∧ Done r.tag t ∧ t.imp.job = none) ∧
        (flag IMP_CTL_EN s = true → chgSt s ∈ [4, 5, 6] → ∃ t, exec .impSweep s = .next (settle t) ∧
          flag IMP_STAT_BUSY t = true ∧ fld IMP_STAT_OUTCOME t = 0 ∧ rd IMP_JADDR t = a ∧ t.rng = s.rng ∧
          ∃ j, t.imp.job = some j ∧ j.tag = r.tag ∧ j.pts = pts ∧ j.retryEn = rt ∧ j.cont = ct ∧ j.resAddr = res ∧
            j.startPend = true ∧ j.first = 0 ∧ j.nDone = 0 ∧ j.cancel = false))) ∧
    (Quiet s → unitOp 2 s = none ∨ s.imp.job ≠ none → exec .impSweep s = .next s) ∧
    (Quiet s → s.imp.job = none → exec .impCancel s = .next s ∧ exec .impGroupLeadInEnd s = .next s ∧
      exec .impGroupIntegrationEnd s = .next s) ∧
    (∀ j : ImpJob, s.imp.job = some j →
      (Quiet s → exec .impCancel s = .next { s with imp := { s.imp with job := some { j with cancel := true } } }) ∧
      (Quiet s → flag IMP_STAT_LEADIN s = true → (groupSpan j).1 ≤ rd IMP_ELAP s → ∃ t, exec .impGroupLeadInEnd s = .next t ∧ flag IMP_STAT_LEADIN t = false ∧
        flag IMP_STAT_INTEG t = true ∧ FieldsBut [IMP_STAT_LEADIN, IMP_STAT_INTEG] s t ∧ t = { s with regs := t.regs }) ∧
      (Quiet s → flag IMP_STAT_LEADIN s = false ∨ rd IMP_ELAP s < (groupSpan j).1 → exec .impGroupLeadInEnd s = .next s) ∧
      (Quiet s → flag IMP_STAT_INTEG s = false ∨ rd IMP_ELAP s < (groupSpan j).1 + (groupSpan j).2 →
        exec .impGroupIntegrationEnd s = .next s) ∧
      (∀ r : TagRec, r ∈ s.rng.tags → r.tag = j.tag → r.st = .running →
        flag IMP_STAT_INTEG s = true → (groupSpan j).1 + (groupSpan j).2 ≤ rd IMP_ELAP s → j.pts.length ≤ j.first + j.amps.length →
        let vf := fun k => vflags j (j.amps.getD k 0) (toneOf j k s) s
        ((∀ k < j.amps.length, vf k = 0) → ∃ t, exec .impGroupIntegrationEnd s = .next (settle t) ∧ t.imp.job = none ∧
          fld IMP_STAT_OUTCOME t = (if j.bad then 2 else 1) ∧ flag IMP_STAT_INTEG t = false ∧ Done j.tag t) ∧
        ((∃ k < j.amps.length, vf k ≠ 0) → j.retryEn = false → j.cont = false →
          ∃ t, exec .impGroupIntegrationEnd s = .next (settle t) ∧ t.imp.job = none ∧ fld IMP_STAT_OUTCOME t = 3 ∧
            flag IMP_STAT_ABEVT t = true ∧ Done j.tag t))) ∧
    (∀ (r : TagRec) (vals : List Int), Runs 1 r s →
      let ch := entB r.ent 8
      let l := vals.take (entB r.ent 9)
      let out := fun v : Int => if 5 ≤ ch ∧ ch ≤ 8 then decide (100000 < v.natAbs)
        else decide (v < 0) || decide ((if ch ≤ 4 then 6400 else 12000) < v)
      (Quiet s → vals.length < entB r.ent 9 → exec (.adcConv vals) s = .next s) ∧
      (entB r.ent 9 ≤ vals.length → exec (.adcConv vals) s = .next (settle (complete r.tag 0 (if l.any out then 1 else 0)
        (unsgn 32 (idivRound l.sum l.length)) s)))) ∧
    (∀ vals : List Int, Quiet s → unitOp 1 s = none → exec (.adcConv vals) s = .next s)

/-! ## Rings and operations -/

/-- An operation at the head of its ring for its unit is checked in order (defined, permitted, parameters and reserved fields of
R383 and R386, fence): one that fails completes with its code whatever the unit does, one that passes runs in the idle unit, and
NOP completes at once; the ring is the last one served. In Fawn mode only the host rings are served, and of them what the recovery
commands post. CRC-SCAN completes with the CRC-32C of its range, and SHIP with the result of its request, which it then carries
out. The order of SHIP's codes, where several hold, is the model's reading (log entry 120). -/
def Obligations.OperationRows : Prop :=
  (∀ s : State, Ready s →
     let served := fun (u : Nat) (r : TagRec) => { s with rng := { s.rng with last := vPut s.rng.last u r.ring } }
     (∀ u : Fin 15,
       (nextOp u s = none → exec (.operationDispatch u) s = .next s) ∧
       (∀ r : TagRec, nextOp u s = some r →
         (let l := (ringOrder u s).filterMap (fun n => ringCandidate u n s);
           r ∈ l ∧ ((∃ x ∈ l, opCode x s ≠ 0) → opCode r s ≠ 0) ∧ ((∀ x ∈ l, opCode x s = 0) → l.head? = some r)) ∧
         (inFawn s = true → 16 ≤ r.ring ∧ entB r.ent 0 ∈ [0x01, 0x20, 0x28]) ∧
         (opCode r s ≠ 0 → exec (.operationDispatch u) s = .next (settle (complete r.tag (opCode r s) 0 0 s))) ∧
         (opCode r s = 0 → u = 0 → exec (.operationDispatch u) s = .next (settle (complete r.tag 0 0 0 (served 0 r)))) ∧
         (opCode r s = 0 → u ≠ 0 → unitOp u s ≠ none → exec (.operationDispatch u) s = .next s) ∧
         (opCode r s = 0 → u ≠ 0 → unitOp u s = none → ∃ t, exec (.operationDispatch u) s = .next t ∧
           (u ≠ 3 → u ≠ 4 → t.regs = s.regs) ∧
           (u = 3 → flag PKB_STAT_BUSY t = true ∧ FieldsBut [PKB_STAT_BUSY, PKB_STAT_BUS] s t) ∧
           (u = 4 → rd SCAN_TAG t = r.tag % 2 ^ 32 ∧ rd SCAN_POS t = entH r.ent 10 ∧ FieldsBut [whole SCAN_TAG, whole SCAN_POS] s t) ∧
           t = { s with
             regs := t.regs
             rng := { s.rng with
               tags := s.rng.tags.map (fun x => if x.tag = r.tag then { x with st := .running } else x)
               last := vPut s.rng.last u r.ring } }))) ∧
     ((∀ r, nextOp 0 s = some r → entB r.ent 0 ≠ 1) → exec .nop s = .next s) ∧
     (∀ r : TagRec, nextOp 0 s = some r → entB r.ent 0 = 1 →
       exec .nop s = .next (settle (complete r.tag (opCode r s) 0 0 (if opCode r s = 0 then served 0 r else s)))) ∧
     (∀ r : TagRec,
       let b := entB r.ent
       let h := entH r.ent
       let zero := fun (i : Nat) => ∀ k ≥ i, b k = 0
       let ram := fun (a n : Nat) => ramLo ≤ a ∧ a + n ≤ ramHi + 1
       let buf := fun (a n : Nat) => if n = 0 then a = 0 else ram a n
       let upTo := fun (m n : Nat) => 1 ≤ n ∧ n ≤ m
       let known := b 0 ∈ [0x01, 0x08, 0x10, 0x18, 0x20, 0x28, 0x30, 0x31, 0x38]
       let may := ∀ p ∈ [(0x10, [0]), (0x18, [2, 3, 4]), (0x28, [1, 4]), (0x30, [1, 4]), (0x31, [1, 4]), (0x38, [0, 1])],
         b 0 = p.1 → ringOwner r.ring ∈ p.2
       let len := if h 12 = 0 then 65536 else h 12
       let fits := b 1 < 2 ∧ b 3 = 0 ∧
         (b 0 = 0x01 ∨ b 0 = 0x38 → zero 8) ∧ (b 0 = 0x08 → b 8 ≤ 14 ∧ upTo 16 (b 9) ∧ zero 10) ∧
         (b 0 = 0x10 → ram (h 8) 1 ∧ zero 10) ∧
         (b 0 = 0x18 → b 8 < 128 ∧ b 9 < 8 ∧ (b 9 % 4 = 0 → upTo 32 (b 10) ∧ b 11 = 0) ∧ (b 9 % 4 = 1 → b 10 = 0 ∧ upTo 32 (b 11)) ∧
           (2 ≤ b 9 % 4 → upTo 32 (b 10) ∧ upTo 32 (b 11)) ∧ buf (h 12) (b 10) ∧ buf (h 14) (b 11)) ∧
         (b 0 = 0x20 → b 8 / 4 % 32 = 0 ∧ b 9 = 0 ∧ b 8 % 4 ≠ 3 ∧ (128 ≤ b 8 → b 8 % 4 = 0) ∧
           (b 8 % 4 = 0 → ram (h 10) (len + if 128 ≤ b 8 then 4 else 0)) ∧ (b 8 % 4 ≠ 0 → h 10 + len ≤ 65536) ∧
           (h 14 = 0 ∨ ram (h 14) 1)) ∧
         (b 0 = 0x28 → h 8 % 64 = 0 ∧ h 10 % 64 = 0 ∧ upTo 16 (b 12) ∧ ram (h 8) (64 * b 12) ∧ zero 13) ∧
         (b 0 = 0x30 ∨ b 0 = 0x31 → b 8 < 4 ∧ buf (h 12) (b 9) ∧ zero 14) ∧
         (b 0 = 0x30 → h 10 / 2 ^ 12 % 8 = 0) ∧ (b 0 = 0x31 → h 10 = 0)
       let fenced := opUnit r.ent = 2 ∧ fencedU uImp s = true ∨ opUnit r.ent = 3 ∧ fencedU uPkb s = true ∨
         7 ≤ opUnit r.ent ∧ fencedU uLnk s = true
       (¬known → opCode r s = 2) ∧ (known → ¬may → opCode r s = 1) ∧ (known → may → ¬fits → opCode r s = 3) ∧
         (known → may → fits → fenced → opCode r s = 4) ∧ (known → may → fits → ¬fenced → opCode r s = 0))) ∧
  (∀ (r : TagRec) (s : State), Legal s → vccOn s = true →
     (Runs 4 r s → ∃ t, exec .crcScan s = .next (settle t) ∧ Done r.tag t ∧ flag CRC_STAT_DONEEVT t = true ∧
       flag CRC_STAT_SBUSY t = false ∧
       (∀ a n : Nat, entB r.ent 8 = 0 → entH r.ent 14 = 0 → entH r.ent 10 = 4 * a → entH r.ent 12 = 4 * n → n ≠ 0 →
         (∀ i < n, CleanAt (4 * a + 4 * i) s) →
         rd SCAN_LAST t = (crc32c (ramBytes (4 * a) (4 * n) s)).toNat ∧ rd SCAN_POS t = (4 * a + 4 * n) % 65536)) ∧
     (Quiet s → unitOp 4 s = none → exec .crcScan s = .next s) ∧
     (∀ (presence : Bool) (ao : AoFeeds), Runs 6 r s →
       (∀ k : Nat, (presence = true ∧ k = 2 ∨ presence = false ∧ shipBusy s = true ∧ k = 3 ∨
           presence = false ∧ shipBusy s = false ∧ inFawn s = true ∧ k = 4) →
         ∃ t, exec (.ship presence ao) s = .next (settle t) ∧ Done r.tag t ∧ fld GLB_SHIP_RESULT t = k ∧ t.sup = s.sup ∧ t.engs = s.engs) ∧
       (presence = false → shipBusy s = false → inFawn s = false →
         ∃ t, exec (.ship presence ao) s = .next (settle t) ∧ Done r.tag t ∧ fld GLB_SHIP_RESULT t = 1 ∧ t.sup.power = .ship ∧
           t.sup.shipFlag = true ∧ t.engs = Engs.reset ∧ t.clk.running = false ∧ fld GLB_SUPSTAT_AOSRC t = (aoSource false ao).getD (fld GLB_SUPSTAT_AOSRC s))) ∧
     (∀ (presence : Bool) (ao : AoFeeds), Quiet s → unitOp 6 s = none → exec (.ship presence ao) s = .next s))

/-- A ring's configuration is taken where it is well formed, the ring holds nothing and has no POST in the same clock (R396), and refused
with CFGREF; quotas are taken
while unlocked and of a sum of at most 128, and refused with QREF. What is taken has its parity written (R522). A host write to locked
quotas is a refused access too (R478); that one to a busy ring's configuration is a refused access as well is the model's reading (log
entry 29). -/
def Obligations.RingConfig : Prop :=
  ∀ s : State, Ready s →
    (∀ (who : Option EngId) (n : Fin 32) (v : Word), Writes who (RNG_CFG n) s →
      let u := if n.val < 24 then 16 else 64
      let d := v.toNat / 65536 % 16
      let b := v.toNat % 65536
      let good := v.toNat < 2 ^ 31 ∨ 2 ≤ d ∧ d ≤ 8 ∧ b % u = 0 ∧ 0x4480 ≤ b ∧ b + u * 2 ^ d ≤ 0x8000
      let busy := if n.val < 24 then ringOut n s ≠ 0 else flag LNK_CTL_EN s = true
      let posted := ∃ p ∈ s.rng.same.posted, p.1 = n ∧ p.2 = clockOf who s
      (good ∧ ¬ busy ∧ ¬ posted → ∃ t, exec (.ringConfigWrite who n v) s = .next t ∧ rd (RNG_CFG n) t = (v &&& 0x800FFFFF).toNat ∧
        ringPtr n t = ((ringPtr n s).1 % 2 ^ d, (ringPtr n s).2 % 2 ^ d) ∧ FieldsBut [whole (RNG_CFG n)] s t ∧
        t = { parWrite (RNG_CFG n) 0xFFFFFFFF s with
          regs := t.regs, rng := { s.rng with ptr := t.rng.ptr, same := { s.rng.same with cfgs := t.rng.same.cfgs } } }) ∧
      (¬ good ∨ busy ∨ posted → ∃ t, exec (.ringConfigWrite who n v) s = .next t ∧ flag (RNG_STAT_CFGREF n) t = true ∧
        (who ≠ none ∨ ¬ busy → FieldsBut [RNG_STAT_CFGREF n] s t) ∧
        (who = none → busy → flag HST_STAT_REFEVT t = true ∧
          FieldsBut [RNG_STAT_CFGREF n, HST_CNT0_REFUSED, HST_STAT_REFEVT] s t) ∧
        t = { s with regs := t.regs })) ∧
    (∀ (second : Bool) (v : Word),
      let a := if second then RNG_QUOTA1 else RNG_QUOTA0
      let x := if second then v.toNat % 256 else v.toNat
      let sum := ((List.range 5).map (fun o => quota o (wr a x s))).sum
      Writes none a s →
      (flag RNG_LOCK_LOCK s = true → ∃ t, exec (.quotaWrite second v) s = .next t ∧ flag HST_STAT_REFEVT t = true ∧
        FieldsBut [HST_CNT0_REFUSED, HST_STAT_REFEVT] s t ∧ t = { s with regs := t.regs }) ∧
      (flag RNG_LOCK_LOCK s = false → sum ≤ 128 → ∃ t, exec (.quotaWrite second v) s = .next t ∧ rd a t = x ∧
        FieldsBut [whole a] s t ∧ t = { parWrite a 0xFFFFFFFF s with regs := t.regs }) ∧
      (flag RNG_LOCK_LOCK s = false → 128 < sum → ∃ t, exec (.quotaWrite second v) s = .next t ∧ flag RNG_TAGSTAT_QREF t = true ∧
        FieldsBut [RNG_TAGSTAT_QREF] s t ∧ t = { s with regs := t.regs }))

/-- A register write by the host or an engine with rights. A word of shared RAM takes its value. In every register without an effect
of its own the RW and RWL bits that no lock has frozen take the written bits, a 1 clears a W1C bit, and the rest stays, within the
clamps of the register (R8); so does the shadow of every set point, which is marked for its owner while its live value stays (R27), by
the host only while the owning engine is halted or fenced (R24). The written bytes of TCP_TXBUF take theirs. A write narrower than its
register, or not at its first byte, changes nothing: an engine takes its exception (R348), a host's is a refused access (R478). So is
a host write that may change no field. A set point that a lock has frozen whole ignores an engine's store and is not marked (R8); an
engine's store that is misaligned or without rights takes its exception. -/
def Obligations.RegisterWrites : Prop :=
  ∀ s : State, Ready s →
    (∀ (who : Option EngId) (a : BitVec 16) (v : Word), ramLo ≤ a.toNat → a.toNat ≤ ramHi → a.toNat % 4 = 0 → Writes who a.toNat s →
      ∃ t, exec (.registerWrite who a 2 v) s = .next t ∧ ramNat a.toNat 4 t = v.toNat ∧
        (∀ x, x < a.toNat ∨ a.toNat + 4 ≤ x → ramByte x t = ramByte x s) ∧
        t = { s with mem := t.mem, ramErr := s.ramErr.filter (fun p => p.1 != a.toNat) }) ∧
    (∀ (who : Option EngId) (a : Nat) (r : RegRow) (v : Word), findRow a = some r → Writes who a s →
      let m := openMask r s
      let refused := ∃ t, exec (.registerWrite who (BitVec.ofNat 16 a) 2 v) s = .next t ∧ flag HST_STAT_REFEVT t = true ∧
        fld HST_CNT0_REFUSED t = min (fmax HST_CNT0_REFUSED) (fld HST_CNT0_REFUSED s + 1) ∧
        FieldsBut [HST_CNT0_REFUSED, HST_STAT_REFEVT] s t ∧ t = { s with regs := t.regs }
      (r.sh = false → ownEffect a = false → (who = none → m ≠ 0 ∨ r.w1c ≠ 0) →
        ∃ t x, exec (.registerWrite who (BitVec.ofNat 16 a) 2 v) s = .next t ∧ Taken r a v.toNat s x ∧
          rd a t = clampWrite a x % 2 ^ 32 ∧ FieldsBut [whole a] s t ∧ t = { parWrite a m s with regs := t.regs }) ∧
      (who = none → r.sh = false → ownEffect a = false → m = 0 → r.w1c = 0 → refused) ∧
      (r.sh = true → m ≠ 0 → (who = none → engDown (shOwner a) s = true) →
        ∃ t, exec (.registerWrite who (BitVec.ofNat 16 a) 2 v) s = .next t ∧ Taken r a v.toNat s (rd a t) ∧ marked a t = true ∧
          FieldsBut [whole a] s t ∧ t = { parWrite a m s with regs := t.regs, marks := (mark a who.isNone s).marks }) ∧
      (who = none → r.sh = true → m = 0 ∨ engDown (shOwner a) s = false → refused)) ∧
    (∀ (who : Option EngId) (a : BitVec 16) (k : Fin 3) (v : Word), TCP_TXBUF 0 ≤ a.toNat → a.toNat < TCP_TXBUF 3 + 4 →
      a.toNat % 2 ^ k.val = 0 → Writes who a.toNat s →
      let w := a.toNat / 4 * 4
      let lo := 8 * (a.toNat % 4)
      let f : Fld := ⟨w, lo + 8 * 2 ^ k.val - 1, lo⟩
      ∃ t, exec (.registerWrite who a k v) s = .next t ∧ fld f t = v.toNat % 2 ^ (8 * 2 ^ k.val) ∧ FieldsBut [f] s t ∧
        t = { parWrite w (2 ^ (lo + 8 * 2 ^ k.val) - 2 ^ lo) s with regs := t.regs }) ∧
    (∀ (a : BitVec 16) (k : Fin 3) (w : Nat) (r : RegRow) (v : Word), regOf a.toNat = some (w, r) → isBuffer w = false →
      a.toNat % 2 ^ k.val = 0 → a.toNat ≠ w ∨ 8 * 2 ^ k.val < r.width →
      (∀ e : EngId, Writes (some e) a.toNat s →
        exec (.registerWrite (some e) a k v) s = .next (settle (takeException e 3 a.toNat (getEng e s).pc s))) ∧
      (Writes none a.toNat s → ∃ t, exec (.registerWrite none a k v) s = .next t ∧ flag HST_STAT_REFEVT t = true ∧
        FieldsBut [HST_CNT0_REFUSED, HST_STAT_REFEVT] s t ∧ t = { s with regs := t.regs })) ∧
    (∀ (e : EngId) (a : BitVec 16) (k : Fin 3) (v : Word), (getEng e s).phase = .running →
      (a.toNat % 2 ^ k.val ≠ 0 → exec (.registerWrite (some e) a k v) s = .next (settle (takeException e 2 a.toNat (getEng e s).pc s))) ∧
      (a.toNat % 2 ^ k.val = 0 → engRights e a.toNat = false →
        exec (.registerWrite (some e) a k v) s = .next (settle (takeException e 3 a.toNat (getEng e s).pc s)))) ∧
    (∀ (e : EngId) (a : BitVec 16) (r : RegRow) (v : Word), (getEng e s).phase = .running → engRights e a.toNat = true →
      a.toNat % 4 = 0 → findRow a.toNat = some r → r.sh = true → openMask r s = 0 → exec (.registerWrite (some e) a 2 v) s = .next s) ∧
    (∀ (e : EngId) (a : BitVec 16) (k : Fin 3) (v : Word), (getEng e s).phase ≠ .running →
      exec (.registerWrite (some e) a k v) s = .next s)

/-- A pending bit is cleared by writing 1 to it. The write has no effect while the source's condition is still in force. The
sources with such a condition are PK_OV, PK_OC, HBUS_OV, HBUS_UV, TH_WARN, TH_STOP and TH_HARD, each while its comparator or threshold
holds. (In the clock of an event of its source the bit stays set by R543: FaultCommands.) -/
def Obligations.PendingClear : Prop :=
  ∀ (who : Option EngId) (hi : Bool) (v : Word) (s : State), Ready s →
    let a := if hi then FLT_PEND1 else FLT_PEND0
    Writes who a s →
    (∀ n < 37, condOn n s = true ↔
      n = srcPkOv ∧ s.chg.ovOn = true ∨ n = srcPkOc ∧ s.chg.ocOn = true ∨ n = srcHbusOv ∧ s.hub.ovOn = true ∨
        n = srcHbusUv ∧ s.hub.uvOn = true ∨ n = srcThWarn ∧ flag THM_STAT_WARN s = true ∨ n = srcThStop ∧ s.chg.tstopOn = true ∨
        n = srcThHard ∧ s.chg.thardOn = true) ∧
    ∃ t, exec (.registerWrite who (BitVec.ofNat 16 a) 2 v) s = .next t ∧
      (∀ n < 37, (hi = decide (32 ≤ n)) →
        (∀ x ∈ s.flt.last, x.src = n → x.clk ≠ clockNow s) →
        (flag (pendBit n) t = (flag (pendBit n) s && (condOn n s || !bitOf v.toNat (n % 32))))) ∧
      FieldsBut [whole a] s t ∧ t.mem = s.mem ∧ t.engs = s.engs ∧ t.chg = s.chg ∧ t.hub = s.hub

/-! ## Pack port and pack bus -/

/-- A reading of PKT or PKI shows its value and its band; the presence bits follow the filters, and a stuck pin that reads short is
absent. A stuck pin that reads outside short for 100 ms is stuck no longer.
A held change of a pin's open comparator is accepted unless one was accepted within 10 ms; then it is merged and counted, and
taken when that time ends. A pin short for 10 s is stuck and raises STUCK_IN of class C. -/
def Obligations.PackPresence : Prop :=
  (∀ (v : Nat) (s : State), Ready s →
     (∃ t, exec (.pktRead v) s = .next t ∧ fld PKP_PKT_VAL t = min 65535 v ∧ fld PKP_STAT_TBAND t = pktBand v ∧
       flag PKP_STAT_STUCKT t = t.pk.pkt.stuck ∧ flag PKP_STAT_PREST t = (s.pk.pkt.filt && !(t.pk.pkt.stuck && decide (v < 150))) ∧
       flag CHG_STAT_PRES t = packPresent t ∧
       (s.pk.pkt.stuck = true → (t.pk.pkt.stuck = false ↔ 150 ≤ v ∧ ∃ u, s.pk.pkt.outUs = some u ∧ u + 100000 ≤ nowUs s)) ∧
       FieldsBut [PKP_PKT_VAL, PKP_STAT_TBAND, PKP_STAT_STUCKT, PKP_STAT_PREST, PKP_STAT_PRESI, CHG_STAT_PRES] s t ∧
       t = { s with regs := t.regs, pk := { s.pk with pkt := t.pk.pkt } }) ∧
     (∃ t, exec (.pkiRead v) s = .next t ∧ fld PKP_PKI_VAL t = min 65535 v ∧ fld PKP_STAT_IBAND t = pkiBand v ∧
       flag PKP_STAT_STUCKI t = t.pk.pki.stuck ∧ flag PKP_STAT_PRESI t = (s.pk.pki.filt && !(t.pk.pki.stuck && decide (v < 150))) ∧
       (s.pk.pki.stuck = true → (t.pk.pki.stuck = false ↔ 150 ≤ v ∧ ∃ u, s.pk.pki.outUs = some u ∧ u + 100000 ≤ nowUs s)) ∧
       t.pk.binCnt = (if pkiBand v ≠ 1 then 0 else if binOf v = s.pk.binCand then min 5 (s.pk.binCnt + 1) else 1) ∧
       (t.pk.binCnt = 5 → fld PKP_STAT_BIN t = binOf v) ∧
       FieldsBut [PKP_PKI_VAL, PKP_STAT_IBAND, PKP_STAT_STUCKI, PKP_STAT_BIN, PKP_STAT_BINCHG, PKP_STAT_PREST, PKP_STAT_PRESI,
         CHG_STAT_PRES] s t ∧
       t = { s with regs := t.regs, pk := { s.pk with pki := t.pk.pki, binCand := t.pk.binCand, binCnt := t.pk.binCnt } })) ∧
  (∀ (pki : Bool) (s : State),
     (∀ opened : Bool, Ready s → (getPin pki s).filt = opened →
       ((getPin pki s).lastUs.any (fun u => decide (nowUs s < u + 10000)) = false →
         ∃ t, exec (.presenceChange pki opened) s = .next t ∧ (getPin pki t).filt = !opened ∧
           (getPin pki t).lastUs = some (nowUs s) ∧ getPin (!pki) t = getPin (!pki) s ∧
           flag PKP_STAT_PREST t = pktPres t ∧ flag PKP_STAT_PRESI t = pkiPres t ∧
           FieldsBut [PKP_STAT_PREST, PKP_STAT_PRESI, CHG_STAT_PRES] s t ∧ t = { s with regs := t.regs, pk := t.pk }) ∧
       ((getPin pki s).lastUs.any (fun u => decide (nowUs s < u + 10000)) = true →
         ∃ t, exec (.presenceChange pki opened) s = .next t ∧ (getPin pki t).filt = (getPin pki s).filt ∧
           (getPin pki t).merge = true ∧ fld PKP_STAT_MERGED t = min 255 (fld PKP_STAT_MERGED s + 1) ∧
           FieldsBut [PKP_STAT_MERGED] s t ∧ t = { s with regs := t.regs, pk := t.pk })) ∧
     (Ready s → (getPin pki s).merge = true → (getPin pki s).filt = (getPin pki s).openNow →
       ∃ t, exec (.presenceRateWindowEnd pki) s = .next t ∧ (getPin pki t).filt = !(getPin pki s).openNow ∧
         (getPin pki t).merge = false ∧ getPin (!pki) t = getPin (!pki) s ∧
         FieldsBut [PKP_STAT_PREST, PKP_STAT_PRESI, CHG_STAT_PRES] s t ∧ t = { s with regs := t.regs, pk := t.pk }) ∧
     (vccOn s = true → (getPin pki s).stuck = false → (if pki then fld PKP_STAT_IBAND s = 2 else fld PKP_STAT_TBAND s = 3) →
       ∃ t, exec (.presenceStuck pki) s = .next (settle t) ∧ (getPin pki t).stuck = true ∧ flag PKP_STAT_STUCKEVT t = true ∧
         flag (if pki then PKP_STAT_STUCKI else PKP_STAT_STUCKT) t = true ∧
         flag (if pki then PKP_STAT_PRESI else PKP_STAT_PREST) t = false ∧ t.evq = s.evq ++ [⟨srcStuckIn, 1, none, 0⟩] ∧
         FieldsBut [if pki then PKP_STAT_STUCKI else PKP_STAT_STUCKT, PKP_STAT_STUCKEVT, PKP_STAT_PREST, PKP_STAT_PRESI,
           CHG_STAT_PRES] s t ∧
         t = { s with regs := t.regs, pk := t.pk, evq := t.evq }))

/-- Ownership of the pack pins. PKP_OWN_WRITE completes: a pin engine takes a free pin for itself or for PKB; a pin of the other engine
it refuses with OWNREF; of two writes in one clock that of PE0 applies; CSQ and HSQ have no right here; the host moves a pin
whose owner is halted or fenced to one that is, while PKB is not busy, and is refused otherwise. PKP_RTEMP_WRITE completes: the
pack-reported temperature is shown, fresh, and ends TSTALE; in the clock of its expiry it takes back what the expiry did (R339). The
model's readings: which writes of PE0 and PE1 fall into one clock, and that the later one of PE1 sets no OWNREF (log entry 136), and
that the host's refusal is a refused access (log entry 29). -/
def Obligations.PackOwnership : Prop :=
  ∀ s : State, Ready s →
    (∀ v : BitVec 16, let late := flag CHG_STAT_TSTALE s && s.chg.rtUs + 1000000 == nowUs s && rtUsed s
      ∃ t, exec (.pkpRtempWrite v) s = .next t ∧ rd PKP_RTEMP t = v.toNat ∧ flag CHG_STAT_TSTALE t = false ∧
        (late = false → FieldsBut [whole PKP_RTEMP, CHG_STAT_TSTALE] s t ∧
          t = { s with regs := t.regs, chg := { s.chg with rtFresh := true, rtUs := nowUs s } }) ∧
        (late = true → fld CHG_PKTEMP_TEMP t = v.toNat ∧
          t.chg.bandRaw = bandOf (if v = 0x8000#16 then none else some v.toInt) s ∧
          (t.chg.bandPend = none ∨ t.chg.bandPend = some t.chg.bandRaw) ∧
          FieldsBut [whole PKP_RTEMP, CHG_STAT_TSTALE, CHG_PKTEMP_TEMP] s t ∧
          t = { s with regs := t.regs, chg := { s.chg with
            rtFresh := true, rtUs := nowUs s, bandRaw := t.chg.bandRaw, bandPend := t.chg.bandPend } })) ∧
    (∀ (e : EngId) (nd nc : Fin 4), e = .pe0 ∨ e = .pe1 → s.pk.ownLast.any (fun l => l.2.1 == engClock e s) = false →
      fld PKP_OWN_PKD s = 0 → fld PKP_OWN_PKC s = 0 → (∀ c : Fin 4, c = nd ∨ c = nc → c.val = 0 ∨ c.val = engNo e - 1 ∨ c.val = 3) →
      ∃ t, exec (.pkpOwnWrite (some e) (BitVec.ofNat 8 (nd.val + 4 * nc.val))) s = .next t ∧ fld PKP_OWN_PKD t = nd.val ∧
        fld PKP_OWN_PKC t = nc.val ∧ FieldsBut [PKP_OWN_PKD, PKP_OWN_PKC] s t ∧
        t = { s with regs := t.regs, pk := { s.pk with ownLast := some (engNo e - 1, engClock e s, 0) } }) ∧
    (∀ (e : EngId) (v : BitVec 8), e = .pe0 ∨ e = .pe1 → s.pk.ownLast.any (fun l => l.2.1 == engClock e s) = false →
      fld PKP_OWN_PKD s = 3 - (engNo e - 1) → v.toNat % 4 ≠ fld PKP_OWN_PKD s →
      ∃ t, exec (.pkpOwnWrite (some e) v) s = .next t ∧ fld PKP_OWN_PKD t = fld PKP_OWN_PKD s ∧
        flag PKP_STAT_OWNREF t = true ∧ FieldsBut [PKP_OWN_PKC, PKP_STAT_OWNREF] s t ∧
        t = { s with regs := t.regs, pk := { s.pk with ownLast := t.pk.ownLast } }) ∧
    (∀ (v : BitVec 8) (o : Nat), s.pk.ownLast = some (1, engClock .pe1 s, o) → exec (.pkpOwnWrite (some .pe1) v) s = .next s) ∧
    (∀ nd nc : Fin 4, s.pk.ownLast = some (2, engClock .pe0 s, 0) → nd.val ≠ 2 → nc.val ≠ 2 →
      ∃ t, exec (.pkpOwnWrite (some .pe0) (BitVec.ofNat 8 (nd.val + 4 * nc.val))) s = .next t ∧ fld PKP_OWN_PKD t = nd.val ∧
        fld PKP_OWN_PKC t = nc.val ∧ FieldsBut [PKP_OWN_PKD, PKP_OWN_PKC] s t ∧
        t = { s with regs := t.regs, pk := { s.pk with ownLast := t.pk.ownLast } }) ∧
    (∀ (e : EngId) (v : BitVec 8), e = .csq ∨ e = .hsq → exec (.pkpOwnWrite (some e) v) s = .next s) ∧
    (Writes none PKP_OWN s → ∀ nd nc : Fin 4,
      let may := fun (old new : Nat) => new = old ∨ (∀ c ∈ [old, new], (c = 1 → engDown .pe0 s = true) ∧ (c = 2 → engDown .pe1 s = true))
      ∃ t, exec (.pkpOwnWrite none (BitVec.ofNat 8 (nd.val + 4 * nc.val))) s = .next t ∧
        (may (fld PKP_OWN_PKD s) nd.val ∧ may (fld PKP_OWN_PKC s) nc.val ∧ flag PKB_STAT_BUSY s = false →
          fld PKP_OWN_PKD t = nd.val ∧ fld PKP_OWN_PKC t = nc.val ∧ FieldsBut [PKP_OWN_PKD, PKP_OWN_PKC] s t) ∧
        (¬ (may (fld PKP_OWN_PKD s) nd.val ∧ may (fld PKP_OWN_PKC s) nc.val ∧ flag PKB_STAT_BUSY s = false) →
          flag PKP_STAT_OWNREF t = true ∧ flag HST_STAT_REFEVT t = true ∧
            FieldsBut [PKP_STAT_OWNREF, HST_CNT0_REFUSED, HST_STAT_REFEVT] s t) ∧
        t = { s with regs := t.regs })

/-- The FIFOs of a pin sequencer: a push joins the transmit FIFO, and starts at once in an idle enabled sequencer whose pins may be
driven, where a MARK gives its tag at once and a reserved OP flushes the FIFO with BADOP; a full FIFO refuses it with TXOVF; a pop
takes the oldest result; a flush empties both, and a disable stops the running cell.
The end of a cell on a pin the sequencer owns: a LOW drops its drive and says nothing of the line; a cell of OP 2 to 4 gives its
result with its OP, no timeout, the line's level and its time. A wait that meets no edge gives its timeout, and with ABT it flushes the
transmit FIFO with ABRT. The model's readings: a cell pushed while the lines are released waits (log entry 116), and the running cell
holds its place in the FIFO (log entry 196). -/
def Obligations.PinSequencers : Prop :=
  (∀ (e : Fin 2) (s : State), Ready s →
     (∀ cell : Word, 32 ≤ (getSeq e s).tx.length + b2n (getSeq e s).run.isSome →
       ∃ t, exec (.sequencerPush e cell) s = .next t ∧ flag (PKP_SEQSTAT_TXOVF e) t = true ∧
         FieldsBut [PKP_SEQSTAT_TXOVF e] s t ∧ t = { s with regs := t.regs }) ∧
     (∀ cell : Word, (getSeq e s).tx.length + b2n (getSeq e s).run.isSome < 32 →
       flag (PKP_SEQCTL_EN e) s = false ∨ (getSeq e s).run.isSome ∨ padsOff s = true →
       ∃ t, exec (.sequencerPush e cell) s = .next t ∧ getSeq e t = { getSeq e s with tx := (getSeq e s).tx ++ [cell] } ∧
         getSeq (1 - e) t = getSeq (1 - e) s ∧ t = { s with pk := t.pk }) ∧
     (∀ cell : Word, (getSeq e s).tx = [] → (getSeq e s).run = none → flag (PKP_SEQCTL_EN e) s = true → padsOff s = false →
       (cell.toNat / 2 ^ 29 < 5 →
         ∃ t, exec (.sequencerPush e cell) s = .next t ∧ getSeq e t = { getSeq e s with tx := [], run := some cell } ∧
           getSeq (1 - e) t = getSeq (1 - e) s ∧ t = { s with pk := t.pk }) ∧
       (cell.toNat / 2 ^ 29 = 5 → (getSeq e s).rx.length < 16 →
         (if bitOf cell.toNat 28 then fld PKP_OWN_PKC s else fld PKP_OWN_PKD s) = e.val + 1 →
         ∃ t, exec (.sequencerPush e cell) s = .next t ∧
           getSeq e t = { getSeq e s with rx := (getSeq e s).rx ++ [BitVec.ofNat 32 (5 * 2 ^ 29 + bitsOf cell.toNat 26 16)] } ∧
           getSeq (1 - e) t = getSeq (1 - e) s ∧ t = { s with pk := t.pk }) ∧
       (6 ≤ cell.toNat / 2 ^ 29 →
         ∃ t, exec (.sequencerPush e cell) s = .next t ∧ getSeq e t = getSeq e s ∧ flag (PKP_SEQSTAT_BADOP e) t = true ∧
           FieldsBut [PKP_SEQSTAT_BADOP e] s t ∧ t = { s with regs := t.regs })) ∧
     (∃ t, exec (.sequencerPop e) s = .next t ∧ getSeq e t = { getSeq e s with rx := (getSeq e s).rx.tail } ∧
       getSeq (1 - e) t = getSeq (1 - e) s ∧ t = { s with pk := t.pk }) ∧
     (∃ t, exec (.sequencerFlush e) s = .next t ∧ getSeq e t = ⟨[], [], none⟩ ∧ getSeq (1 - e) t = getSeq (1 - e) s ∧
       t = { s with pk := t.pk }) ∧
     (∃ t, exec (.sequencerDisable e) s = .next t ∧ getSeq e t = { getSeq e s with run := none } ∧
       getSeq (1 - e) t = getSeq (1 - e) s ∧ flag (PKP_SEQCTL_EN e) t = false ∧ FieldsBut [PKP_SEQCTL_EN e] s t ∧
       t = { s with regs := t.regs, pk := t.pk })) ∧
  (∀ (e : Fin 2) (edge lvl : Bool) (time : Nat) (w : Word) (s : State), Ready s → (getSeq e s).run = some w →
     (getSeq e s).rx.length < 16 → (if bitOf w.toNat 28 then fld PKP_OWN_PKC s else fld PKP_OWN_PKD s) = e.val + 1 →
     let op := w.toNat / 2 ^ 29
     let unit := if bitOf w.toNat 27 then 100 else 1
     let len := max 1 (w.toNat % 65536) * unit
     (op = 0 → (getSeq e s).tx = [] →
       ∃ t, exec (.sequencerCellEnd e edge lvl time) s = .next t ∧ getSeq e t = { getSeq e s with run := none } ∧
         getSeq (1 - e) t = getSeq (1 - e) s ∧ t.pk.lvlD = s.pk.lvlD ∧ t.pk.lvlC = s.pk.lvlC ∧ t = { s with pk := t.pk }) ∧
     (2 ≤ op → op ≤ 4 → (getSeq e s).tx = [] → (op = 2 ∨ edge = true) →
       ∃ (t : State) (r : Word), exec (.sequencerCellEnd e edge lvl time) s = .next t ∧
         getSeq e t = { getSeq e s with rx := (getSeq e s).rx ++ [r], run := none } ∧ r.toNat / 2 ^ 29 = op ∧
         bitOf r.toNat 28 = false ∧ bitOf r.toNat 27 = lvl ∧
         r.toNat % 2 ^ 24 = (if op = 2 then bitsOf w.toNat 26 16 * unit else min time len) ∧
         (if bitOf w.toNat 28 then t.pk.lvlC else t.pk.lvlD) = lvl ∧ getSeq (1 - e) t = getSeq (1 - e) s ∧ t = { s with pk := t.pk }) ∧
     (op = 3 ∨ op = 4 → bitOf w.toNat 16 = true → edge = false →
       ∃ (t : State) (r : Word), exec (.sequencerCellEnd e edge lvl time) s = .next t ∧
         getSeq e t = ⟨[], (getSeq e s).rx ++ [r], none⟩ ∧ r.toNat / 2 ^ 29 = op ∧ bitOf r.toNat 28 = true ∧
         bitOf r.toNat 27 = lvl ∧ r.toNat % 2 ^ 24 = len ∧ getSeq (1 - e) t = getSeq (1 - e) s ∧
         flag (PKP_SEQSTAT_ABRT e) t = true ∧ FieldsBut [PKP_SEQSTAT_ABRT e] s t ∧ t = { s with regs := t.regs, pk := t.pk }))

/-- The pack bus. PKB_XFER is the first attempt of the running transaction and PKB_ARB_RETRY a later one, in each form of R328; each
completes: without both lines the transaction ends at once; else, after a counted recovery where the bus was unknown or had been low, the
transaction ends with the DETAIL of R329 for what the bus did, or waits for its retry after a lost arbitration. A WRITE answered throughout
has put its bytes, with the check byte where PEC asks for it, on the wire; a READ, WRRD or BLKRD stores the bytes read at RBUF, also with
a wrong check byte, and RESULT0 says how many; a BLKRD count of 0 or above M stores nothing. The first two clauses hold also where a word of
WBUF is beyond correction. The bus once seen free reads free again. PKB_CLOCK_TIMEOUT completes: the transaction ends with the bus state
unknown. The event `free` of PKB_XFER is the model's choice (log entry 138), the place that IDX shows its reading (log entry 137). -/
def Obligations.PackBus : Prop :=
  ∀ s : State, vccOn s = true →
    (∀ (r : TagRec) (c : Bool → PkbEv → Instr), Legal s → Runs 3 r s →
      (c = .pkbXfer ∧ s.pkb.retries = 0) ∨ (c = .pkbArbRetry ∧ s.pkb.retries ≠ 0) → ∀ low : Bool,
      let idx := fld PKB_STAT_IDX s
      (∀ ev : PkbEv, ev ≠ .free → pkbOwns s = false →
        ∃ u, let t := complete r.tag 0 9 (65536 * idx) u
          exec (c low ev) s = .next (settle t) ∧ Done r.tag t ∧ flag PKB_STAT_BUSY u = false ∧
          fld PKB_STAT_BUS u = (if fld PKB_STAT_BUS s = 1 then 0 else fld PKB_STAT_BUS s) ∧
          FieldsBut [PKB_STAT_BUSY, PKB_STAT_BUS] s u ∧ u = { s with regs := u.regs, pkb := { s.pkb with retries := 0 } }) ∧
      (pkbOwns s = true →
        (∀ ev : PkbEv, ev ≠ .free → (∀ i bit, ev = .arb i bit → 3 ≤ s.pkb.retries) →
          ∃ t, exec (c low ev) s = .next (settle t) ∧ Done r.tag t ∧ t.pkb.retries = 0 ∧ flag PKB_STAT_BUSY t = false) ∧
        (∀ i bit : Nat, s.pkb.retries < 3 → ∃ t, exec (c low (.arb i bit)) s = .next (settle t) ∧ t.rng = s.rng ∧
          t.pkb.retries = s.pkb.retries + 1 ∧ fld PKB_STAT_IDX t = i % 128 ∧ fld PKB_STAT_ARBBIT t = bit % 8 ∧
          flag PKB_STAT_BUSY t = true ∧ fld PKB_STAT_BUS t = 2 ∧ flag PKB_STAT_ARBEVT t = true ∧
          fld PKB_CNT_ARB t = min (fmax PKB_CNT_ARB) (fld PKB_CNT_ARB s + 1))) ∧
      (let form := entB r.ent 9 % 4
       let pec := bitOf (entB r.ent 9) 2
       let n := entB r.ent 10
       let m := entB r.ent 11
       let wbuf := entH r.ent 12
       let rbuf := entH r.ent 14
       let aw : Byte := BitVec.ofNat 8 (entB r.ent 8 * 2)
       let ar : Byte := BitVec.ofNat 8 (entB r.ent 8 * 2 + 1)
       let out := if n = 0 then [] else ramBytes wbuf n s
       let head := (if form = 1 then [] else aw :: out) ++ [ar]
       let rec' := s.pkb.unknown || low
       let ends := fun (hang : Bool) (bus place : Nat) (l : List Fld) (u : State) =>
         u.pkb.retries = 0 ∧ flag PKB_STAT_BUSY u = false ∧ fld PKB_STAT_BUS u = bus ∧ fld PKB_STAT_IDX u = place ∧
         flag PKB_STAT_HANGEVT u = (flag PKB_STAT_HANGEVT s || hang) ∧
         fld PKB_CNT_HANG u = min (fmax PKB_CNT_HANG) (fld PKB_CNT_HANG s + b2n hang) ∧
         FieldsBut ([PKB_STAT_BUSY, PKB_STAT_BUS, PKB_STAT_HANGEVT, PKB_CNT_HANG] ++ l) s u
       pkbOwns s = true → opParamOk r.ent = true → (∀ i < n, CleanAt (wbuf + i) s) → (∀ i < m, CleanAt (rbuf + i) s) →
       (∀ rx : List Byte, form = 0 →
         ∃ u, let t := complete r.tag 0 0 (65536 * idx) u
           exec (c low (.done rx)) s = .next (settle t) ∧ Done r.tag t ∧ ends rec' 0 idx [] u ∧ u.pkb.unknown = false ∧
           u.pkb.wire = aw :: out ++ (if pec then [crc8 (aw :: out)] else []) ∧ u = { s with regs := u.regs, pkb := u.pkb }) ∧
       (∀ rx : List Byte, form ≠ 0 →
         let b := fun i => rx.getD i 0xFF
         let cnt := if form = 3 then (b 0).toNat else m
         (form = 3 → cnt = 0 ∨ m < cnt →
           ∃ u, let t := complete r.tag 0 0xA (256 * cnt + 65536 * head.length) u
             exec (c low (.done rx)) s = .next (settle t) ∧ Done r.tag t ∧ ends rec' 0 head.length [PKB_STAT_IDX] u ∧
             u.pkb.unknown = false ∧ u.pkb.wire = head ++ [b 0] ∧ u = { s with regs := u.regs, pkb := u.pkb }) ∧
         (form = 3 → 0 < cnt ∧ cnt ≤ m →
           let lead := if form = 3 then 1 else 0
           let wire := head ++ (List.range (lead + cnt)).map b
           let bad := pec && crc8 wire != b (lead + cnt)
           let place := if bad then wire.length else idx
           ∃ u, let t := complete r.tag 0 (if bad then 3 else 0) (cnt + (if form = 3 then 256 * cnt else 0) + 65536 * place) u
             exec (c low (.done rx)) s = .next (settle t) ∧ Done r.tag t ∧
             ends rec' 0 place (if bad then [PKB_STAT_IDX, PKB_STAT_PECEVT, PKB_CNT_PEC] else []) u ∧
             (bad = true → flag PKB_STAT_PECEVT u = true ∧ fld PKB_CNT_PEC u = min (fmax PKB_CNT_PEC) (fld PKB_CNT_PEC s + 1)) ∧
             u.evq = s.evq ++ (if bad then [⟨srcPkbPec, 2, some uPkb, 0⟩] else []) ∧ u.pkb.unknown = false ∧
             u.pkb.wire = wire ++ (if pec then [b (lead + cnt)] else []) ∧
             (∀ x, ramByte x u = if rbuf ≤ x ∧ x < rbuf + cnt then b (lead + (x - rbuf)) else ramByte x s) ∧
             u = { s with regs := u.regs, pkb := u.pkb, mem := u.mem, ramErr := u.ramErr, evq := u.evq })) ∧
       (∀ i : Nat,
         let d := if i = 0 ∨ 2 ≤ form ∧ i = n + 1 then 1 else 2
         ∃ u, let t := complete r.tag 0 d (65536 * (i % 128)) u
           exec (c low (.nack i)) s = .next (settle t) ∧ Done r.tag t ∧ ends rec' 0 (i % 128) [PKB_STAT_IDX, PKB_CNT_NACK] u ∧
           fld PKB_CNT_NACK u = min (fmax PKB_CNT_NACK) (fld PKB_CNT_NACK s + 1) ∧ u = { s with regs := u.regs, pkb := u.pkb }) ∧
       (∀ i bit : Nat, 3 ≤ s.pkb.retries →
         ∃ u, let t := complete r.tag 0 4 (65536 * (i % 128)) u
           exec (c low (.arb i bit)) s = .next (settle t) ∧ Done r.tag t ∧
           ends rec' 2 (i % 128) [PKB_STAT_IDX, PKB_STAT_ARBBIT, PKB_STAT_ARBEVT, PKB_CNT_ARB] u ∧ fld PKB_STAT_ARBBIT u = bit % 8 ∧
           u = { s with regs := u.regs, pkb := u.pkb, evq := s.evq ++ [⟨srcPkbArb, 2, some uPkb, 0⟩] }) ∧
       (∀ i : Nat,
         ∃ u, let t := complete r.tag 0 5 (65536 * (i % 128)) u
           exec (c low (.arbStop i)) s = .next (settle t) ∧ Done r.tag t ∧
           ends rec' 3 (i % 128) [PKB_STAT_IDX, PKB_STAT_ARBEVT, PKB_CNT_ARB] u ∧ u.pkb.unknown = true ∧
           u = { s with regs := u.regs, pkb := u.pkb, evq := s.evq ++ [⟨srcArbStop, 2, some uPkb, 0⟩] }) ∧
       (∀ i : Nat,
         ∃ u, let t := complete r.tag 0 6 (65536 * (i % 128)) u
           exec (c low (.srack i)) s = .next (settle t) ∧ Done r.tag t ∧ ends rec' 2 (i % 128) [PKB_STAT_IDX, PKB_STAT_SRACKEVT] u ∧
           flag PKB_STAT_SRACKEVT u = true ∧
           u = { s with regs := u.regs, pkb := u.pkb, evq := s.evq ++ [⟨srcPkbSrack, 2, some uPkb, 0⟩] }) ∧
       (∃ u, let t := complete r.tag 0 8 0 u
          exec (c low .hang) s = .next (settle t) ∧ Done r.tag t ∧ ends true 3 0 [PKB_STAT_IDX] u ∧ u.pkb.unknown = true ∧
          u = { s with regs := u.regs, pkb := u.pkb }))) ∧
    (∀ (r : TagRec) (idx : Nat), Legal s → Runs 3 r s →
      ∃ u, let t := complete r.tag 0 7 (65536 * (idx % 128)) u
        exec (.pkbClockTimeout idx) s = .next (settle t) ∧ Done r.tag t ∧ fld PKB_STAT_BUS u = 3 ∧ fld PKB_STAT_IDX u = idx % 128 ∧
        flag PKB_STAT_BUSY u = false ∧ FieldsBut [PKB_STAT_BUS, PKB_STAT_IDX, PKB_STAT_BUSY] s u ∧
        u = { s with regs := u.regs, pkb := { s.pkb with unknown := true, arbUs := none, retries := 0 } }) ∧
    (Quiet s → ∀ (c : Bool → PkbEv → Instr) (low : Bool),
      (c = .pkbXfer ∨ c = .pkbArbRetry →
        (fld PKB_STAT_BUS s = 2 → ∃ t, exec (c low .free) s = .next t ∧ fld PKB_STAT_BUS t = 0 ∧ FieldsBut [PKB_STAT_BUS] s t ∧
          t = { s with regs := t.regs }) ∧
        (fld PKB_STAT_BUS s = 3 → s.pkb.unknown = true → (∀ u, s.pkb.arbUs = some u → nowUs s ≤ u + 35000) → s.pkb.arbUs ≠ none →
          ∃ t, exec (c low .free) s = .next t ∧ fld PKB_STAT_BUS t = 0 ∧ FieldsBut [PKB_STAT_BUS] s t ∧
            t = { s with regs := t.regs, pkb := { s.pkb with unknown := false, arbUs := none } })) ∧
      (unitOp 3 s = none → ∀ (ev : PkbEv) (idx : Nat), ev ≠ .free →
        exec (.pkbXfer low ev) s = .next s ∧ exec (.pkbArbRetry low ev) s = .next s ∧ exec (.pkbClockTimeout idx) s = .next s))

/-! ## Program store -/

/-- PS-WRITE is refused while an arm, a swap or a check window is on, and past the end of the bank; from a clean source it writes
its lines into the inactive bank, whose VALID and FAIL fall; a line that fails its verification ends it with NVM_ERR. The scrub: a
clean line moves the position on; a line with no more than one bad bit in any lane is corrected and reported, one beyond
correction is reported and takes VALID from the inactive bank, and with it a pending arm. The marker's copies follow the lines:
one that is corrected is rewritten, one beyond correction is reported with MARK, and after the second the pass is counted. A burst
of at most 32 physical bits is always corrected, and one of at most 64 never delivers wrong data. That PS-WRITE answers 0x01 before
0x02, where both hold, is the model's choice (log entry 179). -/
def Obligations.StoreWriteAndScrub : Prop :=
  (∀ (r : TagRec) (bad : Option (Fin 16)) (s : State), Legal s → vccOn s = true →
     (Quiet s → unitOp 5 s = none → exec (.psWrite bad) s = .next s) ∧
     (Runs 5 r s →
       let dst := entH r.ent 10
       let n := entB r.ent 12
       (armBusy s = true → exec (.psWrite bad) s = .next (settle (complete r.tag 0 1 0 s))) ∧
       (armBusy s = false → 65536 < dst + 64 * n → exec (.psWrite bad) s = .next (settle (complete r.tag 0 2 0 s))) ∧
       (∀ a d : Nat, armBusy s = false → entH r.ent 8 = 64 * a → dst = 64 * d → d + n ≤ 1024 → 0 < n → n ≤ 16 →
         (∀ i < 16 * n, CleanAt (64 * a + 4 * i) s) →
         let b := !actBank s
         ((∀ k, bad = some k → n ≤ k.val) → ∃ t, exec (.psWrite bad) s = .next (settle t) ∧ Done r.tag t ∧
           (∀ i < 64 * n, psByte b (dst + i) t = ramByte (64 * a + i) s) ∧
           (∀ c x, x < 65536 → c ≠ b ∨ x < dst ∨ dst + 64 * n ≤ x → psByte c x t = psByte c x s) ∧
           (∀ l, d ≤ l → l < d + n → lineErrAt b l t = 0) ∧ flag (psValid b) t = false ∧ flag (psFail b) t = false ∧ t.sup = s.sup) ∧
         (∀ k, bad = some k → k.val < n → ∃ t, exec (.psWrite bad) s = .next (settle t) ∧ Done r.tag t ∧
           ⟨srcNvmErr, 2, none, 0⟩ ∈ t.evq ∧ flag (psValid b) t = false ∧
           (∀ i < 64 * k.val, psByte b (dst + i) t = ramByte (64 * a + i) s) ∧
           (∀ x, x < 65536 → psByte (!b) x t = psByte (!b) x s))))) ∧
  (∀ s : State, vccOn s = true → flag FLT_INJ_ARM s = false → s.store.scrubPos < 2048 →
     let b := decide (1024 ≤ s.store.scrubPos)
     let l := s.store.scrubPos % 1024
     let next := (s.store.scrubPos + 1) % 2050
     (Quiet s → lineErrAt b l s = 0 → ∃ t, exec .scrubLine s = .next t ∧
       FieldsBut [GLB_PSSCRUB_LINE, GLB_PSSCRUB_BANK, GLB_PSSCRUB_MARK] s t ∧
       t = { s with regs := t.regs, store := { s.store with scrubPos := next } }) ∧
     (Legal s → lineErrAt b l s = 1 → ∃ t, exec .scrubLine s = .next (settle t) ∧ lineErrAt b l t = 0 ∧ t.store.scrubPos = next ∧
       (∀ c x, x < 65536 → psByte c x t = psByte c x s) ∧ fld GLB_PSECC_CORR t = min (fmax GLB_PSECC_CORR) (fld GLB_PSECC_CORR s + 1) ∧
       t.evq = s.evq ++ [⟨srcEccPs, 1, none, b2n b * 32768 + l⟩]) ∧
     (2 ≤ lineErrAt b l s → ∃ t, exec .scrubLine s = .next (settle t) ∧ lineErrAt b l t = lineErrAt b l s ∧ t.store.scrubPos = next ∧
       t.store.bytes = s.store.bytes ∧ fld GLB_PSECC_UNCOR t = min (fmax GLB_PSECC_UNCOR) (fld GLB_PSECC_UNCOR s + 1) ∧
       fld GLB_PSECC_LINE t = l ∧ t.evq = s.evq ++ [⟨srcEccPs, 2, none, b2n b * 32768 + l⟩] ∧
       (b ≠ actBank s → flag (psValid b) t = false ∧ flag GLB_PSSTAT_PEND t = false ∧
         (flag GLB_PSSTAT_PEND s = true → t.store.verifying = false ∧ fld GLB_PSSTAT_ARMRES t = 7)))) ∧
  (∀ (c : Fin 2) (s : State), vccOn s = true → flag FLT_INJ_ARM s = false → s.store.scrubPos = 2048 + c →
     let n := markerLevel c 0 s.store
     let next := if c = 0 then 2049 else 0
     let copy := if c = 0 then s.store.mk0 else s.store.mk1
     ∃ t, exec .scrubLine s = .next (settle t) ∧ t.store.scrubPos = next ∧ t.store.bytes = s.store.bytes ∧
       fld GLB_PSSCRUB_PASSES t = (if c = 0 then fld GLB_PSSCRUB_PASSES s else (fld GLB_PSSCRUB_PASSES s + 1) % (fmax GLB_PSSCRUB_PASSES + 1)) ∧
       (n = 0 → t.evq = s.evq ∧ t.store = { s.store with scrubPos := next }) ∧
       (n = 1 → t.evq = s.evq ++ [⟨srcEccPs, 1, none, 16384 + c⟩] ∧
         fld GLB_PSECC_CORR t = min (fmax GLB_PSECC_CORR) (fld GLB_PSECC_CORR s + 1) ∧
         (lineWild copy.flips = false → (if c = 0 then t.store.mk0 else t.store.mk1) = { copy with flips := [] })) ∧
       (2 ≤ n → t.evq = s.evq ++ [⟨srcEccPs, 2, none, 16384 + c⟩] ∧ flag GLB_PSECC_LMARK t = true ∧ fld GLB_PSECC_LINE t = c ∧
         fld GLB_PSECC_UNCOR t = min (fmax GLB_PSECC_UNCOR) (fld GLB_PSECC_UNCOR s + 1) ∧
         t.store = { s.store with scrubPos := next })) ∧
  (∀ (b : Bool) (l a w : Nat) (s : State), (lineFlips b l s).Nodup → (∀ p ∈ lineFlips b l s, a ≤ p ∧ p < a + w) →
     (w ≤ 32 → lineErrAt b l s ≤ 1) ∧ (w ≤ 64 → ∀ x < 64, psByte b (64 * l + x) s = cellGet s.store.bytes (b2n b * 65536 + 64 * l + x)))

/-- An update: armed, verified, and swapped in at a superframe boundary with a check window, which ends in a commit, a rollback,
or, after an image recovery, in Fawn mode. A disarm in the clock of the swap is too late (R416). Both copies of the marker are
rewritten, and every engine, one that was reset earlier in the tick too, starts in this frame (R417, R422). The model's readings: a
failed verification clears VALID (log entry 72), both copies of the marker are shown rewritten at once (log entry 71), and a window that fails
after an image recovery keeps the active bank (log entry 78); its choice: TBANK of the marker names the active bank after a commit, a rollback
or an image recovery (log entry 214). -/
def Obligations.UpdateRows : Prop :=
  ∀ s : State, Ready s →
    (armBusy s = false → psWritePending s = false → s.sup.shipBegun = false → inFawn s = false → entryFenced (!actBank s) s = false →
      (flag (psFail (!actBank s)) s = true → ∃ t, exec (.arm none) s = .next t ∧ fld GLB_PSSTAT_ARMRES t = 6 ∧
        FieldsBut [GLB_PSSTAT_ARMRES] s t ∧ t = { s with regs := t.regs }) ∧
      (flag (psFail (!actBank s)) s = false → ∃ t, exec (.arm none) s = .next t ∧ fld GLB_PSSTAT_ARMRES t = 1 ∧
        FieldsBut [GLB_PSSTAT_ARMRES] s t ∧ t = { s with regs := t.regs, store := { s.store with verifying := true } })) ∧
    (armBusy s = true ∨ psWritePending s = true ∨ s.sup.shipBegun = true → ∃ t, exec (.arm none) s = .next t ∧
      fld GLB_PSSTAT_ARMRES t = 5 ∧ FieldsBut [GLB_PSSTAT_ARMRES] s t ∧ t = { s with regs := t.regs }) ∧
    (s.store.verifying = false → exec .armVerifyDone s = .next s) ∧
    (s.store.verifying = true → ∃ t, exec .armVerifyDone s = .next (settle t) ∧ t.store.verifying = false ∧
      fld GLB_PSSTAT_ARMRES t ∈ [2, 3, 4] ∧ (flag (psValid (!actBank s)) t = true ↔ fld GLB_PSSTAT_ARMRES t = 2) ∧
      (fld GLB_PSSTAT_ARMRES t = 2 → flag GLB_PSSTAT_PEND t = true ∧ headerPasses (psBytes (!actBank s) 0 64 s) = true) ∧
      t.store.bytes = s.store.bytes) ∧
    (s.clk.swDue = true → flag GLB_PSSTAT_PEND s = true → exec (.disarm none) s = .next s) ∧
    (s.store.verifying = true ∨ flag GLB_PSSTAT_PEND s = true → s.clk.swDue = false ∨ flag GLB_PSSTAT_PEND s = false →
      ∃ t, exec (.disarm none) s = .next t ∧ fld GLB_PSSTAT_ARMRES t = 7 ∧
      flag GLB_PSSTAT_PEND t = false ∧ FieldsBut [GLB_PSSTAT_ARMRES, GLB_PSSTAT_PEND] s t ∧
      t = { s with regs := t.regs, store := { s.store with verifying := false } }) ∧
    (s.store.verifying = false → flag GLB_PSSTAT_PEND s = false → exec (.disarm none) s = .next s) ∧
    (s.clk.swDue = false → exec .bankSwap s = .next s ∧ exec .checkWindowClose s = .next s ∧ exec .imageRecovery s = .next s) ∧
    (∀ (c : Instr) (kind : Nat), s.clk.swDue = true → flag GLB_PSSTAT_PEND s = true →
      (c = .bankSwap ∧ kind = 1 ∧ inFawn s = false ∧ entryFenced (!actBank s) s = false ∨
        c = .imageRecovery ∧ kind = 3 ∧ inFawn s = true ∧ fld FLT_FAWN_CAUSE s ∈ [1, 8]) →
      ∃ t, exec c s = .next (settle t) ∧ actBank t = !actBank s ∧ flag GLB_PSSTAT_PEND t = false ∧ flag GLB_PSSTAT_TRIAL t = true ∧
        flag GLB_PSSTAT_SWEVT t = true ∧ t.store.winOpen = true ∧ t.store.winFail = 0 ∧ t.store.winRecovery = decide (kind = 3) ∧
        t.store.oldBank = actBank s ∧ t.clk.swDue = false ∧ t.store.bytes = s.store.bytes ∧ inFawn t = false ∧
        t.store.mk0 = ⟨if kind = 3 then !actBank s else actBank s, kind == 1, !actBank s, []⟩ ∧ t.store.mk1 = t.store.mk0 ∧
        t.flt.relEng = [] ∧
        (∃ l ∈ t.logq, l.typ = 3 ∧ l.code = kind)) ∧
    (s.clk.swDue = true → s.store.winOpen = true →
      let m := (windowMask s).1
      (m = 0 → ∃ t, exec .checkWindowClose s = .next (settle t) ∧ t.store.winOpen = false ∧ flag GLB_PSSTAT_TRIAL t = false ∧
        flag GLB_PSSTAT_CMTEVT t = true ∧ fld GLB_PSSTAT_CHKFAIL t = 0 ∧ actBank t = actBank s ∧ t.engs = s.engs ∧
        t.store.mk0 = ⟨actBank s, false, actBank s, []⟩ ∧ t.store.mk1 = t.store.mk0) ∧
      (m ≠ 0 → s.store.winRecovery = false → ∃ t, exec .checkWindowClose s = .next (settle t) ∧ t.store.winOpen = false ∧
        actBank t = s.store.oldBank ∧ flag (psFail (actBank s)) t = true ∧ fld GLB_PSSTAT_CHKFAIL t = m ∧
        flag GLB_PSSTAT_RBEVT t = true ∧ ⟨srcUpdRollback, 2, none, m⟩ ∈ t.evq ∧
        t.store.mk0 = ⟨s.store.oldBank, false, s.store.oldBank, []⟩ ∧ t.store.mk1 = t.store.mk0 ∧ t.flt.relEng = []) ∧
      (m ≠ 0 → s.store.winRecovery = true → inFawn s = false → ∃ t, exec .checkWindowClose s = .next (settle t) ∧
        t.store.winOpen = false ∧ inFawn t = true ∧ fld FLT_FAWN_CAUSE t = 8 ∧ actBank t = actBank s ∧
        flag (psFail (actBank s)) t = true))

/-! ## Herd Link -/

/-- The node's place in a ring: training and its lock, claims, losses, the roll call, and the enable.
A beacon that fails its check is discarded and reported, the lead checking the records behind it all the same; a good one carries
membership and FRM, moves the tick of a trained node, in the frame whose ticks 190-199 are still to come, and goes on with its hop
count one higher, a claim too; a lower claim ends the node's own, one return of its own counts in a frame, and the eighth such frame
makes it lead. The model's readings: the loser of a claim takes ROLE node and forwards the claim (log entry 65), which frames move
and which FRM is adopted (log entry 197), that the FRM and index of a new lead are adopted too (log entry 212), and that no claim starts
before the first frame (log entry 210); its choices: TALIGN of a lead (log entry 175) and of a node whose later beacon is more than
100 ns off (log entry 176). -/
def Obligations.LinkRolesAndBeacons : Prop :=
  (∀ s : State, Ready s → (∀ x ∈ s.lnk.txq, x.sent = none) →
     (flag LNK_STAT_LOCK s = true → ∃ t, exec .receiveLockLoss s = .next t ∧ flag LNK_STAT_LOCK t = false ∧
       flag GLB_CLKSTAT_TALIGN t = false ∧ flag GLB_CLKSTAT_LOCKLOST t = true ∧
       FieldsBut [LNK_STAT_LOCK, GLB_CLKSTAT_TALIGN, GLB_CLKSTAT_LOCKLOST, GLB_CLKSTAT_CLKSRC, GLB_OSCCOR_COR] s t ∧
       t = { s with regs := t.regs, lnk := { s.lnk with
         stretch := if s.clk.sft < 190 then 0 else s.lnk.stretch, moveLeft := 0, adopt := none } }) ∧
     (flag LNK_STAT_LOCK s = false → exec .receiveLockLoss s = .next s) ∧
     (∀ lat : Nat, lnkMay s = true →
       (lnkRole s = 1 → ∃ t, exec (.linkTraining lat) s = .next t ∧ flag LNK_STAT_LOCK t = true ∧
         FieldsBut [LNK_STAT_LOCK, GLB_CLKSTAT_CLKSRC, GLB_OSCCOR_COR] s t ∧ (s.clk.bkosc = false → fld GLB_OSCCOR_COR t = 0) ∧
         t = { s with regs := t.regs, lnk := { s.lnk with lat := lat % 256, hops := [], trained := false } }) ∧
       (lnkRole s ∉ [0, 1, 4] → ∃ t, exec (.linkTraining lat) s = .next t ∧ flag LNK_STAT_LOCK t = true ∧
         FieldsBut [LNK_STAT_LOCK, GLB_CLKSTAT_CLKSRC, GLB_OSCCOR_COR] s t ∧
         t = { s with regs := t.regs, lnk := { s.lnk with lat := if s.lnk.trained then s.lnk.lat else lat % 256 } }) ∧
       (lnkRole s = 4 → ∃ t, exec (.linkTraining lat) s = .next t ∧ flag LNK_STAT_LOCK t = true ∧
         FieldsBut [LNK_STAT_LOCK, GLB_CLKSTAT_CLKSRC, GLB_OSCCOR_COR] s t ∧ t = { s with regs := t.regs }) ∧
       (lnkRole s = 0 → exec (.linkTraining lat) s = .next s)) ∧
     (∀ c : Instr, (c = .claimStart ∧ s.clk.running = true ∧ lnkRole s = 1 ∧ flag LNK_STAT_LOCK s = false ∨
         c = .claimAfterLoss ∧ (lnkRole s = 3 ∨ lnkRole s = 5) ∧ s.lnk.lost = true) →
       (lnkMay s = true → lnkEligible s = true → ∃ t, exec c s = .next t ∧ lnkRole t = 2 ∧ flag LNK_STAT_BYP t = false ∧
         FieldsBut [LNK_STAT_ROLE, LNK_STAT_BYP, GLB_CLKSTAT_CLKSRC, GLB_OSCCOR_COR] s t ∧
         t = { s with regs := t.regs, lnk := { s.lnk with
           claims := 0, claimBack := false, adopt := none, relay := [], rollSend := false, rollDue := false
           stretch := if s.clk.sft < 190 then 0 else s.lnk.stretch, moveLeft := 0 } }) ∧
       (lnkEligible s = false → exec c s = .next s)) ∧
     (s.clk.running = false → exec .claimStart s = .next s) ∧
     (∀ c : Instr, (c = .beaconLoss ∧ (lnkRole s = 3 ∨ lnkRole s = 5) ∨ c = .leadHeaderLoss ∧ lnkRole s = 4) →
       (s.lnk.lost = true → exec c s = .next s) ∧
       (s.lnk.lost = false → ∃ t, exec c s = .next (settle t) ∧ flag LNK_STAT_LOSTEVT t = true ∧ flag LNK_STAT_STATIC t = true ∧
         flag LNK_STAT_ACCT t = false ∧ fld LNK_ERRCNT_LOST t = min (fmax LNK_ERRCNT_LOST) (fld LNK_ERRCNT_LOST s + 1) ∧
         t.evq = s.evq ++ [⟨srcLnkLost, 2, some uLnk, 0⟩] ∧
         FieldsBut [LNK_STAT_LOSTEVT, LNK_STAT_STATIC, LNK_STAT_ACCT, LNK_ERRCNT_LOST, ⟨HST_NPEND, 5, 5⟩] s t ∧
         t = { s with regs := t.regs, evq := t.evq, lnk := { s.lnk with
           lost := true, stretch := if s.clk.sft < 190 then 0 else s.lnk.stretch, moveLeft := 0 } })) ∧
     (lnkRole s = 4 → exec .linkRollRequest s = .next { s with lnk := { s.lnk with rollDue := true } }) ∧
     (lnkRole s ≠ 4 → exec .linkRollRequest s = .next s ∧ exec .rollcall s = .next s) ∧
     (lnkRole s = 4 → s.lnk.rollDue = false ∨ s.lnk.rollSend = true ∨ s.lnk.roll ≠ 0 → exec .rollcall s = .next s) ∧
     (lnkRole s = 4 → s.lnk.rollDue = true → s.lnk.rollSend = false → s.lnk.roll = 0 → ∃ t, exec .rollcall s = .next t ∧
       flag LNK_STAT_ROLLEVT t = true ∧ fld LNK_ERRCNT_REFORM t = min (fmax LNK_ERRCNT_REFORM) (fld LNK_ERRCNT_REFORM s + 1) ∧
       FieldsBut [LNK_STAT_ROLLEVT, LNK_ERRCNT_REFORM] s t ∧
       t = { s with regs := t.regs, lnk := { s.lnk with rollDue := false, rollSend := true, assigns := [] } }) ∧
     (∀ en : Bool,
       (flag LNK_CTL_EN s = en → exec (.linkEnableWrite en) s = .next s) ∧
       (flag LNK_CTL_EN s = !en → (en = true → fencedU uLnk s = false ∧ s.clk.bkosc = false ∧ s.sup.shipBegun = false) →
         ∃ t, exec (.linkEnableWrite en) s = .next t ∧ flag LNK_CTL_EN t = en ∧ lnkRole t = (if en then 1 else 0) ∧
           flag LNK_STAT_BYP t = true ∧ flag LNK_STAT_ACCT t = false ∧ flag LNK_STAT_LOCK t = false ∧ t.lnk.trained = false ∧
           t = { s with regs := t.regs, lnk := t.lnk }))) ∧
  (∀ (bs : List Byte) (err : Bool) (lead : BitVec 12) (arr : Int) (recs : List (List Byte × Bool)) (s : State), Ready s →
     flag FLT_INJ_ARM s = false →
     let claim := bitOf (lb bs 1) 1
     let ok := err = false ∧ bs.length = 16 ∧
       (lnkCrc (foldLead (if claim then 0 else lead.toNat)) ((bs.drop 1).take 7)).toNat = lw bs 12
     let key := lb bs 6 % 16 * 2 ^ 32 + lw bs 2
     let own := fld LNK_CTL_LPRI s * 2 ^ 32 + rd LNK_UID s
     (lnkRole s = 0 ∨ lnkMay s = false → exec (.beaconReceived bs err lead arr recs) s = .next s) ∧
     (lnkRole s ≠ 0 → lnkMay s = true →
       (¬ ok → ∃ t, exec (.beaconReceived bs err lead arr recs) s =
           .next (settle (if lnkRole s = 4 ∧ lead.toNat = lnkAddr s then leadRecords recs t else t)) ∧ flag LNK_STAT_CRCEVT t = true ∧
         fld LNK_ERRCNT_CRC t = min (fmax LNK_ERRCNT_CRC) (fld LNK_ERRCNT_CRC s + 1) ∧
         FieldsBut [LNK_STAT_CRCEVT, LNK_ERRCNT_CRC] s t ∧ t = { s with regs := t.regs, evq := [⟨srcLnkCrc, 1, some uLnk, 0⟩] }) ∧
       (ok → claim = false → lnkRole s = 3 → ∃ t, exec (.beaconReceived bs err lead arr recs) s = .next t ∧
         flag LNK_STAT_MEMBER t = true ∧ lnkRole t = 3 ∧ t.lnk.lead = lead.toNat ∧ t.lnk.lost = false ∧
         t.lnk.bfrm.toNat = lw bs 2 ∧ t.lnk.bidx = lb bs 6 ∧ t.lnk.bclk = clockNow s ∧ flag LNK_STAT_DBL t = bitOf (lb bs 1) 0 ∧ t.lnk.outHdr.take 8 = bs.take 8 ∧
         lh t.lnk.outHdr 8 = (lh bs 8 % 512 + 1) % 512 ∧ t.lnk.outHdr.length = 16 ∧
         (s.lnk.lead ≠ lead.toNat → flag LNK_STAT_REFEVT t = true ∧
           fld LNK_ERRCNT_REFORM t = min (fmax LNK_ERRCNT_REFORM) (fld LNK_ERRCNT_REFORM s + 1)) ∧
         (s.lnk.lead = lead.toNat → fld LNK_ERRCNT_REFORM t = fld LNK_ERRCNT_REFORM s) ∧
         (s.lnk.trained = true → lh bs 8 % 512 = fld LNK_POS_INDEX s → let sob := arr % (32000 + s.lnk.stretch)
           let lag := sob - (fld LNK_TIME_HOPD s + fld LNK_SEG_SEG s : Nat)
           let k := (lag + 16000) / 32000
           let move := lag - 32000 * k
           lh t.lnk.outHdr 10 = (fld LNK_TIME_HOPD s + fld LNK_SEG_SEG s + s.lnk.lat) % 65536 ∧
           (s.clk.running = false → t.lnk.stretch = s.lnk.stretch ∧ t.lnk.moveLeft = s.lnk.moveLeft ∧
             flag GLB_CLKSTAT_TALIGN t = flag GLB_CLKSTAT_TALIGN s ∧ t.lnk.adopt = s.lnk.adopt) ∧
           (s.clk.running = true →
             (max sob (16 * s.clk.sft : Nat) + 512 < 3040 → t.lnk.stretch = clampI (-32) 32 move) ∧
             (3040 ≤ max sob (16 * s.clk.sft : Nat) + 512 → t.lnk.stretch = s.lnk.stretch) ∧
             t.lnk.moveLeft = move - t.lnk.stretch ∧
             (flag GLB_CLKSTAT_TALIGN t = true ↔ flag GLB_CLKSTAT_TALIGN s = true ∨ -160 ≤ move ∧ move ≤ 160) ∧
             (let now : Word × Nat := (BitVec.ofInt 32 (lw bs 2 - k), ((lb bs 6 - k) % 50).toNat)
              let anew : Prop := s.lnk.readopt = true ∨ s.lnk.lead ≠ lead.toNat
              (flag GLB_CLKSTAT_TALIGN s = false → -160 ≤ move → move ≤ 160 → t.lnk.adopt = some now ∧ t.lnk.readopt = false) ∧
              (flag GLB_CLKSTAT_TALIGN s = true → anew → -160 ≤ move → move ≤ 160 → t.lnk.readopt = false ∧
                t.lnk.adopt = if now = (s.clk.frm, s.clk.fidx) then s.lnk.adopt else some now) ∧
              (flag GLB_CLKSTAT_TALIGN s = true → ¬ anew → t.lnk.adopt = s.lnk.adopt) ∧
              (¬ (-160 ≤ move ∧ move ≤ 160) → t.lnk.adopt = s.lnk.adopt ∧ (anew → t.lnk.readopt = true))))) ∧
         t = { s with regs := t.regs, lnk := t.lnk }) ∧
       (ok → claim = true → lnkRole s = 2 →
         (key < own → ∃ t, exec (.beaconReceived bs err lead arr recs) s = .next t ∧ lnkRole t = 3 ∧ t.lnk.outHdr.take 8 = bs.take 8 ∧
           lh t.lnk.outHdr 8 = (lh bs 8 % 512 + 1) % 512 ∧ t.lnk.outHdr.drop 12 = bs.drop 12 ∧ t = { s with regs := t.regs, lnk := t.lnk }) ∧
         (key = own → s.lnk.claimBack = false → s.lnk.claims < 7 → ∃ t, exec (.beaconReceived bs err lead arr recs) s = .next t ∧
           lnkRole t = 2 ∧ FieldsBut [LNK_STAT_MEMBER] s t ∧
           t = { s with regs := t.regs, lnk := { s.lnk with claims := s.lnk.claims + 1, claimBack := true } }) ∧
         (key = own → s.lnk.claimBack = true → s.lnk.claims < 8 → ∃ t, exec (.beaconReceived bs err lead arr recs) s = .next t ∧
           lnkRole t = 2 ∧ FieldsBut [LNK_STAT_MEMBER] s t ∧ t = { s with regs := t.regs }) ∧
         (key = own → s.lnk.claimBack = false → 7 ≤ s.lnk.claims → ∃ t, exec (.beaconReceived bs err lead arr recs) s = .next t ∧
           lnkRole t = 4 ∧ flag LNK_STAT_MEMBER t = true ∧ lnkAddr t = (if lnkAddr s = 0 then 1 else lnkAddr s) ∧
           fld LNK_POS_INDEX t = 0 ∧ t.lnk.rollDue = true ∧ t.lnk.adopt = none ∧
           t.lnk.stretch = (if s.clk.sft < 190 then 0 else s.lnk.stretch) ∧ t.lnk.moveLeft = 0 ∧
           t = { s with regs := t.regs, lnk := t.lnk }) ∧
         (own < key → ∃ t, exec (.beaconReceived bs err lead arr recs) s = .next t ∧ FieldsBut [LNK_STAT_MEMBER] s t ∧
           t = { s with regs := t.regs })) ∧
       (ok → claim = true → lnkRole s = 3 ∨ lnkRole s = 5 → ∃ t, exec (.beaconReceived bs err lead arr recs) s = .next t ∧
         t.lnk.outHdr.take 8 = bs.take 8 ∧ lh t.lnk.outHdr 8 = (lh bs 8 % 512 + 1) % 512 ∧ t.lnk.outHdr.drop 12 = bs.drop 12 ∧
         FieldsBut [LNK_STAT_MEMBER] s t ∧ t = { s with regs := t.regs, lnk := { s.lnk with outHdr := t.lnk.outHdr } })))

/-- A command slot that fails its check is discarded and reported; a good one carries the budget's levels, which set the ring term,
and the cadence. A node whose turn has come places its record, closed by its CRC, at the place of its index. The lead folds the FRM
that its header was sent with. Which FRM a node folds into the checks (`lnkFrm`) is the model's reading (log entry 67). -/
def Obligations.LinkBudget : Prop :=
  ∀ s : State, Ready s →
    (∀ (bs : List Byte) (err : Bool), flag FLT_INJ_ARM s = false → lnkMay s = true → lnkRole s ∉ [0, 4] →
      let ok := err = false ∧ bs.length = 48 ∧
        (lnkCrc (foldFrm s.lnk.lead (lnkFrm s)) ((bs.drop 1).take 0x2B)).toNat = lw bs 0x2C
      (¬ ok → ∃ t, exec (.commandSlotReceived bs err) s = .next (settle t) ∧ flag LNK_STAT_CRCEVT t = true ∧
        FieldsBut [LNK_STAT_CRCEVT, LNK_ERRCNT_CRC] s t ∧ t = { s with regs := t.regs, evq := [⟨srcLnkCrc, 1, some uLnk, 0⟩] }) ∧
      (ok → lnkRole s = 3 → lb bs 0x10 = 0 → ∃ t, exec (.commandSlotReceived bs err) s = .next t ∧
        fld LNK_POS_NN t = lh bs 2 % 512 ∧ t.lnk.cad = max 1 (lb bs 4) ∧ t.lnk.cph = lb bs 5 ∧
        flag LNK_STAT_BUDV t = bitOf (lb bs 1) 0 ∧ fld LNK_LEV01_L0 t = lh bs 8 ∧ fld LNK_LEV01_L1 t = lh bs 10 ∧
        fld LNK_LEV23_L2 t = lh bs 12 ∧ fld LNK_LEV23_L3 t = lh bs 14 ∧
        (bitOf (lb bs 1) 1 = true → flag LNK_STAT_SHED t = true ∧ flag LNK_STAT_SHEDEVT t = true ∧ fld LNK_ALLOC_VAL t = 0 ∧
          t.lnk.term = some (3, 0)) ∧
        (bitOf (lb bs 1) 1 = false → fld LNK_ALLOC_VAL t = fld LNK_ALLOC_VAL s ∧ ∃ x, t.lnk.term = some x) ∧
        t = { s with regs := t.regs, lnk := { s.lnk with
          cad := t.lnk.cad, cph := t.lnk.cph, joinw := bitOf (lb bs 1) 2, dblNext := bitOf (lb bs 1) 3, term := t.lnk.term } }) ∧
      (ok → lnkRole s = 3 → lb bs 0x10 = 1 → s.lnk.oseq ≠ some (lb bs 0x11) → ∃ t, exec (.commandSlotReceived bs err) s = .next t ∧
        flag LNK_STAT_ROLLEVT t = true ∧ fld LNK_ERRCNT_REFORM t = min (fmax LNK_ERRCNT_REFORM) (fld LNK_ERRCNT_REFORM s + 1) ∧
        t.lnk.roll = max 1 (lb bs 4) + 1 ∧ t.lnk.oseq = some (lb bs 0x11) ∧ t = { s with regs := t.regs, lnk := t.lnk })) ∧
    (∀ (bs : List Byte) (err : Bool), flag FLT_INJ_ARM s = false → lnkMay s = true → lnkRole s = 4 →
      let ok := err = false ∧ bs.length = 48 ∧
        (lnkCrc (foldFrm s.lnk.lead s.lnk.bfrm) ((bs.drop 1).take 0x2B)).toNat = lw bs 0x2C
      (ok → exec (.commandSlotReceived bs err) s = .next s) ∧
      (¬ ok → ∃ t, exec (.commandSlotReceived bs err) s = .next (settle t) ∧ flag LNK_STAT_CRCEVT t = true ∧
        FieldsBut [LNK_STAT_CRCEVT, LNK_ERRCNT_CRC] s t ∧ t = { s with regs := t.regs, evq := [⟨srcLnkCrc, 1, some uLnk, 0⟩] })) ∧
    (∀ (bs : List Byte) (err : Bool), lnkMay s = false ∨ lnkRole s = 0 → exec (.commandSlotReceived bs err) s = .next s) ∧
    (lnkRole s = 3 → fld LNK_POS_INDEX s % max 1 s.lnk.cad = s.lnk.cph → fld LNK_POS_INDEX s < 400 → s.lnk.roll = 0 →
      ∃ t, exec .budgetRecord s = .next t ∧ t.lnk.outRec.length = 8 ∧
        lw t.lnk.outRec 4 = (lnkCrc (foldFrm (lnkAddr s) (lnkFrm s)) (t.lnk.outRec.take 4)).toNat ∧
        recReq (lw t.lnk.outRec 0) = (if inFawn s || flag LNK_STAT_STATIC s then fuseShare s else s.lnk.beatReq.req) % 8192 ∧
        recPri (lw t.lnk.outRec 0) = s.lnk.beatReq.pri % 4 ∧ recFixed (lw t.lnk.outRec 0) = (inFawn s || flag LNK_STAT_STATIC s) ∧
        flag LNK_STAT_ACCT t = true ∧ t.lnk.outPos = fld LNK_POS_INDEX s / max 1 s.lnk.cad ∧ FieldsBut [LNK_STAT_ACCT] s t ∧
        t = { s with regs := t.regs, lnk := { s.lnk with
          outRec := t.lnk.outRec, outPos := t.lnk.outPos, lrec := t.lnk.lrec, sag := false } }) ∧
    (lnkRole s = 3 → fld LNK_POS_INDEX s % max 1 s.lnk.cad ≠ s.lnk.cph → exec .budgetRecord s = .next s) ∧
    (lnkRole s ∉ [3, 4, 5] → exec .budgetRecord s = .next s)

/-- Messages: one for this node is delivered and marked, another passes on, a return ends the message at its source, the lead relays a
message of others once, in an open slot the oldest of the lowest class is sent, and one too long on the wire is lost. The model's
readings: the first message of the lowest class is relayed, with its MCRC made anew (log entry 69), and a node tells by the last valid beacon
which frame is the first of a superframe, whose slot 0 it leaves (log entry 67). -/
def Obligations.LinkMessages : Prop :=
  ∀ s : State, vccOn s = true → flag FLT_INJ_ARM s = false →
    (∀ (bs : List Byte) (err : Bool),
      let ok := err = false ∧ 62 ≤ bs.length ∧ (lnkCrc (foldLead s.lnk.lead) (msgCov bs)).toNat = lw bs 0x3A
      (Quiet s → exec (.messageReceived bs err true) s = .next s) ∧
      (Quiet s → lnkRole s = 0 ∨ lnkRole s = 4 ∨ lnkRole s ∈ [1, 2] ∧ ok → exec (.messageReceived bs err false) s = .next s) ∧
      (lnkRole s ∈ [1, 2] → ¬ ok → ∃ t, exec (.messageReceived bs err false) s = .next (settle t) ∧ flag LNK_STAT_CRCEVT t = true ∧
        FieldsBut [LNK_STAT_CRCEVT, LNK_ERRCNT_CRC] s t ∧ t = { s with regs := t.regs, evq := s.evq ++ [⟨srcLnkCrc, 1, some uLnk, 0⟩] }) ∧
      (Quiet s → lnkRole s = 5 → ok → exec (.messageReceived bs err false) s = .next { s with lnk := { s.lnk with outMsg := bs } }) ∧
      (Quiet s → lnkRole s = 3 → ok → msgMine bs s = false →
        exec (.messageReceived bs err false) s = .next { s with lnk := { s.lnk with outMsg := bs } }) ∧
      (lnkRole s = 3 → ok → msgMine bs s = true → ∃ t, exec (.messageReceived bs err false) s = .next (settle t) ∧
        t.lnk.outMsg = msgMark (lnkFree (28 + msgCls bs) s).isSome bs ∧
        t.lnk.rxq = s.lnk.rxq ++ (match lnkFree (28 + msgCls bs) s with
          | some k => [(msgCls bs, k, msgDst bs == 0xFFF)] | none => []) ∧ t.lnk.txq = s.lnk.txq) ∧
      (lnkRole s = 3 ∨ lnkRole s = 5 → ¬ ok → ∃ t, exec (.messageReceived bs err false) s = .next (settle t) ∧ flag LNK_STAT_CRCEVT t = true ∧
        t.lnk = { s.lnk with outMsg := bs } ∧ t.evq = s.evq ++ [⟨srcLnkCrc, 1, some uLnk, 0⟩] ∧ t.mem = s.mem) ∧
      (∀ x : LnkTx, ok → msgOwn bs s = some x →
        ((lnkRole s = 3 → bitOf (lb bs 1) 4 = true → ∃ t, exec (.messageReturnSource bs err) s = .next (settle t) ∧ t.lnk.outMsg = [] ∧
            t.lnk.txq = s.lnk.txq.filter (fun y => !(y.cls == x.cls && y.slot == x.slot))) ∧
          (lnkRole s = 4 → ∃ t, exec (.messageReturnLead bs err) s = .next (settle t) ∧
            t.lnk.txq = s.lnk.txq.filter (fun y => !(y.cls == x.cls && y.slot == x.slot))))) ∧
      (Quiet s → lnkRole s ≠ 3 ∨ bitOf (lb bs 1) 4 = false → exec (.messageReturnSource bs err) s = .next s) ∧
      (Quiet s → lnkRole s = 3 → bitOf (lb bs 1) 4 = true → ok → msgSrc bs ≠ lnkAddr s →
        exec (.messageReturnSource bs err) s = .next { s with lnk := { s.lnk with outMsg := bs } }) ∧
      (Quiet s → lnkRole s ≠ 4 → exec (.messageReturnLead bs err) s = .next s) ∧
      (Quiet s → lnkRole s = 4 → ok → msgSrc bs ≠ lnkAddr s → msgMine bs s = false → bitOf (lb bs 1) 4 = false → s.lnk.relay.length < 32 →
        exec (.messageReturnLead bs err) s = .next { s with
          lnk := { s.lnk with relay := s.lnk.relay ++ [bs.set 1 (BitVec.ofNat 8 (putBit (lb bs 1) 4 true))] } }) ∧
      (Quiet s → lnkRole s = 4 → ok → msgSrc bs ≠ lnkAddr s → msgMine bs s = false →
        bitOf (lb bs 1) 4 = true ∨ 32 ≤ s.lnk.relay.length → ∃ t, exec (.messageReturnLead bs err) s = .next t ∧
          fld LNK_MSGCNT_DROP t = min (fmax LNK_MSGCNT_DROP) (fld LNK_MSGCNT_DROP s + 1) ∧ FieldsBut [LNK_MSGCNT_DROP] s t ∧
          t = { s with regs := t.regs })) ∧
    (∀ (k : Nat) (cut : Bool),
      (Quiet s → lnkRole s ∉ [3, 4] ∨ slotOpen k s = false → exec (.messageSend k cut) s = .next s) ∧
      (Quiet s → lnkRole s = 3 → msgNext s = none → exec (.messageSend k cut) s = .next s)) ∧
    (∀ (k : Nat) (m : List Byte), Quiet s → lnkRole s = 4 → slotOpen k s = true → relayNext s = some m →
      exec (.messageSend k false) s = .next { s with lnk := { s.lnk with outMsg := msgSeal m s, relay := s.lnk.relay.erase m } }) ∧
    (∀ (k : Nat) (x : LnkTx), lnkRole s = 3 → slotOpen k s = true → msgNext s = some x →
      (Quiet s → ∃ t, exec (.messageSend k true) s = .next t ∧
        fld LNK_MSGCNT_PRE t = min (fmax LNK_MSGCNT_PRE) (fld LNK_MSGCNT_PRE s + 1) ∧ FieldsBut [LNK_MSGCNT_PRE] s t ∧
        t = { s with regs := t.regs }) ∧
      (∃ t, exec (.messageSend k false) s = .next (settle t) ∧ t.lnk.outMsg = msgBytes x s ∧
        t.lnk.txq = s.lnk.txq.map (fun y => if y.cls = x.cls ∧ y.slot = x.slot then { y with sent := some s.clk.frm } else y))) ∧
    (Quiet s → (∀ x ∈ s.lnk.txq, ∀ f, x.sent = some f → (s.clk.frm - f).toNat < (if flag LNK_STAT_DBL s then 8 else 4)) →
      exec .messageTimeout s = .next s) ∧
    (∃ t, exec .messageTimeout s = .next (settle t) ∧
      ∀ x ∈ t.lnk.txq, ∀ f, x.sent = some f → (s.clk.frm - f).toNat < (if flag LNK_STAT_DBL s then 8 else 4))

/-- LNK-SEND and LNK-RECV: what each completes with, its DETAIL and RESULT0, the link slot that it takes or frees, and the bytes that it
copies between BUF and the slot, which lies aligned in shared RAM as RNG_CFG has it (R455). An order is the lead's, of at most 22 bytes; the
slot's PEER has bit 15 then. Where a word read is beyond correction, the bytes are open and the operation completes all the same. The model's
reading: which slot is taken, and the bit 'sent to all' kept beside a slot (log entry 70); its choice: the order in which the grounds of DETAIL
0x01, 0x02 and 0x03 are looked at where several hold, in LNK-RECV 0x03 before 0x01 (log entry 215). -/
def Obligations.LinkOperations : Prop :=
  ∀ (r : TagRec) (c : Fin 4) (s : State), Legal s → vccOn s = true →
    (Quiet s → (∀ d < 4, unitOp (7 + d) s = none) → exec .lnkSend s = .next s) ∧
    (Quiet s → (∀ d < 4, unitOp (11 + d) s = none) → exec .lnkRecv s = .next s) ∧
    (Runs (7 + c.val) r s → (∀ d < 4, d ≠ c.val → unitOp (7 + d) s = none) →
      let n := entB r.ent 9
      let dst := entH r.ent 10
      let buf := entH r.ent 12
      let order := bitOf dst 15
      let fits := n ≤ 48 ∧ dst % 4096 ≠ 0 ∧ (order = true → lnkRole s = 4 ∧ n ≤ 22)
      (lnkRole s ∉ [3, 4] → exec .lnkSend s = .next (settle (complete r.tag 0 1 0 s))) ∧
      (lnkRole s ∈ [3, 4] → ¬fits → exec .lnkSend s = .next (settle (complete r.tag 0 2 0 s))) ∧
      (lnkRole s ∈ [3, 4] → fits →
        (ringEn (24 + c.val) s = false → exec .lnkSend s = .next (settle (complete r.tag 0 3 0 s))) ∧
        (Quiet s → ringEn (24 + c.val) s = true → lnkFree (24 + c.val) s = none → exec .lnkSend s = .next s) ∧
        (∀ k, ringEn (24 + c.val) s = true → lnkFree (24 + c.val) s = some k →
          let a := lnkSlot (24 + c.val) k s
          let peer := dst % 4096 + if order then 0x8000 else 0
          ∃ u, let t := complete r.tag 0 0 (k + s.lnk.mseq * 65536) u
            exec .lnkSend s = .next (settle t) ∧ Done r.tag t ∧ u.lnk.mseq = (s.lnk.mseq + 1) % 65536 ∧
            u.lnk.txq = s.lnk.txq ++ [⟨c, k, s.lnk.mseq, peer, n, none⟩] ∧ u.lnk.rxq = s.lnk.rxq ∧ u.rng = s.rng ∧
            (opParamOk r.ent = true → (∀ i < n, CleanAt (buf + i) s) → a % 4 = 0 → ramLo ≤ a → a + 64 ≤ ramHi + 1 →
              ramBytes a 64 u = leBytes 1 1 ++ leBytes 1 n ++ leBytes 2 peer ++ leBytes 2 s.lnk.mseq ++ leBytes 10 0 ++
                ramBytes buf n s ++ List.replicate (48 - n) 0 ∧
              (∀ x, x < a ∨ a + 64 ≤ x → ramByte x u = ramByte x s) ∧
              u = { s with mem := u.mem, ramErr := u.ramErr, lnk := u.lnk })))) ∧
    (Runs (11 + c.val) r s → (∀ d < 4, d ≠ c.val → unitOp (11 + d) s = none) →
      (ringEn (28 + c.val) s = false → exec .lnkRecv s = .next (settle (complete r.tag 0 3 0 s))) ∧
      (ringEn (28 + c.val) s = true → s.lnk.rxq.find? (fun x => x.1 == c.val) = none →
        exec .lnkRecv s = .next (settle (complete r.tag 0 1 0 s))) ∧
      (∀ (k : Nat) (all : Bool), ringEn (28 + c.val) s = true → s.lnk.rxq.find? (fun y => y.1 == c.val) = some (c.val, k, all) →
        let a := lnkSlot (28 + c.val) k s
        let buf := entH r.ent 12
        (∃ t, exec .lnkRecv s = .next (settle t) ∧ Done r.tag t ∧ t.lnk.rxq = s.lnk.rxq.erase (c.val, k, all) ∧ t.lnk.txq = s.lnk.txq) ∧
        (let len := min 48 (ramNat (a + 1) 1 s)
          let peer := ramNat (a + 2) 2 s
          let n := min len (entB r.ent 9)
          opParamOk r.ent = true → ramLo ≤ a → a + 64 ≤ ramHi + 1 → (∀ i < 64, CleanAt (a + i) s) → (∀ i < n, CleanAt (buf + i) s) →
          ∃ u, exec .lnkRecv s = .next (settle (complete r.tag 0 (if entB r.ent 9 < len then 2 else 0)
              (len + peer % 4096 * 256 + b2n (bitOf peer 15) * 2 ^ 20 + b2n all * 2 ^ 21) u)) ∧
            (∀ x, ramByte x u = if x = a then 0 else if buf ≤ x ∧ x < buf + n then ramByte (a + 16 + (x - buf)) s else ramByte x s) ∧
            u = { s with
              mem := u.mem, ramErr := u.ramErr, lnk := { s.lnk with rxq := s.lnk.rxq.erase (c.val, k, all) } })))

/-! ## Host interface -/

/-- Pointer mode at address 0x50 + n: no answer at another address, without power, or at high speed in the reduced page; the
reduced page answers reads and ignores writes; in operation pointer 0 is GLB_PAGE, another write is refused, and reads show the
page, with GLB_PAGE at its offset 0, byte after byte and from its end to its start; of shared RAM they are its bytes. The
command-mode target acknowledges its own address 0x58 + n: a code that is no command's is not acknowledged and sets RES 0x04, an
address alone or a listed code has no effect here, and a read without a command gives free bytes (log entry 177). Read
commands: the reduced page does not answer; a malformed one answers nothing and sets RES 0x04; a well-formed one gives its bytes,
then the check byte over the whole transaction, then 0xFF. That every transaction leaves HST_STAT.BUS free is the model's reading
(log entry 157), and which row a write with an unknown code is (log entry 141). The model's readings: a failed read sets RES only
(log entry 26), and RES stays while a fuse write runs (log entry 27). -/
def Obligations.HostReads : Prop :=
  (∀ (a : BitVec 7) (fast : Bool) (s : State), Quiet s →
     (∀ (bs : List Byte) (n : Nat),
       a.toNat ≠ 0x50 + s.sup.nAddr ∨ s.sup.power = .unpowered ∨ s.sup.power ≠ .on ∧ fast = true →
       a.toNat ≠ 0x58 + s.sup.nAddr ∨ s.sup.power ≠ .on →
       exec (.pointerWrite a fast bs) s = .next { busFreed s with hst := { s.hst with acks := [false], out := [] } } ∧
       exec (.pointerRead a fast n) s = .next { busFreed s with hst := { s.hst with acks := [false], out := [] } }) ∧
     (a.toNat = 0x58 + s.sup.nAddr → s.sup.power = .on →
       (∀ bs : List Byte, (∀ c ∈ bs.head?, c.toNat ∈ cmdCodes) → exec (.pointerWrite a fast bs) s = .next { busFreed s with
         hst := { s.hst with acks := List.replicate (bs.length + 1) true, out := [] } }) ∧
       (∀ n : Nat, ∃ t, exec (.pointerRead a fast n) s = .next t ∧ t.hst.out.length = n ∧
         t = { busFreed s with seed := s.seed + n, hst := { s.hst with acks := [true], out := t.hst.out } })) ∧
     (a.toNat = 0x58 + s.sup.nAddr → s.sup.power = .on → ∀ (c : Byte) (bs : List Byte), c.toNat ∉ cmdCodes →
       ∃ t, exec (.pointerWrite a fast (c :: bs)) s = .next t ∧ (s.sup.fuseBusy = none → fld HST_RES_RES t = 4) ∧
         (s.sup.fuseBusy ≠ none → fld HST_RES_RES t = fld HST_RES_RES s) ∧ FieldsBut [HST_RES_RES, HST_STAT_BUS] s t ∧
         t = { s with regs := t.regs, hst := { s.hst with acks := [true, false], out := [] } }) ∧
     (a.toNat = 0x50 + s.sup.nAddr → s.sup.power ≠ .unpowered → s.sup.power ≠ .on → fast = false →
       (∀ (p : Byte) (vs : List Byte), exec (.pointerWrite a fast (p :: vs)) s = .next { busFreed s with
         hst := { s.hst with ptr := (p.toNat + vs.length) % 256, acks := List.replicate (vs.length + 2) true, out := [] } }) ∧
       (∀ n : Nat, exec (.pointerRead a fast n) s = .next { busFreed s with hst := { s.hst with
         ptr := (s.hst.ptr + n) % 256, acks := [true]
         out := (List.range n).map (fun i => reducedByte ((s.hst.ptr + i) % 256) s) } })) ∧
     (a.toNat = 0x50 + s.sup.nAddr → s.sup.power = .on →
       (∀ p : Byte, exec (.pointerWrite a fast [p]) s = .next { busFreed s with
         hst := { s.hst with ptr := p.toNat, acks := [true, true], out := [] } }) ∧
       (∀ v : Byte, ∃ t, exec (.pointerWrite a fast [0, v]) s = .next t ∧ fld GLB_PAGE_PAGE t = v.toNat ∧
         FieldsBut [whole GLB_PAGE, HST_STAT_BUS] s t ∧
         t = { s with regs := t.regs, hst := { s.hst with ptr := 1, acks := [true, true, true], out := [] } }) ∧
       (∀ p v : Byte, p ≠ 0 → ∃ t, exec (.pointerWrite a fast [p, v]) s = .next t ∧
         fld HST_CNT0_REFUSED t = min 255 (fld HST_CNT0_REFUSED s + 1) ∧ flag HST_STAT_REFEVT t = true ∧
         FieldsBut [HST_CNT0_REFUSED, HST_STAT_REFEVT, HST_STAT_BUS] s t ∧
         t = { s with regs := t.regs, hst := { s.hst with ptr := (p.toNat + 1) % 256, acks := [true, true, true], out := [] } }) ∧
       (∀ n : Nat, ∃ t, exec (.pointerRead a fast n) s = .next (settle t) ∧ t.hst.ptr = (s.hst.ptr + n) % 256 ∧ t.hst.acks = [true] ∧
         t.hst.out = (hostRead (pointerAddrs n s) [] [] s).1 ∧ t.hst.out.length = n ∧
         ∀ i < n,
           let page := fld GLB_PAGE_PAGE s
           let o := (s.hst.ptr + i) % 256
           (o = 0 → t.hst.out[i]? = some (BitVec.ofNat 8 page)) ∧
           (o ≠ 0 → inRam (page * 256 + o) 1 = true → CleanAt (page * 256 + o) s →
             t.hst.out[i]? = some (ramByte (page * 256 + o) s))))) ∧
  (∀ (args : List Byte) (sr : Bool) (n : Nat) (s : State), Quiet s →
     (∀ (c : Instr) (code k : Nat), (c = .read8 args sr n ∧ code = 1 ∧ k = 1 ∨ c = .read16 args sr n ∧ code = 2 ∧ k = 2 ∨
         c = .read32 args sr n ∧ code = 3 ∧ k = 4 ∨ c = .readblk args sr n ∧ code = 4 ∧ k = (args.getD 2 0).toNat) →
       let a := argAddr args
       let good := if code = 4 then args.length = 3 ∧ 1 ≤ k ∧ k ≤ 32 else args.length = 2
       let pre := if code = 4 then [args.getD 2 0] else []
       let all := fun data : List Byte =>
         (data ++ [crc8 ([cmdW s, BitVec.ofNat 8 code] ++ args ++ [cmdR s] ++ data)] ++ List.replicate n 0xFF).take n
       (s.sup.power ≠ .on → exec c s = .next { busFreed s with hst := { s.hst with acks := [false], out := [] } }) ∧
       (s.sup.power = .on → ¬ good ∨ sr = false → ∃ t, exec c s = .next t ∧ t.hst.out = [] ∧
         (s.sup.fuseBusy = none → fld HST_RES_RES t = 4) ∧ FieldsBut [HST_RES_RES, HST_STAT_BUS] s t ∧
         t = { s with regs := t.regs, hst := { s.hst with acks := t.hst.acks, out := [] } }) ∧
       (s.sup.power = .on → good → sr = true →
         (∃ t, exec c s = .next (settle t) ∧ t.hst.acks = List.replicate (args.length + 3) true ∧
           t.hst.out = all (pre ++ (readFrom a k s).1)) ∧
         (inRam a k = true → (∀ i < k, CleanAt (a + i) s) → exec c s = .next { busFreed s with
           hst := { s.hst with acks := List.replicate (args.length + 3) true, out := all (pre ++ ramBytes a k s) } }))) ∧
     (s.sup.power = .on →
       let data := leBytes 4 (rd HST_RES s) ++ leBytes 4 (rd HST_VAL s)
       exec (.status [] true n) s = .next { busFreed s with hst := { s.hst with
         acks := [true, true, true]
         out := (data ++ [crc8 ([cmdW s, 0x20, cmdR s] ++ data)] ++ List.replicate n 0xFF).take n } }))

/-- Every write command: the reduced page does not answer, a running fuse write answers nothing more, a short one is RES 0x04, a
missing check byte that is required RES 0x02, and a wrong one RES 0x02 with HST_PEC. Write commands that run: their bytes in
shared RAM; a register that its own condition closes, with RES 0x05; the ring commands of the host; RES, CMD, SEQ and HST_VAL
after each. That every transaction leaves HST_STAT.BUS free is the model's reading (log entry 157). The model's readings: WDG_KEY,
WDG_PER, WDG_TASK and TCP_TXCMD closed by their own condition answer 0x05 (log entry 29), a WRITEBLK that leaves shared RAM
answers 0x04 (log entry 32), the ring's number is checked first (log entry 24). -/
def Obligations.HostWrites : Prop :=
  (∀ (c : Instr) (args : List Byte) (code n : Nat) (s : State), Quiet s →
     (c = .write8 args ∧ code = 0x11 ∧ n = 3 ∨ c = .write16 args ∧ code = 0x12 ∧ n = 4 ∨ c = .write32 args ∧ code = 0x13 ∧ n = 6 ∨
       c = .writeblk args ∧ code = 0x14 ∧ 1 ≤ (args.getD 2 0).toNat ∧ (args.getD 2 0).toNat ≤ 32 ∧ n = 3 + (args.getD 2 0).toNat ∨
       c = .hostPost args ∧ code = 0x30 ∧ n = 17 ∨ c = .hostTake args ∧ code = 0x31 ∧ n = 1 ∨ c = .ringrst args ∧ code = 0x32 ∧ n = 1 ∨
       (∃ mv, c = .fusewr args mv) ∧ code = 0x50 ∧ n = 4 ∨ c = .arm (some args) ∧ code = 0x40 ∧ n = 1 ∨
       c = .disarm (some args) ∧ code = 0x41 ∧ n = 1 ∨ c = .fawn (some args) ∧ code = 0x60 ∧ n = 1 ∨
       c = .fawnexit args ∧ code = 0x61 ∧ n = 1) →
     let res := fun (r : Nat) (t : State) => fld HST_RES_RES t = r ∧ fld HST_RES_CMD t = code ∧ rd HST_VAL t = 0 ∧
       fld HST_RES_SEQ t = (fld HST_RES_SEQ s + 1) % 256 ∧ t.hst.out = []
     (s.sup.power ≠ .on → exec c s = .next { busFreed s with hst := { s.hst with acks := [false], out := [] } }) ∧
     (s.sup.power = .on → s.sup.fuseBusy ≠ none → exec c s = .next { busFreed s with hst := { s.hst with acks := [true, true], out := [] } }) ∧
     (s.sup.power = .on → s.sup.fuseBusy = none → inFawn s = false →
       (args.length < n → ∃ t, exec c s = .next t ∧ res 4 t ∧
         FieldsBut [HST_RES_RES, HST_RES_CMD, HST_RES_SEQ, whole HST_VAL, HST_STAT_BUS] s t ∧
         t = { s with regs := t.regs, hst := { s.hst with acks := t.hst.acks, out := [] } }) ∧
       (args.length = n → flag HST_CFG_PECREQ s = true → ∃ t, exec c s = .next t ∧ res 2 t ∧
         FieldsBut [HST_RES_RES, HST_RES_CMD, HST_RES_SEQ, whole HST_VAL, HST_STAT_BUS] s t ∧
         t = { s with regs := t.regs, hst := { s.hst with acks := t.hst.acks, out := [] } }) ∧
       (args.length = n + 1 → flag FLT_INJ_ARM s = false → args.getD n 0 ≠ crc8 (cmdW s :: BitVec.ofNat 8 code :: args.take n) →
         ∃ t, exec c s = .next (settle t) ∧ res 2 t ∧ fld HST_CNT0_PEC t = min 255 (fld HST_CNT0_PEC s + 1) ∧
           flag HST_STAT_PECEVT t = true ∧ t.evq = [⟨srcHstPec, 2, none, 0⟩] ∧
           FieldsBut [HST_RES_RES, HST_RES_CMD, HST_RES_SEQ, whole HST_VAL, HST_CNT0_PEC, HST_STAT_PECEVT, HST_STAT_BUS] s t ∧
           t = { s with regs := t.regs, evq := t.evq, hst := { s.hst with acks := t.hst.acks, out := [] } }))) ∧
  (∀ (args : List Byte) (s : State), Legal s → Quiet s → s.sup.power = .on → s.sup.fuseBusy = none → inFawn s = false →
     flag HST_CFG_PECREQ s = false →
     let res := fun (code r v : Nat) (t : State) => fld HST_RES_RES t = r ∧ fld HST_RES_CMD t = code ∧ rd HST_VAL t = v ∧
       fld HST_RES_SEQ t = (fld HST_RES_SEQ s + 1) % 256
     let F := [HST_RES_RES, HST_RES_CMD, HST_RES_SEQ, whole HST_VAL, HST_STAT_BUS]
     let ring := (args.getD 0 0).toNat
     (∀ (c : Instr) (code k h : Nat), (c = .write8 args ∧ code = 0x11 ∧ k = 1 ∧ h = 2 ∨ c = .write16 args ∧ code = 0x12 ∧ k = 2 ∧ h = 2 ∨
         c = .write32 args ∧ code = 0x13 ∧ k = 4 ∧ h = 2 ∨
         c = .writeblk args ∧ code = 0x14 ∧ k = (args.getD 2 0).toNat ∧ 1 ≤ k ∧ k ≤ 32 ∧ h = 3) →
       args.length = h + k →
       (inRam (argAddr args) k = true → (∀ i < k, CleanAt (argAddr args + i) s) → ∃ t, exec c s = .next t ∧ res code 0 0 t ∧
         ramBytes (argAddr args) k t = args.drop h ∧
         (∀ x, x < argAddr args ∨ argAddr args + k ≤ x → ramByte x t = ramByte x s) ∧ FieldsBut F s t ∧
         t = { s with regs := t.regs, mem := t.mem, ramErr := t.ramErr, hst := { s.hst with acks := t.hst.acks, out := [] } }) ∧
       (code = 0x14 → inRam (argAddr args) k = false → ∃ t, exec c s = .next t ∧ res code 4 0 t ∧ FieldsBut F s t ∧ t.mem = s.mem)) ∧
     (args.length = 6 → argAddr args = WDG_KEY ∧ flag WDG_STAT_KEYLK s = true ∨
         argAddr args ∈ [WDG_PER, WDG_TASK] ∧ flag WDG_STAT_RUN s = true ∧ flag WDG_STAT_OPEN s = false ∨
         argAddr args = TCP_TXCMD ∧ flag TCP_STAT_BUSY s = true →
       ∃ t, exec (.write32 args) s = .next (settle t) ∧ res 0x13 5 0 t ∧ flag HST_STAT_REFEVT t = true ∧
         fld HST_CNT0_REFUSED t = min 255 (fld HST_CNT0_REFUSED s + 1) ∧
         FieldsBut (WDG_ERR_KEYREF :: WDG_ERR_CFGREF :: HST_CNT0_REFUSED :: HST_STAT_REFEVT :: F) s t) ∧
     (args.length = 17 →
       (hostRing ring = false → ∃ t, exec (.hostPost args) s = .next t ∧ res 0x30 4 badRing t ∧ FieldsBut F s t ∧ t.rng = s.rng) ∧
       (hostRing ring = true → ringEn ring s = false ∨ ringDepth ring s ≤ ringOut ring s →
         RingsBefore (clockNow s) s →
         ∃ t, exec (.hostPost args) s = .next t ∧ res 0x30 0 0xFFFFFFFF t ∧ flag (RNG_STAT_FULL ring) t = true ∧
           t.rng = { s.rng with same := { s.rng.same with posted := t.rng.same.posted } }) ∧
       (∀ k, hostRing ring = true → ringEn ring s = true → ringOut ring s < ringDepth ring s → RingsBefore (clockNow s) s → LowestFree k s →
         tagsHeld 4 s < quota 4 s → ∃ t, exec (.hostPost args) s = .next t ∧ res 0x30 0 k t ∧
           t.rng.tags = s.rng.tags ++ [⟨k, ring, .queued, args.drop 1, 0⟩])) ∧
     (args.length = 1 →
       (hostRing ring = true → ringHead (clockNow s) ring s = none → ∃ t, exec (.hostTake args) s = .next t ∧ res 0x31 0 0xFFFFFFFF t ∧
         (∀ w < 4, rd (HST_TAKEBUF w) t = 0) ∧ t.rng = s.rng) ∧
       (∀ k a, hostRing ring = true → ringHead (clockNow s) ring s = some (k, a) → k < 128 → a % 4 = 0 → (∀ w < 4, CleanAt (a + 4 * w) s) →
         ∃ t, exec (.hostTake args) s = .next t ∧ res 0x31 0 k t ∧ (∀ w < 4, rd (HST_TAKEBUF w) t = ramNat (a + 4 * w) 4 s) ∧
           t.rng.tags = s.rng.tags.filter (fun x => x.tag != k) ∧ t.mem = s.mem) ∧
       (ring = 0 → ∃ t, exec (.ringrst args) s = .next t ∧ res 0x32 4 badRing t ∧ FieldsBut F s t ∧ t.rng = s.rng) ∧
       (ring ≠ 0 → ∃ t, exec (.ringrst args) s = .next t ∧ res 0x32 0 ring t ∧
         (∀ x ∈ t.rng.tags, hostRing x.ring = true → bitOf ring (x.ring - 16) = true → x.st = .orphan) ∧
         (∀ x ∈ s.rng.tags, hostRing x.ring = false ∨ bitOf ring (x.ring - 16) = false → x ∈ t.rng.tags) ∧
         (RingsBefore (clockNow s) s → t.mem = s.mem))))

/-- A fuse write: RES says why it is refused, or that it runs; when it is complete, the code read back decides the result, and the
mark is set only where it is the code written. Its end, and a refusal with RES 0x06 or 0x07, is notified. The model's readings and
choices: a read back that differs is stored without a mark (log entry 30), RES 0x07 comes before 0x06 where both hold (log
entry 180), and PROG shows the mark from the next fuse load on (log entry 198). -/
def Obligations.FuseWrites : Prop :=
  ∀ s : State, Quiet s → s.sup.power = .on →
    (∀ (i : Byte) (lo hi conf : Byte) (mv r : Nat), s.sup.fuseBusy = none → inFawn s = false → flag HST_CFG_PECREQ s = false →
      let c := lo.toNat + 256 * hi.toNat
      let f := fuseCell i.toNat s
      let marked := f.mark0 || f.mark1
      ((conf ≠ 0x6B ∨ 10 < i.toNat) ∧ r = 4 ∨
        conf = 0x6B ∧ i.toNat ≤ 10 ∧ (fuseRange i.toNat c = false ∨ marked = true) ∧ r = 7 ∨
        conf = 0x6B ∧ i.toNat ≤ 10 ∧ fuseRange i.toNat c = true ∧ marked = false ∧ fuseMay mv s = false ∧ r = 6 ∨
        conf = 0x6B ∧ i.toNat ≤ 10 ∧ fuseRange i.toNat c = true ∧ marked = false ∧ fuseMay mv s = true ∧ r = 1) →
      ∃ t, exec (.fusewr [i, lo, hi, conf] mv) s = .next t ∧ fld HST_RES_RES t = r ∧ rd HST_VAL t = 0 ∧
        flag ⟨HST_NPEND, 6, 6⟩ t = (flag ⟨HST_NPEND, 6, 6⟩ s || r == 6 || r == 7) ∧
        FieldsBut [HST_RES_RES, HST_RES_CMD, HST_RES_SEQ, whole HST_VAL, ⟨HST_NPEND, 6, 6⟩, HST_STAT_BUS] s t ∧
        t = { s with
          regs := t.regs, hst := { s.hst with acks := t.hst.acks, out := [] }
          sup := if r = 1 then { s.sup with fuseBusy := some (i.toNat, c) } else s.sup }) ∧
    (∀ back : Nat, s.sup.fuseBusy = none → exec (.fuseWriteComplete back) s = .next s) ∧
    (∀ back i c : Nat, s.sup.fuseBusy = some (i, c) → back < 2 ^ 32 → ∃ t, exec (.fuseWriteComplete back) s = .next t ∧
      fld HST_RES_RES t = (if back = c then 0 else 8) ∧ rd HST_VAL t = back ∧ flag ⟨HST_NPEND, 6, 6⟩ t = true ∧
      FieldsBut [HST_RES_RES, whole HST_VAL, ⟨HST_NPEND, 6, 6⟩] s t ∧
      t = { s with regs := t.regs, sup := { s.sup with
        fuseBusy := none, fuses := s.sup.fuses.set i ⟨back, back == c, back, back == c⟩ } })

/-- Host Notify: an attempt runs while one is due, or after a lost arbitration, and what the bus does with it is recorded,
recovery of a bus that hangs or that BUS calls unknown among it; another controller's STOP frees the bus; the bus errors of a
target and of the controller, the repeat, and HST_NSET. The model's readings and choices: the fourth loss is the one reported (log
entry 25), a discard sets RES with CMD and SEQ (log entry 28), any recovery sets HANGEVT (log entry 31), what HST_STAT.BUS shows
(log entry 157). -/
def Obligations.HostNotify : Prop :=
  ∀ s : State, Ready s →
    (∀ (recov : Bool) (ev : NotifyEv), ev ≠ .free →
      (notifyDue s = false ∨ s.hst.tries ≠ 0 → exec (.hostNotify recov ev) s = .next s) ∧
      (s.hst.tries = 0 → exec (.notifyArbRetry recov ev) s = .next s)) ∧
    (∀ (recov : Bool) (c : Instr), c = .hostNotify recov .free ∨ c = .notifyArbRetry recov .free → ∃ t, exec c s = .next t ∧
      fld HST_STAT_BUS t = 0 ∧ FieldsBut [HST_STAT_BUS] s t ∧ t = { s with regs := t.regs }) ∧
    (∀ (recov : Bool) (c : NotifyEv → Instr), (notifyDue s = true ∧ s.hst.tries = 0 ∧ c = .hostNotify recov ∨
        s.hst.tries ≠ 0 ∧ c = .notifyArbRetry recov) →
      let hung := fun t : State => flag HST_STAT_HANGEVT t = (flag HST_STAT_HANGEVT s || recov || fld HST_STAT_BUS s == 3)
      (∃ t, exec (c .done) s = .next t ∧ fld HST_CNT1_NSENT t = (fld HST_CNT1_NSENT s + 1) % 256 ∧ fld HST_STAT_BUS t = 0 ∧
        hung t ∧ FieldsBut [HST_CNT1_NSENT, HST_STAT_BUS, HST_STAT_HANGEVT] s t ∧ t = { s with regs := t.regs, hst := { s.hst with
          sent := s.hst.sent ||| (rd HST_NPEND s &&& rd HST_NEN s), rep := false, tries := 0, wire := notifyBytes s } }) ∧
      (∃ t, exec (c .nack) s = .next t ∧ fld HST_CNT1_NFAIL t = min 255 (fld HST_CNT1_NFAIL s + 1) ∧ fld HST_STAT_BUS t = 0 ∧
        flag HST_STAT_NFAILEVT t = true ∧ hung t ∧
        FieldsBut [HST_CNT1_NFAIL, HST_STAT_NFAILEVT, HST_STAT_BUS, HST_STAT_HANGEVT] s t ∧
        t = { s with regs := t.regs, hst := { s.hst with tries := 0 } }) ∧
      (∀ (k : Fin 4) (b : Fin 8), s.hst.tries < 3 → ∃ t, exec (c (.arb k b)) s = .next t ∧
        fld HST_CNT1_ARB t = min 255 (fld HST_CNT1_ARB s + 1) ∧ flag HST_STAT_ARBEVT t = true ∧ fld HST_STAT_NIDX t = k ∧
        fld HST_STAT_ARBBIT t = b ∧ fld HST_STAT_BUS t = 2 ∧ hung t ∧
        FieldsBut [HST_CNT1_ARB, HST_STAT_ARBEVT, HST_STAT_NIDX, HST_STAT_ARBBIT, HST_STAT_BUS, HST_STAT_HANGEVT] s t ∧
        t = { s with regs := t.regs, hst := { s.hst with tries := s.hst.tries + 1 } }) ∧
      (∀ (k : Fin 4) (b : Fin 8), 3 ≤ s.hst.tries → ∃ t, exec (c (.arb k b)) s = .next (settle t) ∧
        t.evq = [⟨srcHstArb, 2, none, 0⟩] ∧ t.hst.tries = 0 ∧ flag HST_STAT_NFAILEVT t = true) ∧
      (∃ t, exec (c .arbStop) s = .next (settle t) ∧ t.evq = [⟨srcArbStop, 2, none, 0⟩] ∧
        fld HST_CNT1_ARBSTOP t = min 255 (fld HST_CNT1_ARBSTOP s + 1) ∧ fld HST_STAT_BUS t = 3 ∧ t.hst.tries = 0 ∧ hung t) ∧
      (∃ t, exec (c .hang) s = .next t ∧ fld HST_STAT_BUS t = 3 ∧ FieldsBut [HST_STAT_BUS] s t ∧ t = { s with regs := t.regs })) ∧
    (flag HST_CFG_NOTEN s = true → fld HST_CFG_NRPT s ≠ 0 → rd HST_NPEND s &&& rd HST_NEN s ≠ 0 →
      exec .hostNotifyRepeat s = .next { s with hst := { s.hst with rep := true } }) ∧
    (flag HST_CFG_NOTEN s = false ∨ fld HST_CFG_NRPT s = 0 → exec .hostNotifyRepeat s = .next s) ∧
    (∀ recov : Bool, notifyDue s = true ∨ s.hst.tries ≠ 0 → ∃ t, exec (.notifyClockTimeout recov) s = .next t ∧ fld HST_STAT_BUS t = 3 ∧
      flag HST_STAT_NFAILEVT t = true ∧ flag HST_STAT_HANGEVT t = (flag HST_STAT_HANGEVT s || recov || fld HST_STAT_BUS s == 3) ∧
      FieldsBut [HST_CNT1_NFAIL, HST_STAT_NFAILEVT, HST_STAT_BUS, HST_STAT_HANGEVT] s t ∧
      t = { s with regs := t.regs, hst := { s.hst with tries := 0 } }) ∧
    (∀ recov : Bool, s.sup.power = .on → notifyDue s = true ∨ s.hst.tries ≠ 0 →
      ∃ t, exec (.startInAckSlot (.controller recov)) s = .next (settle t) ∧
      t.evq = [⟨srcHstSrack, 2, none, 0⟩] ∧ flag HST_STAT_SRACKEVT t = true ∧ flag HST_STAT_NFAILEVT t = true ∧
      flag HST_STAT_HANGEVT t = (flag HST_STAT_HANGEVT s || recov || fld HST_STAT_BUS s == 3) ∧ fld HST_STAT_BUS t = 2 ∧ t.hst.tries = 0) ∧
    (s.sup.power = .on → s.sup.fuseBusy = none → ∀ code : Byte,
      (∃ t, exec (.startInAckSlot (.receiving (some code))) s = .next (settle t) ∧ t.evq = [⟨srcHstSrack, 2, none, 0⟩] ∧
        flag HST_STAT_SRACKEVT t = true ∧ fld HST_RES_RES t = 9 ∧ fld HST_RES_CMD t = code.toNat ∧ rd HST_VAL t = 0) ∧
      (∃ t, exec (.startInAckSlot .sending) s = .next (settle t) ∧ t.evq = [⟨srcHstSrack, 2, none, 0⟩] ∧
        flag HST_STAT_SRACKEVT t = true ∧ fld HST_CNT0_SRACK t = min 255 (fld HST_CNT0_SRACK s + 1) ∧
        FieldsBut [HST_STAT_SRACKEVT, HST_CNT0_SRACK] s t) ∧
      (∃ t, exec (.targetTimeout (some code)) s = .next t ∧ flag HST_STAT_TOEVT t = true ∧
        fld HST_CNT0_TO t = min 255 (fld HST_CNT0_TO s + 1) ∧ fld HST_RES_RES t = 9 ∧ fld HST_RES_CMD t = code.toNat ∧
        FieldsBut [HST_STAT_TOEVT, HST_CNT0_TO, HST_RES_RES, HST_RES_CMD, HST_RES_SEQ, whole HST_VAL] s t ∧
        t = { s with regs := t.regs })) ∧
    (∀ v : BitVec 16, ∃ t, exec (.hstNsetWrite v) s = .next t ∧
      (∀ k, 8 ≤ k → k < 16 → flag ⟨HST_NPEND, k, k⟩ t = (flag ⟨HST_NPEND, k, k⟩ s || bitOf v.toNat k)) ∧
      FieldsBut [⟨HST_NPEND, 15, 8⟩] s t ∧ t = { s with regs := t.regs })

/-! ## Watchdog and thermal management -/

/-- The watchdog starts, takes its key once, and takes PER and TASK while stopped or in the open window, a PER of the clock of a valid
service for the period that this service started; the window closes when the LFO
may have counted an eighth of the period; that the LFO's 2 % admit the close so early is the model's own choice (log entry 126). That
OPEN is set at the start itself is the model's reading (log entry 100). -/
def Obligations.WatchdogSetup : Prop :=
  ∀ s : State, Ready s →
    (flag WDG_STAT_RUN s = false → inFawn s = false →
      ∃ t, exec .watchdogStart s = .next t ∧ flag WDG_CTL_RUN t = true ∧ flag WDG_STAT_RUN t = true ∧
        flag WDG_STAT_OPEN t = true ∧ fld WDG_STAT_BADCNT t = 0 ∧ fld WDG_CHKD_MASK t = 0 ∧ t.wdg.start = nowUs s ∧
        t.wdg.cyc = lfoCycles (if flag WDG_CTL_HWST s then 500 else fld WDG_PER_PER s) ∧
        t.wdg.task.toNat = rd WDG_TASK s ∧
        FieldsBut [WDG_CTL_RUN, WDG_STAT_RUN, WDG_STAT_OPEN, WDG_STAT_BADCNT, WDG_CHKD_MASK] s t ∧
        t = { parWrite WDG_CTL 1 s with regs := t.regs, wdg := t.wdg }) ∧
    (∀ v : Word, flag WDG_STAT_KEYLK s = false →
      ∃ t, exec (.watchdogKeyWrite v) s = .next t ∧ t.wdg.key = v ∧ flag WDG_STAT_KEYLK t = true ∧
        FieldsBut [WDG_STAT_KEYLK] s t ∧ t = { s with regs := t.regs, wdg := { s.wdg with key := v } }) ∧
    (∀ v : Word, flag WDG_STAT_KEYLK s = true →
      ∃ t, exec (.watchdogKeyWrite v) s = .next t ∧ flag WDG_ERR_KEYREF t = true ∧
        FieldsBut [WDG_ERR_KEYREF] s t ∧ t = { s with regs := t.regs }) ∧
    (∀ (task : Bool) (v : Word), flag WDG_STAT_RUN s = false ∨ flag WDG_STAT_OPEN s = true →
      ∃ t, exec (.watchdogConfigWrite task v) s = .next t ∧
        (if task then rd WDG_TASK t = v.toNat else rd WDG_PER t = clampN 1 4096 (v.toNat % 8192)) ∧
        (let served : Prop := ∃ b, s.wback = some b ∧ b.clk = clockNow s ∧ b.valid = true ∧ flag WDG_STAT_OPEN (b.old s) = true;
          (task = false ∧ served → t.wdg.cyc = lfoCycles (rd WDG_PER t)) ∧ (¬(task = false ∧ served) → t.wdg.cyc = s.wdg.cyc)) ∧
        FieldsBut [whole (if task then WDG_TASK else WDG_PER)] s t ∧
        t = { parWrite (if task then WDG_TASK else WDG_PER) 0xFFFFFFFF s with regs := t.regs, wdg := { s.wdg with cyc := t.wdg.cyc } }) ∧
    (∀ (task : Bool) (v : Word), flag WDG_STAT_RUN s = true → flag WDG_STAT_OPEN s = false →
      ∃ t, exec (.watchdogConfigWrite task v) s = .next t ∧ flag WDG_ERR_CFGREF t = true ∧
        FieldsBut [WDG_ERR_CFGREF] s t ∧ t = { s with regs := t.regs }) ∧
    (lfoMay (s.wdg.cyc / 8) s = true → ∃ t, exec .openWindowClose s = .next t ∧ flag WDG_STAT_OPEN t = false ∧
      FieldsBut [WDG_STAT_OPEN] s t ∧ t = { s with regs := t.regs }) ∧
    (lfoMay (s.wdg.cyc / 8) s = false → exec .openWindowClose s = .next s) ∧
    (∀ c : Nat, lfoMay c s = true ↔ c * 1000000 * 100 ≤ (nowUs s + 1 - s.wdg.start) * 32768 * 102)

/-- A service of a running watchdog: the token with every task checked in starts a new period and moves the question on; any other
is a bad service, which raises WDG_BAD, and the third of a period makes the watchdog expire at once. One in the clock in which the period has
ended is discarded. A check-in by a task's owner sets the task's bit; one by another, or for a task that is not enabled, is a bad service with
FOREIGN, and a second one of its task a bad service with the task's bit of DUP. A check-in of the clock of services comes before them: they are
taken back and judged again after the check-ins. The model's readings: a service of a stopped watchdog is ignored (log entry 75), and how the
services of a clock are taken back, and those of the clock of an expiry discarded (log entry 158). -/
def Obligations.WatchdogService : Prop :=
  (∀ (v : Word) (s : State), Ready s → flag WDG_STAT_RUN s = false ∨ s.wdg.endAt = some (clockNow s) →
     ∃ t, exec (.watchdogService v) s = .next t ∧ t = { s with wback := t.wback } ∧
       ((∀ b, s.wback = some b → b.clk ≠ clockNow s) → t = s)) ∧
  (∀ (v : Word) (s : State), flag WDG_STAT_RUN s = true → s.wdg.endAt ≠ some (clockNow s) →
     (Ready s → wdgMissing s = 0 → v = wdgToken s.wdg.key (fld WDG_Q_Q s) →
       ∃ t, exec (.watchdogService v) s = .next t ∧ fld WDG_Q_Q t = wdgNextQ (fld WDG_Q_Q s) ∧ flag WDG_STAT_SVCEVT t = true ∧
         flag WDG_STAT_OPEN t = true ∧ fld WDG_STAT_BADCNT t = 0 ∧ fld WDG_CHKD_MASK t = 0 ∧
         t.wdg.cyc = lfoCycles (fld WDG_PER_PER s) ∧ t.wdg.start = nowUs s ∧
         FieldsBut [WDG_Q_Q, WDG_STAT_SVCEVT, WDG_STAT_OPEN, WDG_STAT_BADCNT, WDG_CHKD_MASK] s t ∧
         t = { s with regs := t.regs, wdg := t.wdg, wback := t.wback }) ∧
     (vccOn s = true → wdgMissing s ≠ 0 ∨ v ≠ wdgToken s.wdg.key (fld WDG_Q_Q s) →
       (fld WDG_STAT_BADCNT s < 2 →
         ∃ t, exec (.watchdogService v) s = .next (settle t) ∧ fld WDG_STAT_BADCNT t = fld WDG_STAT_BADCNT s + 1 ∧
           flag WDG_STAT_BADEVT t = true ∧ t.evq = s.evq ++ [⟨srcWdgBad, 2, none, 0⟩] ∧
           fld WDG_ERR_MISS t = fld WDG_ERR_MISS s ||| wdgMissing s ∧ (wdgMissing s = 0 → flag WDG_ERR_WRONG t = true) ∧
           FieldsBut [WDG_STAT_BADCNT, WDG_STAT_BADEVT, WDG_ERR_MISS, WDG_ERR_WRONG] s t ∧
           t = { s with regs := t.regs, evq := t.evq, wback := t.wback }) ∧
       (2 ≤ fld WDG_STAT_BADCNT s → inFawn s = false → (∀ p, s.store.commitAt = some p → p.1 ≠ clockNow s) →
         s.clk.sft ≠ 0 ∨ s.clk.swDue = false →
         ((wdgExps s).length < 2 → s.store.winOpen = false → s.store.restartAt ≠ some (clockNow s) →
           ∃ t, exec (.watchdogService v) s = .next (settle t) ∧ WdgExpired s t ∧ flag WDG_STAT_BADEVT t = true ∧
             ⟨srcWdgBad, 2, none, 0⟩ ∈ t.evq) ∧
         (2 ≤ (wdgExps s).length → ∃ t, exec (.watchdogService v) s = .next (settle t) ∧ inFawn t = true ∧
           fld FLT_FAWN_CAUSE t = 2 ∧ ⟨srcWdgExp, 3, none, wdgMissing s⟩ ∈ t.evq ∧ ⟨srcWdgBad, 2, none, 0⟩ ∈ t.evq)))) ∧
  (∀ (who : Option EngId) (k : BitVec 3) (s : State),
     (∀ b, vccOn s = true → s.wback = some b → b.clk = clockNow s → b.svcs ≠ [] →
       exec (.watchdogCheckin who k) s = .next (settle (b.svcs.foldl (fun t v => wdgServiceOp (clockNow s) v t)
         (wdgChecks (clockNow s) (b.chks ++ [(who, k.toNat)]) (wdgTakeBack b s))))) ∧
     ((∀ b, s.wback = some b → b.clk = clockNow s → b.svcs = []) → flag WDG_STAT_RUN s = true →
      let own : Prop := wdgOwner k.toNat s = some ((who.map engNo).getD 4)
      let dup : Prop := bitOf (fld WDG_CHKD_MASK s) k.toNat = true
      (Ready s → own → ¬ dup →
        ∃ t, exec (.watchdogCheckin who k) s = .next t ∧ fld WDG_CHKD_MASK t = fld WDG_CHKD_MASK s + 2 ^ k.toNat ∧
          FieldsBut [WDG_CHKD_MASK] s t ∧ t = { s with regs := t.regs, wback := t.wback }) ∧
      (Ready s → ¬ own ∨ dup → s.wdg.endAt = some (clockNow s) →
        ∃ t, exec (.watchdogCheckin who k) s = .next t ∧ t = { s with wback := t.wback }) ∧
      (vccOn s = true → ¬ own ∨ dup → s.wdg.endAt ≠ some (clockNow s) →
        (fld WDG_STAT_BADCNT s < 2 →
          ∃ t, exec (.watchdogCheckin who k) s = .next (settle t) ∧ (¬ own → flag WDG_ERR_FOREIGN t = true ∧ fld WDG_ERR_DUP t = fld WDG_ERR_DUP s) ∧
            (own → dup → fld WDG_ERR_DUP t = putBit (fld WDG_ERR_DUP s) k.toNat true ∧ flag WDG_ERR_FOREIGN t = flag WDG_ERR_FOREIGN s) ∧
            fld WDG_STAT_BADCNT t = fld WDG_STAT_BADCNT s + 1 ∧ flag WDG_STAT_BADEVT t = true ∧
            t.evq = s.evq ++ [⟨srcWdgBad, 2, none, 0⟩] ∧
            FieldsBut [WDG_STAT_BADCNT, WDG_STAT_BADEVT, WDG_ERR_FOREIGN, WDG_ERR_DUP] s t ∧
            t = { s with regs := t.regs, evq := t.evq, wback := t.wback }) ∧
        (2 ≤ fld WDG_STAT_BADCNT s → inFawn s = false → (∀ p, s.store.commitAt = some p → p.1 ≠ clockNow s) →
          s.clk.sft ≠ 0 ∨ s.clk.swDue = false → (wdgExps s).length < 2 → s.store.winOpen = false →
          s.store.restartAt ≠ some (clockNow s) →
          ∃ t, exec (.watchdogCheckin who k) s = .next (settle t) ∧ WdgExpired s t ∧ ⟨srcWdgBad, 2, none, 0⟩ ∈ t.evq))))

/-- An expiry, at the end of the period by the LFO, that is not the third within 10 s raises WDG_EXP of class F, leaves no engine
that is not fenced running, and starts a first period; the third enters Fawn mode with cause 0x2. A service of the same clock
loses to it: what the services of the clock did, their bad services among it, is taken back, and where one made the period expire or Fawn mode
be entered the whole part is what it was before. In the clock of a bank swap the swap runs, and starts the engines, once;
after a swap or rollback of its clock the expiry only starts a first period, and a window committed in its clock fails and is rolled
back (R424). The model's choices: how the services of the clock are taken back (log entry 158), how the clock of a swap and
that of a commit are told (log entries 74, 169), and that the LFO's 2 % admit the expiry so early (log entry 126). -/
def Obligations.WatchdogExpiry : Prop :=
  (∀ s : State, vccOn s = true → flag WDG_STAT_RUN s = true → inFawn s = false → (∀ b, s.wback = some b → b.clk ≠ clockNow s) →
    ((∀ p, s.store.commitAt = some p → p.1 ≠ clockNow s) →
      (lfoMay s.wdg.cyc s = true → s.clk.sft ≠ 0 ∨ s.clk.swDue = false →
        ((wdgExps s).length < 2 → s.store.winOpen = false → s.store.restartAt ≠ some (clockNow s) →
          ∃ t, exec .watchdogExpiry s = .next (settle t) ∧ WdgExpired s t) ∧
        ((wdgExps s).length < 2 → s.store.restartAt = some (clockNow s) →
          ∃ t, exec .watchdogExpiry s = .next (settle t) ∧ ⟨srcWdgExp, 3, none, wdgMissing s⟩ ∈ t.evq ∧ t.wdg.start = nowUs s ∧
            flag WDG_STAT_OPEN t = true ∧ t.engs = s.engs ∧ t.store = s.store) ∧
        (2 ≤ (wdgExps s).length →
          ∃ t, exec .watchdogExpiry s = .next (settle t) ∧ ⟨srcWdgExp, 3, none, wdgMissing s⟩ ∈ t.evq ∧ inFawn t = true ∧
            fld FLT_FAWN_CAUSE t = 2)) ∧
      (lfoMay s.wdg.cyc s = true → s.clk.sft = 0 → s.clk.swDue = true → flag GLB_PSSTAT_PEND s = true →
        entryFenced (!actBank s) s = false → (wdgExps s).length < 2 →
        ∃ t, exec .watchdogExpiry s = .next (settle t) ∧ (∃ d, ⟨srcWdgExp, 3, none, d⟩ ∈ t.evq) ∧ actBank t = !actBank s ∧
          t.clk.swDue = false ∧ t.store.winOpen = true ∧ t.store.winFail = 0 ∧ t.flt.relEng = []) ∧
      (Quiet s → lfoMay s.wdg.cyc s = false → exec .watchdogExpiry s = .next s)) ∧
    (∀ evt, s.store.commitAt = some (clockNow s, false, evt) →
      lfoMay s.wdg.cyc s = true → s.clk.sft ≠ 0 ∨ s.clk.swDue = false → startedMask s ≠ 0 → (wdgExps s).length < 2 →
      ∃ t, exec .watchdogExpiry s = .next (settle t) ∧ (∃ d, ⟨srcWdgExp, 3, none, d⟩ ∈ t.evq) ∧
        (∃ m, ⟨srcUpdRollback, 2, none, m⟩ ∈ t.evq) ∧ actBank t = s.store.oldBank ∧ flag (psFail (actBank s)) t = true ∧
        t.store.winOpen = false ∧ t.flt.relEng = [])) ∧
  (∀ (s : State) (b : WdgBack), vccOn s = true → s.wback = some b → b.clk = clockNow s →
    let u := wdgTakeBack b s
    let marks := [WDG_STAT_BADCNT, WDG_STAT_SVCEVT, WDG_STAT_OPEN, WDG_STAT_BADEVT, WDG_Q_Q, WDG_CHKD_MASK, WDG_ERR_MISS, WDG_ERR_WRONG,
      WDG_ERR_FOREIGN, WDG_ERR_DUP]
    (wdgFar b s = true → u = { s with
      toBlock := { b.was with
        hst := s.hst, clk := { b.was.clk with us := s.clk.us, sft := s.clk.sft, frm := s.clk.frm, fidx := s.clk.fidx }
        sup := { b.was.sup with power := s.sup.power, fuses := s.sup.fuses } }
      wback := none }) ∧
    (wdgFar b s = false →
      (∀ f ∈ marks, fld f u = fld f (b.old s)) ∧
      u.wdg = { s.wdg with cyc := b.was.wdg.cyc, start := b.was.wdg.start, task := b.was.wdg.task } ∧
      (b.ev = none → FieldsBut marks s u ∧ u = { s with regs := u.regs, wdg := u.wdg, wback := none }) ∧
      (∀ v, b.ev = some v → flag (pendBit srcWdgBad) u = v.pend ∧ flag (sevBit srcWdgBad) u = v.sev ∧
        flag FLT_STAT_NOTEVT u = v.notEvt ∧ flag ⟨HST_NPEND, 0, 0⟩ u = v.fault ∧ u.evq = s.evq.filter (fun e => e.src != srcWdgBad) ∧
        u = { s with regs := u.regs, wdg := u.wdg, flt := u.flt, evq := u.evq, wback := none })) ∧
    (let w := wdgChecks (clockNow s) b.chks (wdgEnded (clockNow s) u)
     let ends : Prop := flag WDG_STAT_RUN w = true ∧ inFawn w = false ∧ lfoMay w.wdg.cyc w = true
     (b.chks = [] → w = { u with wdg := { u.wdg with endAt := some (clockNow s) } }) ∧
     (ends → exec .watchdogExpiry s = exec .watchdogExpiry w) ∧ (Quiet s → ¬ ends → exec .watchdogExpiry s = .next s)))

/-- The update of an 80 µs count shows each sensor's reading, gives the thermal bound of the group maximum that it shows, and says
since when the die maximum lies below its stop's release; without a count there is none. A locked HFO has no correction.
A die sensor at HARD less the 3 °C of its tolerance, or above, sets HARD and HARDEVT and raises TH_HARD of class F; a stop ends once its maximum has lain below its threshold
less 10 °C, or 20 °C for HARD, for 1 s. The model's readings: THDR is rounded up to its unit of 10 mA (log entry 125), a die sensor trips TH_HARD
from 3 °C below HARD on (log entry 50), the frames that hold a count (log entry 134), and from when a stop's second runs (log entry 143). -/
def Obligations.ThermalRows : Prop :=
  (∀ (o : ThermObs) (s : State),
     (Ready s → s.thm.due = false → exec (.thermalUpdate o) s = .next s) ∧
     (vccOn s = true → s.thm.due = true →
       ∃ t, exec (.thermalUpdate o) s = .next (settle t) ∧
         (∀ n < 12, fld (THM_SENS_TEMP n) t = match sensOf o n s with | none => 0x8000 | some v => unsgn 16 v) ∧
         (∀ n < 4, fld (THM_TRCFG_MODE n) s ∉ [1, 2] → fld (THM_SENS_TEMP (7 + n)) t = 0x8000) ∧
         fld PWR_THDR_VAL t =
           (match tempOf (rd THM_GMAX t) with
             | none => 6000
             | some g =>
               let x : Int := g - (fld THM_DRATE_START s * 8 : Nat)
               if fld THM_DRATE_SLOPE s ≠ 0 ∧ 0 < x then (6000 - 10 * (fld THM_DRATE_SLOPE s : Int) * x / 8).toNat else 6000) ∧
         fld GLB_OSCCOR_COR t = (if fld GLB_CLKSTAT_CLKSRC s = 1 ∨ fld GLB_CLKSTAT_CLKSRC s = 2 then 0 else unsgn 12 o.osc) ∧
         t.thm.due = false ∧
         t.thm.coolDie = (if atLeast (tempOf (rd THM_DIE t)) (fld THM_JTH_STOP s - 10) = true ∨ 3 ≤ dieInvCount t then none
           else some (s.thm.coolDie.getD (nowUs s))) ∧
         t = { s with regs := t.regs, thm := t.thm, chg := t.chg, pwr := t.pwr, evq := t.evq })) ∧
  (∀ s : State,
     (∀ die : Int, Ready s → die < (fld THM_JTH_HARD s : Int) * 8 - 24 → exec (.thHardTrip die) s = .next s) ∧
     (∀ die : Int, vccOn s = true → flag THM_STAT_HARD s = false → (fld THM_JTH_HARD s : Int) * 8 - 24 ≤ die →
       ∃ t, exec (.thHardTrip die) s = .next (settle t) ∧ flag THM_STAT_HARD t = true ∧ flag THM_STAT_HARDEVT t = true ∧
         t.chg.thardOn = true ∧ ⟨srcThHard, 3, none, dieDet s⟩ ∈ t.evq ∧ StopWhy.thHard ∈ t.pwr.stops) ∧
     (Ready s →
       let held := fun (since : Option Nat) => ∃ u, since = some u ∧ u + 1000000 ≤ nowUs s
       (∃ t, exec .thStopRelease s = .next t ∧
         (flag THM_STAT_STOP t = true ↔ flag THM_STAT_STOP s = true ∧ ¬ held s.thm.coolDie) ∧
         (flag THM_STAT_GSTP t = true ↔ flag THM_STAT_GSTP s = true ∧ ¬ held s.thm.coolGrp) ∧
         FieldsBut [THM_STAT_STOP, THM_STAT_GSTP] s t ∧
         t = { s with regs := t.regs, chg := { s.chg with tstopOn := flag THM_STAT_STOP t || flag THM_STAT_GSTP t } }) ∧
       (flag THM_STAT_HARD s = true → held s.thm.coolHard →
         ∃ t, exec .thHardRelease s = .next t ∧ flag THM_STAT_HARD t = false ∧ FieldsBut [THM_STAT_HARD] s t ∧
           t = { s with regs := t.regs, chg := { s.chg with thardOn := false },
                        pwr := { s.pwr with stops := s.pwr.stops.filter (fun x => x != .thHard) } }) ∧
       (flag THM_STAT_HARD s = false ∨ ¬ held s.thm.coolHard → exec .thHardRelease s = .next s)))

/-! ## Timer array -/

/-- A write to a counter loads it and clears its accumulator; a write to a period or to an unstaged compare register is its new
value; a staged compare value waits; an engine load of a capture clears NEW. Nothing else changes.
A stagger load of two or more like channels puts counts that divide the period evenly into them, lowest channel first; a
mask of fewer, or of channels that differ in CLK, CPIN, DIV or PER, is refused with STAGREF and changes no channel. -/
def Obligations.TimerWrites : Prop :=
  (∀ (n : Fin 8) (v : Word) (s : State), Ready s →
     (∃ t, exec (.timerCounterWrite n v) s = .next t ∧ rd (TMR_CNT n) t = v.toNat ∧ (tmrCh n t).acc = 0 ∧
       (tmrCh n t).stage = (tmrCh n s).stage ∧ (∀ k : Fin 8, k ≠ n → tmrCh k t = tmrCh k s) ∧
       FieldsBut [whole (TMR_CNT n)] s t ∧ t = { s with regs := t.regs, tmr := t.tmr }) ∧
     (∃ t, exec (.timerPeriodWrite n v) s = .next t ∧ rd (TMR_PER n) t = v.toNat ∧
       FieldsBut [whole (TMR_PER n)] s t ∧ t = { parWrite (TMR_PER n) 0xFFFFFFFF s with regs := t.regs }) ∧
     (flag (TMR_CFG_STAGE n) s = false ∨ flag (TMR_CFG_EN n) s = false →
       ∃ t, exec (.timerCompareWrite n v) s = .next t ∧ rd (TMR_CMP n) t = v.toNat ∧
         FieldsBut [whole (TMR_CMP n)] s t ∧ t = { parWrite (TMR_CMP n) 0xFFFFFFFF s with regs := t.regs }) ∧
     (flag (TMR_CFG_STAGE n) s = true → flag (TMR_CFG_EN n) s = true →
       ∃ t, exec (.timerCompareWrite n v) s = .next t ∧ (tmrCh n t).stage = some v ∧ flag (TMR_CAPSTAT_SPEND n) t = true ∧
         (tmrCh n t).acc = (tmrCh n s).acc ∧ (∀ k : Fin 8, k ≠ n → tmrCh k t = tmrCh k s) ∧
         FieldsBut [TMR_CAPSTAT_SPEND n] s t ∧ t = { s with regs := t.regs, tmr := t.tmr }) ∧
     (∃ t, exec (.timerCaptureRead n) s = .next t ∧ flag (TMR_CAPSTAT_NEW n) t = false ∧
       FieldsBut [TMR_CAPSTAT_NEW n] s t ∧ t = { s with regs := t.regs })) ∧
  (∀ (mask : BitVec 8) (s : State), Ready s →
     let ms := (List.range 8).filter (fun k => mask.getLsbD k)
     let like : Prop := ∀ k ∈ ms, ∀ l ∈ ms, fld (TMR_CFG_CLK k) s = fld (TMR_CFG_CLK l) s ∧ fld (TMR_CFG_CPIN k) s = fld (TMR_CFG_CPIN l) s ∧
       fld (TMR_PRE_DIV k) s = fld (TMR_PRE_DIV l) s ∧ rd (TMR_PER k) s = rd (TMR_PER l) s
     (ms.length < 2 ∨ ¬ like → ∃ t, exec (.timerStaggerLoad mask) s = .next t ∧ flag TMR_STAT_STAGREF t = true ∧
       FieldsBut [whole TMR_STAG, TMR_STAT_STAGREF] s t ∧ t = { parWrite TMR_STAG 0xFF s with regs := t.regs }) ∧
     (2 ≤ ms.length → like →
       ∃ t, exec (.timerStaggerLoad mask) s = .next t ∧
         (∀ j < ms.length, rd (TMR_CNT (ms.getD j 0)) t = j * (rd (TMR_PER (ms.getD 0 0)) s + 1) / ms.length ∧
           (tmrCh (ms.getD j 0) t).acc = 0) ∧
         FieldsBut (whole TMR_STAG :: ms.map (fun k => whole (TMR_CNT k))) s t ∧
         t = { parWrite TMR_STAG 0xFF s with regs := t.regs, tmr := t.tmr }))

/-- A source edge that is counted moves the accumulator by 1.0 (256); at DIV it takes DIV away and gives one count edge, which
adds 1 to the counter or, at or above PER, reloads it to 0.
At a count edge a counter at or above PER is 0, RLDEVT is set, a staged compare value goes into force; a counter that comes
to its compare value sets MATCH and the output takes the match action.
An accepted capture copies the counter and sets NEW, and OVR where NEW stood; a pin held at ACT for the stuck time sets STUCK
and STUCKEVT and raises STUCK_IN of class C. The model's readings: the actions move OUTLVL only with OE = 1 (log entry 55), and
TIO_STUCK sets the pin's level to ACT (log entry 147). -/
def Obligations.TimerCounts : Prop :=
  (∀ (n : Fin 8) (gate : Bool) (gap : Nat) (s : State), Ready s → tmrRuns n s = true → fld (TMR_CFG_CLK n) s ≠ 1 →
     (fld (TMR_CFG_CLK n) s = 3 → 4 ≤ gap) → (flag (TMR_CFG_GATE n) s = true → gate = flag (TMR_CFG_GLVL n) s) →
     ∃ t, exec (.countEdge n gate gap) s = .next t ∧
       (if (tmrCh n s).acc + 256 < fld (TMR_PRE_DIV n) s then
         (tmrCh n t).acc = (tmrCh n s).acc + 256 ∧ rd (TMR_CNT n) t = rd (TMR_CNT n) s ∧
         t = { s with regs := t.regs, tmr := t.tmr }
       else
         (tmrCh n t).acc = (tmrCh n s).acc + 256 - fld (TMR_PRE_DIV n) s ∧
         rd (TMR_CNT n) t = (if rd (TMR_PER n) s ≤ rd (TMR_CNT n) s then 0 else rd (TMR_CNT n) s + 1) ∧
         (t = { s with regs := t.regs, tmr := t.tmr } ∨ t = { parWrite (TMR_CMP n) 0xFFFFFFFF s with regs := t.regs, tmr := t.tmr })) ∧
       (fld (TMR_CFG_CLK n) s = 3 → flag ⟨TMR_TIO, fld (TMR_CFG_CPIN n) s, fld (TMR_CFG_CPIN n) s⟩ t = true) ∧
       (∀ k : Fin 8, k ≠ n → tmrCh k t = tmrCh k s) ∧
       (fld (TMR_CFG_CLK n) s ≠ 3 → rd TMR_TIO t = rd TMR_TIO s) ∧
       FieldsBut [whole (TMR_CNT n), whole (TMR_CMP n), whole TMR_TIO, TMR_CAPSTAT_SPEND n, TMR_CAPSTAT_OUTLVL n,
         TMR_CAPSTAT_RLDEVT n, TMR_CAPSTAT_MATCH n] s t) ∧
  (∀ (n : Fin 8) (s : State), Ready s → tmrRuns n s = true →
     (rd (TMR_PER n) s ≤ rd (TMR_CNT n) s →
       ∃ t, exec (.timerReload n) s = .next t ∧ rd (TMR_CNT n) t = 0 ∧ flag (TMR_CAPSTAT_RLDEVT n) t = true ∧
         (tmrCh n t).stage = none ∧ (tmrCh n t).acc = (tmrCh n s).acc ∧
         rd (TMR_CMP n) t = ((tmrCh n s).stage.map (fun v => v.toNat)).getD (rd (TMR_CMP n) s) ∧
         (rd (TMR_CMP n) t = 0 → flag (TMR_CAPSTAT_MATCH n) t = true) ∧
         (flag (TMR_CFG_OE n) s = true → fld (TMR_CFG_OACT n) s = 0 →
           flag (TMR_CAPSTAT_OUTLVL n) t = decide (rd (TMR_CMP n) t ≠ 0)) ∧
         (flag (TMR_CFG_OE n) s = false → flag (TMR_CAPSTAT_OUTLVL n) t = flag (TMR_CAPSTAT_OUTLVL n) s) ∧
         (∀ k : Fin 8, k ≠ n → tmrCh k t = tmrCh k s) ∧
         FieldsBut [whole (TMR_CNT n), whole (TMR_CMP n), TMR_CAPSTAT_SPEND n, TMR_CAPSTAT_OUTLVL n, TMR_CAPSTAT_RLDEVT n,
           TMR_CAPSTAT_MATCH n] s t ∧
         t = { (if (tmrCh n s).stage = none then s else parWrite (TMR_CMP n) 0xFFFFFFFF s) with regs := t.regs, tmr := t.tmr }) ∧
     (rd (TMR_CNT n) s < rd (TMR_PER n) s → rd (TMR_CNT n) s + 1 = rd (TMR_CMP n) s →
       ∃ t, exec (.timerMatch n) s = .next t ∧ rd (TMR_CNT n) t = rd (TMR_CMP n) s ∧ flag (TMR_CAPSTAT_MATCH n) t = true ∧
         (flag (TMR_CFG_OE n) s = true →
           flag (TMR_CAPSTAT_OUTLVL n) t =
             (match fld (TMR_CFG_OACT n) s with
               | 0 => false | 1 => !flag (TMR_CAPSTAT_OUTLVL n) s | _ => true)) ∧
         (flag (TMR_CFG_OE n) s = false → flag (TMR_CAPSTAT_OUTLVL n) t = flag (TMR_CAPSTAT_OUTLVL n) s) ∧
         FieldsBut [whole (TMR_CNT n), TMR_CAPSTAT_OUTLVL n, TMR_CAPSTAT_MATCH n] s t ∧ t = { s with regs := t.regs })) ∧
  (∀ (n : Fin 8) (s : State), tmrRuns n s = true → flag (TMR_CFG_CAPEN n) s = true → flag (TMR_CAPSTAT_STUCK n) s = false →
     (∀ (rising : Bool) (gap : Nat), Ready s → 4 ≤ gap →
       (fld (TMR_CFG_EDGE n) s = 3 ∨ fld (TMR_CFG_EDGE n) s = if rising then 1 else 2) →
       ∃ t, exec (.timerCapture n rising gap) s = .next t ∧ rd (TMR_CAP n) t = rd (TMR_CNT n) s ∧
         flag (TMR_CAPSTAT_NEW n) t = true ∧
         flag (TMR_CAPSTAT_OVR n) t = (flag (TMR_CAPSTAT_OVR n) s || flag (TMR_CAPSTAT_NEW n) s) ∧
         FieldsBut [whole TMR_TIO, whole (TMR_CAP n), TMR_CAPSTAT_NEW n, TMR_CAPSTAT_OVR n, TMR_CAPSTAT_STUCK n] s t ∧
         t = { s with regs := t.regs }) ∧
     (vccOn s = true → fld (TMR_CFG_STUCK n) s ≠ 0 →
       ∃ t, exec (.tioStuck n) s = .next (settle t) ∧ flag (TMR_CAPSTAT_STUCK n) t = true ∧
         flag (TMR_CAPSTAT_STUCKEVT n) t = true ∧ t.evq = s.evq ++ [⟨srcStuckIn, 1, none, 0⟩] ∧
         bitOf (rd TMR_TIO t) (fld (TMR_CFG_IPIN n) s) = flag (TMR_CFG_ACT n) s ∧
         FieldsBut [⟨TMR_TIO, fld (TMR_CFG_IPIN n) s, fld (TMR_CFG_IPIN n) s⟩, TMR_CAPSTAT_STUCK n, TMR_CAPSTAT_STUCKEVT n] s t ∧ t = { s with regs := t.regs, evq := t.evq }))

/-! ## Faults, Fawn mode and the log -/

/-- Fawn mode by command, and its end: the exit is requested where its cause allows by the table of R534, and taken at the next tick, when the engines
start again at their entries, a fenced pin engine apart. Escalation windows, fence releases, fault injection, the log and the error pins: what each command changes. The model's readings: boot
service ends at the exit from Fawn mode (log entry 88), FAWNEXIT records the sub-frame tick of its request (log entry 145), and a clearing of a
pending bit, a release or an exit in the clock of an event or of a new cause comes out as R543 has it in whichever order the two commands
come, that clock being a sub-frame tick (log entry 213). -/
def Obligations.FaultCommands : Prop :=
  (∀ s : State,
     (vccOn s = true → exec (.fawn none) s = .next (settle (fawnEnter 5 0xFF s))) ∧
     (Quiet s → s.sup.power = .on → s.sup.fuseBusy = none → flag HST_CFG_PECREQ s = false →
       (inFawn s = false → ∃ t, exec (.fawn (some [0xF4])) s = .next (settle t) ∧ inFawn t = true ∧ fld FLT_FAWN_CAUSE t = 5 ∧
         fld HST_RES_RES t = 0 ∧ fld HST_RES_CMD t = 0x60) ∧
       (exitOk s = true → (∀ c, s.flt.causeAt = some c → c.1 ≠ clockNow s) → ∃ t, exec (.fawnexit [0x4F]) s = .next t ∧ fld HST_RES_RES t = 0 ∧
         t.flt = { s.flt with exitReq := true, exitAt := s.clk.us * 100 + s.clk.sft } ∧
         FieldsBut [HST_RES_RES, HST_RES_CMD, HST_RES_SEQ, whole HST_VAL, HST_STAT_BUS] s t) ∧
       (∀ cause src, cause < 16 → src < 256 → exitOk s = true → s.flt.causeAt = some (clockNow s, cause, src) →
         ∃ t, exec (.fawnexit [0x4F]) s = .next t ∧ fld HST_RES_RES t = 0 ∧ t.flt = s.flt ∧ inFawn t = true ∧ fld FLT_FAWN_CAUSE t = cause ∧
           fld FLT_FAWN_SRC t = src) ∧
       (exitOk s = false → ∃ t, exec (.fawnexit [0x4F]) s = .next t ∧ fld HST_RES_RES t = 3 ∧ t.flt.exitReq = s.flt.exitReq) ∧
       (let cause := fld FLT_FAWN_CAUSE s;
         exitOk s = true ↔ inFawn s = true ∧ flag (psValid (actBank s)) s = true ∧
           (cause ∈ [2, 3, 5, 6] ∨ cause = 4 ∧ flag (pendBit (fld FLT_FAWN_SRC s)) s = false ∨
             cause = 7 ∧ flag GLB_CLKSTAT_CLKFAIL s = false))) ∧
     (vccOn s = true → s.flt.exitReq = true → inFawn s = true → ∃ t, exec .fawnExit s = .next (settle t) ∧ inFawn t = false ∧
       fld FLT_FAWN_CAUSE t = 0 ∧ t.flt.exitReq = false ∧ t.sup.boot = false ∧ fencedU 0 t = false ∧ fencedU 1 t = false ∧
       (∀ e : EngId, e = .csq ∨ e = .hsq ∨ (getEng e s).phase ≠ .fenced → (getEng e t).pc.toNat = hdrEng e 0x18 s ∧
         (getEng e t).phase = (if hdrEng e 0x18 s = 0 then .notStarted else .waiting)) ∧
       (∃ l ∈ t.logq, l.typ = 4 ∧ l.code = 2) ∧ flag ⟨HST_NPEND, 3, 3⟩ t = true) ∧
     (Ready s → s.flt.exitReq = false ∨ inFawn s = false → exec .fawnExit s = .next s)) ∧
  (∀ s : State, Ready s →
     (∀ (who : Option EngId) (v : Word), Writes who FLT_PEND0 s → ∃ t, exec (.registerWrite who (BitVec.ofNat 16 FLT_PEND0) 2 v) s = .next t ∧
       ∀ n < 32, (∃ x ∈ s.flt.last, x.src = n ∧ x.clk = clockNow s) → flag (pendBit n) t = flag (pendBit n) s) ∧
     (∀ n : Fin 37, exec (.escalationWindowClose n) s = .next { s with
       flt := { s.flt with wins := s.flt.wins.filter (fun w => w.src != n.val || decide (nowUs s < w.till)) } }) ∧
     (∀ (who : Option EngId) (u : Fin 15),
       (fencedU u s = false → exec (.fenceRelease who (BitVec.ofNat 16 (2 ^ u.val))) s = .next s) ∧
       (fencedU u s = true → u.val < 4 → inFawn s = true → ∃ t,
         exec (.fenceRelease who (BitVec.ofNat 16 (2 ^ u.val))) s = .next t ∧ flag FLT_STAT_CFGREF t = true ∧
         FieldsBut [FLT_STAT_CFGREF] s t ∧ t = { s with regs := t.regs }) ∧
       (∀ e : EngId, who = some e → engNo e = u.val → inFawn s = false →
         exec (.fenceRelease who (BitVec.ofNat 16 (2 ^ u.val))) s = .next s) ∧
       (fencedU u s = true → (∀ e : EngId, who = some e → engNo e ≠ u.val) → (u.val < 4 → inFawn s = false) →
         let fences := fun was : Bool => ∃ x ∈ s.flt.last, x.clk = clockNow s ∧ x.unit = some (u.val, was)
         (¬ fences false → ¬ fences true →
           ∃ t, exec (.fenceRelease who (BitVec.ofNat 16 (2 ^ u.val))) s = .next (settle t) ∧ fencedU u t = false ∧
             (∃ l ∈ t.logq, l.typ = 8 ∧ l.code = 2 ∧ l.det.toNat = u.val) ∧ (∀ w < 15, w ≠ u.val → fencedU w t = fencedU w s)) ∧
         (¬ fences false → fences true →
           ∃ t, exec (.fenceRelease who (BitVec.ofNat 16 (2 ^ u.val))) s = .next (settle t) ∧ fencedU u t = true ∧
             (∃ l ∈ t.logq, l.typ = 8 ∧ l.code = 2 ∧ l.det.toNat = u.val) ∧ (∃ l ∈ t.logq, l.typ = 8 ∧ l.code = 1 ∧ l.det.toNat = u.val)) ∧
         (fences false → exec (.fenceRelease who (BitVec.ofNat 16 (2 ^ u.val))) s = .next s))) ∧
     (∀ v : BitVec 16, ∃ t, exec (.faultInjectionArm v) s = .next t ∧ flag FLT_INJ_ARM t = bitOf v.toNat 15 ∧
       fld FLT_INJ_TGT t = v.toNat % 8 ∧ fld FLT_INJ_NBIT t = v.toNat / 256 % 4 ∧
       (bitOf v.toNat 14 = true → flag FLT_INJ_DONE t = false) ∧
       FieldsBut [FLT_INJ_ARM, FLT_INJ_TGT, FLT_INJ_NBIT, FLT_INJ_DONE] s t ∧ t = { s with regs := t.regs }) ∧
     (∃ t, exec .logClear s = .next t ∧ t.flt.log = [] ∧ fld LOG_STAT_NEXT t = 0 ∧ flag LOG_STAT_FULL t = false ∧
       fld LOG_STAT_LOSTC t = 0 ∧ rd LOG_WCNT t = 0 ∧
       FieldsBut [LOG_STAT_NEXT, LOG_STAT_FULL, LOG_STAT_LOSTC, whole LOG_WCNT] s t ∧
       t = { s with regs := t.regs, flt := { s.flt with log := [] } }) ∧
     (∀ k : BitVec 8, ∃ t, exec (.logSelect k) s = .next t ∧ fld LOG_SEL_SLOT t = k.toNat ∧ t.flt.logEnt = logAt k.toNat s ∧
       FieldsBut [LOG_SEL_SLOT] s t ∧ t = { s with regs := t.regs, flt := { s.flt with logEnt := t.flt.logEnt } }) ∧
     (∀ (who : Option EngId) (v : Word), flag LOG_CTL_MODE s = false →
       let e : LogEnt := ⟨nowUs s % 2 ^ 48, if who.isSome then 9 else 0xA,
         match who with | some e => engNo e * 64 + v.toNat % 64 | none => v.toNat % 256, s.clk.frm, BitVec.ofNat 32 (v.toNat / 256)⟩
       ∃ t, exec (.logPut who v) s = .next t ∧ t.flt.log = (e :: s.flt.log).take 256 ∧ rd LOG_WCNT t = (rd LOG_WCNT s + 1) % 2 ^ 32 ∧
         FieldsBut [LOG_STAT_FULL, LOG_STAT_NEXT, whole LOG_WCNT] s t ∧
         t = { s with regs := t.regs, flt := { s.flt with log := t.flt.log } }) ∧
     (fuseErrmode s = 2 → s.sup.power = .on → s.clk.running = true → errCond s = false →
       exec .errToggle s = .next { s with sup := { s.sup with errSwap := !s.sup.errSwap } } ∧
       errPins { s with sup := { s.sup with errSwap := !s.sup.errSwap } } = ((errPins s).2, (errPins s).1)) ∧
     (fuseErrmode s ≠ 2 → exec .errToggle s = .next s))

/-- A write to FLT_CFG of a source is refused, with CFGREF and the register unchanged, where REACT or SEVR is below the source's
minimum or not a reaction, where fence is selected for a source without a unit, or safe stop for one not marked SS; any other is
taken. -/
def Obligations.FaultConfig : Prop :=
  ∀ (n : Fin 64) (v : Word) (r : SrcRow) (s : State), Ready s → srcTable[n.val]? = some r → flag FLT_LOCK_LOCK s = false →
    let react := v.toNat % 8
    let sevr := v.toNat / 16 % 8
    let bad := react < r.min ∨ sevr < r.min ∨ 5 ≤ react ∨ 5 ≤ sevr ∨ (react = 2 ∨ sevr = 2) ∧ r.unit = false ∨
      (react = 3 ∨ sevr = 3) ∧ r.ss = false
    (bad → ∃ t, exec (.faultConfigWrite n v) s = .next t ∧ rd (FLT_CFG n) t = rd (FLT_CFG n) s ∧ flag FLT_STAT_CFGREF t = true ∧
      FieldsBut [FLT_STAT_CFGREF] s t ∧ t = { s with regs := t.regs }) ∧
    (¬ bad → ∃ t, exec (.faultConfigWrite n v) s = .next t ∧ fld (FLT_CFG_REACT n) t = react ∧ fld (FLT_CFG_SEVR n) t = sevr ∧
      fld (FLT_CFG_N n) t = v.toNat / 256 % 256 ∧ fld (FLT_CFG_W n) t = v.toNat / 65536 % 256 ∧
      fld (FLT_CFG_ERRM n) t = v.toNat / 2 ^ 24 % 2 ∧
      FieldsBut [FLT_CFG_REACT n, FLT_CFG_SEVR n, FLT_CFG_N n, FLT_CFG_W n, FLT_CFG_ERRM n] s t ∧
      t = { parWrite (FLT_CFG n) 0x1FFFF77 s with regs := t.regs, sup := { s.sup with errSwap := s.sup.errSwap && !errCond t } })
end

