-- ==== Sys2Proof/Laws/State.lean ====
section
/-!
SUPPORT. What each named update leaves unchanged: one lemma per field of the state and update, so that no proof unfolds a record
update. The register file's own laws are in Laws/Regs.lean.
-/

namespace Sys2Proof.Machine

variable {s : State}

/-! ## wr -/

@[simp] theorem wr_pending {a v : Nat} : (wr a v s).pending = s.pending := rfl
@[simp] theorem wr_wback {a v : Nat} : (wr a v s).wback = s.wback := rfl
@[simp] theorem wr_live {a v : Nat} : (wr a v s).live = s.live := rfl
@[simp] theorem wr_marks {a v : Nat} : (wr a v s).marks = s.marks := rfl
@[simp] theorem wr_clk {a v : Nat} : (wr a v s).clk = s.clk := rfl
@[simp] theorem wr_sup {a v : Nat} : (wr a v s).sup = s.sup := rfl
@[simp] theorem wr_store {a v : Nat} : (wr a v s).store = s.store := rfl
@[simp] theorem wr_engs {a v : Nat} : (wr a v s).engs = s.engs := rfl
@[simp] theorem wr_rng {a v : Nat} : (wr a v s).rng = s.rng := rfl
@[simp] theorem wr_mem {a v : Nat} : (wr a v s).mem = s.mem := rfl
@[simp] theorem wr_ramErr {a v : Nat} : (wr a v s).ramErr = s.ramErr := rfl
@[simp] theorem wr_flt {a v : Nat} : (wr a v s).flt = s.flt := rfl
@[simp] theorem wr_evq {a v : Nat} : (wr a v s).evq = s.evq := rfl
@[simp] theorem wr_logq {a v : Nat} : (wr a v s).logq = s.logq := rfl
@[simp] theorem wr_pwr {a v : Nat} : (wr a v s).pwr = s.pwr := rfl
@[simp] theorem wr_hub {a v : Nat} : (wr a v s).hub = s.hub := rfl
@[simp] theorem wr_chg {a v : Nat} : (wr a v s).chg = s.chg := rfl
@[simp] theorem wr_pk {a v : Nat} : (wr a v s).pk = s.pk := rfl
@[simp] theorem wr_pkb {a v : Nat} : (wr a v s).pkb = s.pkb := rfl
@[simp] theorem wr_imp {a v : Nat} : (wr a v s).imp = s.imp := rfl
@[simp] theorem wr_thm {a v : Nat} : (wr a v s).thm = s.thm := rfl
@[simp] theorem wr_wdg {a v : Nat} : (wr a v s).wdg = s.wdg := rfl
@[simp] theorem wr_tmr {a v : Nat} : (wr a v s).tmr = s.tmr := rfl
@[simp] theorem wr_tcp {a v : Nat} : (wr a v s).tcp = s.tcp := rfl
@[simp] theorem wr_lnk {a v : Nat} : (wr a v s).lnk = s.lnk := rfl
@[simp] theorem wr_hst {a v : Nat} : (wr a v s).hst = s.hst := rfl
@[simp] theorem wr_seed {a v : Nat} : (wr a v s).seed = s.seed := rfl

/-! ## parWrite -/

@[simp] theorem parWrite_pending {a m : Nat} : (parWrite a m s).pending = s.pending := rfl
@[simp] theorem parWrite_wback {a m : Nat} : (parWrite a m s).wback = s.wback := rfl
@[simp] theorem parWrite_regs {a m : Nat} : (parWrite a m s).regs = s.regs := rfl
@[simp] theorem parWrite_live {a m : Nat} : (parWrite a m s).live = s.live := rfl
@[simp] theorem parWrite_marks {a m : Nat} : (parWrite a m s).marks = s.marks := rfl
@[simp] theorem parWrite_clk {a m : Nat} : (parWrite a m s).clk = s.clk := rfl
@[simp] theorem parWrite_sup {a m : Nat} : (parWrite a m s).sup = s.sup := rfl
@[simp] theorem parWrite_store {a m : Nat} : (parWrite a m s).store = s.store := rfl
@[simp] theorem parWrite_engs {a m : Nat} : (parWrite a m s).engs = s.engs := rfl
@[simp] theorem parWrite_rng {a m : Nat} : (parWrite a m s).rng = s.rng := rfl
@[simp] theorem parWrite_mem {a m : Nat} : (parWrite a m s).mem = s.mem := rfl
@[simp] theorem parWrite_ramErr {a m : Nat} : (parWrite a m s).ramErr = s.ramErr := rfl
@[simp] theorem parWrite_evq {a m : Nat} : (parWrite a m s).evq = s.evq := rfl
@[simp] theorem parWrite_logq {a m : Nat} : (parWrite a m s).logq = s.logq := rfl
@[simp] theorem parWrite_pwr {a m : Nat} : (parWrite a m s).pwr = s.pwr := rfl
@[simp] theorem parWrite_hub {a m : Nat} : (parWrite a m s).hub = s.hub := rfl
@[simp] theorem parWrite_chg {a m : Nat} : (parWrite a m s).chg = s.chg := rfl
@[simp] theorem parWrite_pk {a m : Nat} : (parWrite a m s).pk = s.pk := rfl
@[simp] theorem parWrite_pkb {a m : Nat} : (parWrite a m s).pkb = s.pkb := rfl
@[simp] theorem parWrite_imp {a m : Nat} : (parWrite a m s).imp = s.imp := rfl
@[simp] theorem parWrite_thm {a m : Nat} : (parWrite a m s).thm = s.thm := rfl
@[simp] theorem parWrite_wdg {a m : Nat} : (parWrite a m s).wdg = s.wdg := rfl
@[simp] theorem parWrite_tmr {a m : Nat} : (parWrite a m s).tmr = s.tmr := rfl
@[simp] theorem parWrite_tcp {a m : Nat} : (parWrite a m s).tcp = s.tcp := rfl
@[simp] theorem parWrite_lnk {a m : Nat} : (parWrite a m s).lnk = s.lnk := rfl
@[simp] theorem parWrite_hst {a m : Nat} : (parWrite a m s).hst = s.hst := rfl
@[simp] theorem parWrite_seed {a m : Nat} : (parWrite a m s).seed = s.seed := rfl

/-! ## setF -/

@[simp] theorem setF_pending {f : Fld} {x : Nat} : (setF f x s).pending = s.pending := rfl
@[simp] theorem setF_wback {f : Fld} {x : Nat} : (setF f x s).wback = s.wback := rfl
@[simp] theorem setF_live {f : Fld} {x : Nat} : (setF f x s).live = s.live := rfl
@[simp] theorem setF_marks {f : Fld} {x : Nat} : (setF f x s).marks = s.marks := rfl
@[simp] theorem setF_clk {f : Fld} {x : Nat} : (setF f x s).clk = s.clk := rfl
@[simp] theorem setF_sup {f : Fld} {x : Nat} : (setF f x s).sup = s.sup := rfl
@[simp] theorem setF_store {f : Fld} {x : Nat} : (setF f x s).store = s.store := rfl
@[simp] theorem setF_engs {f : Fld} {x : Nat} : (setF f x s).engs = s.engs := rfl
@[simp] theorem setF_rng {f : Fld} {x : Nat} : (setF f x s).rng = s.rng := rfl
@[simp] theorem setF_mem {f : Fld} {x : Nat} : (setF f x s).mem = s.mem := rfl
@[simp] theorem setF_ramErr {f : Fld} {x : Nat} : (setF f x s).ramErr = s.ramErr := rfl
@[simp] theorem setF_flt {f : Fld} {x : Nat} : (setF f x s).flt = s.flt := rfl
@[simp] theorem setF_evq {f : Fld} {x : Nat} : (setF f x s).evq = s.evq := rfl
@[simp] theorem setF_logq {f : Fld} {x : Nat} : (setF f x s).logq = s.logq := rfl
@[simp] theorem setF_pwr {f : Fld} {x : Nat} : (setF f x s).pwr = s.pwr := rfl
@[simp] theorem setF_hub {f : Fld} {x : Nat} : (setF f x s).hub = s.hub := rfl
@[simp] theorem setF_chg {f : Fld} {x : Nat} : (setF f x s).chg = s.chg := rfl
@[simp] theorem setF_pk {f : Fld} {x : Nat} : (setF f x s).pk = s.pk := rfl
@[simp] theorem setF_pkb {f : Fld} {x : Nat} : (setF f x s).pkb = s.pkb := rfl
@[simp] theorem setF_imp {f : Fld} {x : Nat} : (setF f x s).imp = s.imp := rfl
@[simp] theorem setF_thm {f : Fld} {x : Nat} : (setF f x s).thm = s.thm := rfl
@[simp] theorem setF_wdg {f : Fld} {x : Nat} : (setF f x s).wdg = s.wdg := rfl
@[simp] theorem setF_tmr {f : Fld} {x : Nat} : (setF f x s).tmr = s.tmr := rfl
@[simp] theorem setF_tcp {f : Fld} {x : Nat} : (setF f x s).tcp = s.tcp := rfl
@[simp] theorem setF_lnk {f : Fld} {x : Nat} : (setF f x s).lnk = s.lnk := rfl
@[simp] theorem setF_hst {f : Fld} {x : Nat} : (setF f x s).hst = s.hst := rfl
@[simp] theorem setF_seed {f : Fld} {x : Nat} : (setF f x s).seed = s.seed := rfl

/-! ## setB -/

@[simp] theorem setB_pending {f : Fld} {b : Bool} : (setB f b s).pending = s.pending := rfl
@[simp] theorem setB_wback {f : Fld} {b : Bool} : (setB f b s).wback = s.wback := rfl
@[simp] theorem setB_live {f : Fld} {b : Bool} : (setB f b s).live = s.live := rfl
@[simp] theorem setB_marks {f : Fld} {b : Bool} : (setB f b s).marks = s.marks := rfl
@[simp] theorem setB_clk {f : Fld} {b : Bool} : (setB f b s).clk = s.clk := rfl
@[simp] theorem setB_sup {f : Fld} {b : Bool} : (setB f b s).sup = s.sup := rfl
@[simp] theorem setB_store {f : Fld} {b : Bool} : (setB f b s).store = s.store := rfl
@[simp] theorem setB_engs {f : Fld} {b : Bool} : (setB f b s).engs = s.engs := rfl
@[simp] theorem setB_rng {f : Fld} {b : Bool} : (setB f b s).rng = s.rng := rfl
@[simp] theorem setB_mem {f : Fld} {b : Bool} : (setB f b s).mem = s.mem := rfl
@[simp] theorem setB_ramErr {f : Fld} {b : Bool} : (setB f b s).ramErr = s.ramErr := rfl
@[simp] theorem setB_flt {f : Fld} {b : Bool} : (setB f b s).flt = s.flt := rfl
@[simp] theorem setB_evq {f : Fld} {b : Bool} : (setB f b s).evq = s.evq := rfl
@[simp] theorem setB_logq {f : Fld} {b : Bool} : (setB f b s).logq = s.logq := rfl
@[simp] theorem setB_pwr {f : Fld} {b : Bool} : (setB f b s).pwr = s.pwr := rfl
@[simp] theorem setB_hub {f : Fld} {b : Bool} : (setB f b s).hub = s.hub := rfl
@[simp] theorem setB_chg {f : Fld} {b : Bool} : (setB f b s).chg = s.chg := rfl
@[simp] theorem setB_pk {f : Fld} {b : Bool} : (setB f b s).pk = s.pk := rfl
@[simp] theorem setB_pkb {f : Fld} {b : Bool} : (setB f b s).pkb = s.pkb := rfl
@[simp] theorem setB_imp {f : Fld} {b : Bool} : (setB f b s).imp = s.imp := rfl
@[simp] theorem setB_thm {f : Fld} {b : Bool} : (setB f b s).thm = s.thm := rfl
@[simp] theorem setB_wdg {f : Fld} {b : Bool} : (setB f b s).wdg = s.wdg := rfl
@[simp] theorem setB_tmr {f : Fld} {b : Bool} : (setB f b s).tmr = s.tmr := rfl
@[simp] theorem setB_tcp {f : Fld} {b : Bool} : (setB f b s).tcp = s.tcp := rfl
@[simp] theorem setB_lnk {f : Fld} {b : Bool} : (setB f b s).lnk = s.lnk := rfl
@[simp] theorem setB_hst {f : Fld} {b : Bool} : (setB f b s).hst = s.hst := rfl
@[simp] theorem setB_seed {f : Fld} {b : Bool} : (setB f b s).seed = s.seed := rfl

/-! ## incWrap -/

@[simp] theorem incWrap_pending {f : Fld} : (incWrap f s).pending = s.pending := rfl
@[simp] theorem incWrap_wback {f : Fld} : (incWrap f s).wback = s.wback := rfl
@[simp] theorem incWrap_live {f : Fld} : (incWrap f s).live = s.live := rfl
@[simp] theorem incWrap_marks {f : Fld} : (incWrap f s).marks = s.marks := rfl
@[simp] theorem incWrap_clk {f : Fld} : (incWrap f s).clk = s.clk := rfl
@[simp] theorem incWrap_sup {f : Fld} : (incWrap f s).sup = s.sup := rfl
@[simp] theorem incWrap_store {f : Fld} : (incWrap f s).store = s.store := rfl
@[simp] theorem incWrap_engs {f : Fld} : (incWrap f s).engs = s.engs := rfl
@[simp] theorem incWrap_rng {f : Fld} : (incWrap f s).rng = s.rng := rfl
@[simp] theorem incWrap_mem {f : Fld} : (incWrap f s).mem = s.mem := rfl
@[simp] theorem incWrap_ramErr {f : Fld} : (incWrap f s).ramErr = s.ramErr := rfl
@[simp] theorem incWrap_flt {f : Fld} : (incWrap f s).flt = s.flt := rfl
@[simp] theorem incWrap_evq {f : Fld} : (incWrap f s).evq = s.evq := rfl
@[simp] theorem incWrap_logq {f : Fld} : (incWrap f s).logq = s.logq := rfl
@[simp] theorem incWrap_pwr {f : Fld} : (incWrap f s).pwr = s.pwr := rfl
@[simp] theorem incWrap_hub {f : Fld} : (incWrap f s).hub = s.hub := rfl
@[simp] theorem incWrap_chg {f : Fld} : (incWrap f s).chg = s.chg := rfl
@[simp] theorem incWrap_pk {f : Fld} : (incWrap f s).pk = s.pk := rfl
@[simp] theorem incWrap_pkb {f : Fld} : (incWrap f s).pkb = s.pkb := rfl
@[simp] theorem incWrap_imp {f : Fld} : (incWrap f s).imp = s.imp := rfl
@[simp] theorem incWrap_thm {f : Fld} : (incWrap f s).thm = s.thm := rfl
@[simp] theorem incWrap_wdg {f : Fld} : (incWrap f s).wdg = s.wdg := rfl
@[simp] theorem incWrap_tmr {f : Fld} : (incWrap f s).tmr = s.tmr := rfl
@[simp] theorem incWrap_tcp {f : Fld} : (incWrap f s).tcp = s.tcp := rfl
@[simp] theorem incWrap_lnk {f : Fld} : (incWrap f s).lnk = s.lnk := rfl
@[simp] theorem incWrap_hst {f : Fld} : (incWrap f s).hst = s.hst := rfl
@[simp] theorem incWrap_seed {f : Fld} : (incWrap f s).seed = s.seed := rfl

/-! ## notify -/

@[simp] theorem notify_pending {b : Nat} : (notify b s).pending = s.pending := rfl
@[simp] theorem notify_wback {b : Nat} : (notify b s).wback = s.wback := rfl
@[simp] theorem notify_live {b : Nat} : (notify b s).live = s.live := rfl
@[simp] theorem notify_marks {b : Nat} : (notify b s).marks = s.marks := rfl
@[simp] theorem notify_clk {b : Nat} : (notify b s).clk = s.clk := rfl
@[simp] theorem notify_sup {b : Nat} : (notify b s).sup = s.sup := rfl
@[simp] theorem notify_store {b : Nat} : (notify b s).store = s.store := rfl
@[simp] theorem notify_engs {b : Nat} : (notify b s).engs = s.engs := rfl
@[simp] theorem notify_rng {b : Nat} : (notify b s).rng = s.rng := rfl
@[simp] theorem notify_mem {b : Nat} : (notify b s).mem = s.mem := rfl
@[simp] theorem notify_ramErr {b : Nat} : (notify b s).ramErr = s.ramErr := rfl
@[simp] theorem notify_flt {b : Nat} : (notify b s).flt = s.flt := rfl
@[simp] theorem notify_evq {b : Nat} : (notify b s).evq = s.evq := rfl
@[simp] theorem notify_logq {b : Nat} : (notify b s).logq = s.logq := rfl
@[simp] theorem notify_pwr {b : Nat} : (notify b s).pwr = s.pwr := rfl
@[simp] theorem notify_hub {b : Nat} : (notify b s).hub = s.hub := rfl
@[simp] theorem notify_chg {b : Nat} : (notify b s).chg = s.chg := rfl
@[simp] theorem notify_pk {b : Nat} : (notify b s).pk = s.pk := rfl
@[simp] theorem notify_pkb {b : Nat} : (notify b s).pkb = s.pkb := rfl
@[simp] theorem notify_imp {b : Nat} : (notify b s).imp = s.imp := rfl
@[simp] theorem notify_thm {b : Nat} : (notify b s).thm = s.thm := rfl
@[simp] theorem notify_wdg {b : Nat} : (notify b s).wdg = s.wdg := rfl
@[simp] theorem notify_tmr {b : Nat} : (notify b s).tmr = s.tmr := rfl
@[simp] theorem notify_tcp {b : Nat} : (notify b s).tcp = s.tcp := rfl
@[simp] theorem notify_lnk {b : Nat} : (notify b s).lnk = s.lnk := rfl
@[simp] theorem notify_hst {b : Nat} : (notify b s).hst = s.hst := rfl
@[simp] theorem notify_seed {b : Nat} : (notify b s).seed = s.seed := rfl

/-! ## lwr -/

@[simp] theorem lwr_pending {a v : Nat} : (lwr a v s).pending = s.pending := rfl
@[simp] theorem lwr_wback {a v : Nat} : (lwr a v s).wback = s.wback := rfl
@[simp] theorem lwr_regs {a v : Nat} : (lwr a v s).regs = s.regs := rfl
@[simp] theorem lwr_marks {a v : Nat} : (lwr a v s).marks = s.marks := rfl
@[simp] theorem lwr_clk {a v : Nat} : (lwr a v s).clk = s.clk := rfl
@[simp] theorem lwr_sup {a v : Nat} : (lwr a v s).sup = s.sup := rfl
@[simp] theorem lwr_store {a v : Nat} : (lwr a v s).store = s.store := rfl
@[simp] theorem lwr_engs {a v : Nat} : (lwr a v s).engs = s.engs := rfl
@[simp] theorem lwr_rng {a v : Nat} : (lwr a v s).rng = s.rng := rfl
@[simp] theorem lwr_mem {a v : Nat} : (lwr a v s).mem = s.mem := rfl
@[simp] theorem lwr_ramErr {a v : Nat} : (lwr a v s).ramErr = s.ramErr := rfl
@[simp] theorem lwr_flt {a v : Nat} : (lwr a v s).flt = s.flt := rfl
@[simp] theorem lwr_evq {a v : Nat} : (lwr a v s).evq = s.evq := rfl
@[simp] theorem lwr_logq {a v : Nat} : (lwr a v s).logq = s.logq := rfl
@[simp] theorem lwr_pwr {a v : Nat} : (lwr a v s).pwr = s.pwr := rfl
@[simp] theorem lwr_hub {a v : Nat} : (lwr a v s).hub = s.hub := rfl
@[simp] theorem lwr_chg {a v : Nat} : (lwr a v s).chg = s.chg := rfl
@[simp] theorem lwr_pk {a v : Nat} : (lwr a v s).pk = s.pk := rfl
@[simp] theorem lwr_pkb {a v : Nat} : (lwr a v s).pkb = s.pkb := rfl
@[simp] theorem lwr_imp {a v : Nat} : (lwr a v s).imp = s.imp := rfl
@[simp] theorem lwr_thm {a v : Nat} : (lwr a v s).thm = s.thm := rfl
@[simp] theorem lwr_wdg {a v : Nat} : (lwr a v s).wdg = s.wdg := rfl
@[simp] theorem lwr_tmr {a v : Nat} : (lwr a v s).tmr = s.tmr := rfl
@[simp] theorem lwr_tcp {a v : Nat} : (lwr a v s).tcp = s.tcp := rfl
@[simp] theorem lwr_lnk {a v : Nat} : (lwr a v s).lnk = s.lnk := rfl
@[simp] theorem lwr_hst {a v : Nat} : (lwr a v s).hst = s.hst := rfl
@[simp] theorem lwr_seed {a v : Nat} : (lwr a v s).seed = s.seed := rfl

/-! ## lsetF -/

@[simp] theorem lsetF_pending {f : Fld} {x : Nat} : (lsetF f x s).pending = s.pending := rfl
@[simp] theorem lsetF_wback {f : Fld} {x : Nat} : (lsetF f x s).wback = s.wback := rfl
@[simp] theorem lsetF_regs {f : Fld} {x : Nat} : (lsetF f x s).regs = s.regs := rfl
@[simp] theorem lsetF_marks {f : Fld} {x : Nat} : (lsetF f x s).marks = s.marks := rfl
@[simp] theorem lsetF_clk {f : Fld} {x : Nat} : (lsetF f x s).clk = s.clk := rfl
@[simp] theorem lsetF_sup {f : Fld} {x : Nat} : (lsetF f x s).sup = s.sup := rfl
@[simp] theorem lsetF_store {f : Fld} {x : Nat} : (lsetF f x s).store = s.store := rfl
@[simp] theorem lsetF_engs {f : Fld} {x : Nat} : (lsetF f x s).engs = s.engs := rfl
@[simp] theorem lsetF_rng {f : Fld} {x : Nat} : (lsetF f x s).rng = s.rng := rfl
@[simp] theorem lsetF_mem {f : Fld} {x : Nat} : (lsetF f x s).mem = s.mem := rfl
@[simp] theorem lsetF_ramErr {f : Fld} {x : Nat} : (lsetF f x s).ramErr = s.ramErr := rfl
@[simp] theorem lsetF_flt {f : Fld} {x : Nat} : (lsetF f x s).flt = s.flt := rfl
@[simp] theorem lsetF_evq {f : Fld} {x : Nat} : (lsetF f x s).evq = s.evq := rfl
@[simp] theorem lsetF_logq {f : Fld} {x : Nat} : (lsetF f x s).logq = s.logq := rfl
@[simp] theorem lsetF_pwr {f : Fld} {x : Nat} : (lsetF f x s).pwr = s.pwr := rfl
@[simp] theorem lsetF_hub {f : Fld} {x : Nat} : (lsetF f x s).hub = s.hub := rfl
@[simp] theorem lsetF_chg {f : Fld} {x : Nat} : (lsetF f x s).chg = s.chg := rfl
@[simp] theorem lsetF_pk {f : Fld} {x : Nat} : (lsetF f x s).pk = s.pk := rfl
@[simp] theorem lsetF_pkb {f : Fld} {x : Nat} : (lsetF f x s).pkb = s.pkb := rfl
@[simp] theorem lsetF_imp {f : Fld} {x : Nat} : (lsetF f x s).imp = s.imp := rfl
@[simp] theorem lsetF_thm {f : Fld} {x : Nat} : (lsetF f x s).thm = s.thm := rfl
@[simp] theorem lsetF_wdg {f : Fld} {x : Nat} : (lsetF f x s).wdg = s.wdg := rfl
@[simp] theorem lsetF_tmr {f : Fld} {x : Nat} : (lsetF f x s).tmr = s.tmr := rfl
@[simp] theorem lsetF_tcp {f : Fld} {x : Nat} : (lsetF f x s).tcp = s.tcp := rfl
@[simp] theorem lsetF_lnk {f : Fld} {x : Nat} : (lsetF f x s).lnk = s.lnk := rfl
@[simp] theorem lsetF_hst {f : Fld} {x : Nat} : (lsetF f x s).hst = s.hst := rfl
@[simp] theorem lsetF_seed {f : Fld} {x : Nat} : (lsetF f x s).seed = s.seed := rfl

/-! ## mark -/

@[simp] theorem mark_pending {a : Nat} {h : Bool} : (mark a h s).pending = s.pending := rfl
@[simp] theorem mark_wback {a : Nat} {h : Bool} : (mark a h s).wback = s.wback := rfl
@[simp] theorem mark_regs {a : Nat} {h : Bool} : (mark a h s).regs = s.regs := rfl
@[simp] theorem mark_live {a : Nat} {h : Bool} : (mark a h s).live = s.live := rfl
@[simp] theorem mark_clk {a : Nat} {h : Bool} : (mark a h s).clk = s.clk := rfl
@[simp] theorem mark_sup {a : Nat} {h : Bool} : (mark a h s).sup = s.sup := rfl
@[simp] theorem mark_store {a : Nat} {h : Bool} : (mark a h s).store = s.store := rfl
@[simp] theorem mark_engs {a : Nat} {h : Bool} : (mark a h s).engs = s.engs := rfl
@[simp] theorem mark_rng {a : Nat} {h : Bool} : (mark a h s).rng = s.rng := rfl
@[simp] theorem mark_mem {a : Nat} {h : Bool} : (mark a h s).mem = s.mem := rfl
@[simp] theorem mark_ramErr {a : Nat} {h : Bool} : (mark a h s).ramErr = s.ramErr := rfl
@[simp] theorem mark_flt {a : Nat} {h : Bool} : (mark a h s).flt = s.flt := rfl
@[simp] theorem mark_evq {a : Nat} {h : Bool} : (mark a h s).evq = s.evq := rfl
@[simp] theorem mark_logq {a : Nat} {h : Bool} : (mark a h s).logq = s.logq := rfl
@[simp] theorem mark_pwr {a : Nat} {h : Bool} : (mark a h s).pwr = s.pwr := rfl
@[simp] theorem mark_hub {a : Nat} {h : Bool} : (mark a h s).hub = s.hub := rfl
@[simp] theorem mark_chg {a : Nat} {h : Bool} : (mark a h s).chg = s.chg := rfl
@[simp] theorem mark_pk {a : Nat} {h : Bool} : (mark a h s).pk = s.pk := rfl
@[simp] theorem mark_pkb {a : Nat} {h : Bool} : (mark a h s).pkb = s.pkb := rfl
@[simp] theorem mark_imp {a : Nat} {h : Bool} : (mark a h s).imp = s.imp := rfl
@[simp] theorem mark_thm {a : Nat} {h : Bool} : (mark a h s).thm = s.thm := rfl
@[simp] theorem mark_wdg {a : Nat} {h : Bool} : (mark a h s).wdg = s.wdg := rfl
@[simp] theorem mark_tmr {a : Nat} {h : Bool} : (mark a h s).tmr = s.tmr := rfl
@[simp] theorem mark_tcp {a : Nat} {h : Bool} : (mark a h s).tcp = s.tcp := rfl
@[simp] theorem mark_lnk {a : Nat} {h : Bool} : (mark a h s).lnk = s.lnk := rfl
@[simp] theorem mark_hst {a : Nat} {h : Bool} : (mark a h s).hst = s.hst := rfl
@[simp] theorem mark_seed {a : Nat} {h : Bool} : (mark a h s).seed = s.seed := rfl

/-! ## raise' -/

@[simp] theorem raise'_pending {n c d : Nat} {u : Option Nat} : (raise' n c u d s).pending = s.pending := rfl
@[simp] theorem raise'_regs {n c d : Nat} {u : Option Nat} : (raise' n c u d s).regs = s.regs := rfl
@[simp] theorem raise'_live {n c d : Nat} {u : Option Nat} : (raise' n c u d s).live = s.live := rfl
@[simp] theorem raise'_marks {n c d : Nat} {u : Option Nat} : (raise' n c u d s).marks = s.marks := rfl
@[simp] theorem raise'_clk {n c d : Nat} {u : Option Nat} : (raise' n c u d s).clk = s.clk := rfl
@[simp] theorem raise'_sup {n c d : Nat} {u : Option Nat} : (raise' n c u d s).sup = s.sup := rfl
@[simp] theorem raise'_store {n c d : Nat} {u : Option Nat} : (raise' n c u d s).store = s.store := rfl
@[simp] theorem raise'_engs {n c d : Nat} {u : Option Nat} : (raise' n c u d s).engs = s.engs := rfl
@[simp] theorem raise'_rng {n c d : Nat} {u : Option Nat} : (raise' n c u d s).rng = s.rng := rfl
@[simp] theorem raise'_mem {n c d : Nat} {u : Option Nat} : (raise' n c u d s).mem = s.mem := rfl
@[simp] theorem raise'_ramErr {n c d : Nat} {u : Option Nat} : (raise' n c u d s).ramErr = s.ramErr := rfl
@[simp] theorem raise'_flt {n c d : Nat} {u : Option Nat} : (raise' n c u d s).flt = s.flt := rfl
@[simp] theorem raise'_logq {n c d : Nat} {u : Option Nat} : (raise' n c u d s).logq = s.logq := rfl
@[simp] theorem raise'_pwr {n c d : Nat} {u : Option Nat} : (raise' n c u d s).pwr = s.pwr := rfl
@[simp] theorem raise'_hub {n c d : Nat} {u : Option Nat} : (raise' n c u d s).hub = s.hub := rfl
@[simp] theorem raise'_chg {n c d : Nat} {u : Option Nat} : (raise' n c u d s).chg = s.chg := rfl
@[simp] theorem raise'_pk {n c d : Nat} {u : Option Nat} : (raise' n c u d s).pk = s.pk := rfl
@[simp] theorem raise'_pkb {n c d : Nat} {u : Option Nat} : (raise' n c u d s).pkb = s.pkb := rfl
@[simp] theorem raise'_imp {n c d : Nat} {u : Option Nat} : (raise' n c u d s).imp = s.imp := rfl
@[simp] theorem raise'_thm {n c d : Nat} {u : Option Nat} : (raise' n c u d s).thm = s.thm := rfl
@[simp] theorem raise'_wdg {n c d : Nat} {u : Option Nat} : (raise' n c u d s).wdg = s.wdg := rfl
@[simp] theorem raise'_tmr {n c d : Nat} {u : Option Nat} : (raise' n c u d s).tmr = s.tmr := rfl
@[simp] theorem raise'_tcp {n c d : Nat} {u : Option Nat} : (raise' n c u d s).tcp = s.tcp := rfl
@[simp] theorem raise'_lnk {n c d : Nat} {u : Option Nat} : (raise' n c u d s).lnk = s.lnk := rfl
@[simp] theorem raise'_hst {n c d : Nat} {u : Option Nat} : (raise' n c u d s).hst = s.hst := rfl
@[simp] theorem raise'_seed {n c d : Nat} {u : Option Nat} : (raise' n c u d s).seed = s.seed := rfl

/-! ## logPut -/

@[simp] theorem logPut_pending {t c d : Nat} : (logPut t c d s).pending = s.pending := rfl
@[simp] theorem logPut_wback {t c d : Nat} : (logPut t c d s).wback = s.wback := rfl
@[simp] theorem logPut_regs {t c d : Nat} : (logPut t c d s).regs = s.regs := rfl
@[simp] theorem logPut_live {t c d : Nat} : (logPut t c d s).live = s.live := rfl
@[simp] theorem logPut_marks {t c d : Nat} : (logPut t c d s).marks = s.marks := rfl
@[simp] theorem logPut_clk {t c d : Nat} : (logPut t c d s).clk = s.clk := rfl
@[simp] theorem logPut_sup {t c d : Nat} : (logPut t c d s).sup = s.sup := rfl
@[simp] theorem logPut_store {t c d : Nat} : (logPut t c d s).store = s.store := rfl
@[simp] theorem logPut_engs {t c d : Nat} : (logPut t c d s).engs = s.engs := rfl
@[simp] theorem logPut_rng {t c d : Nat} : (logPut t c d s).rng = s.rng := rfl
@[simp] theorem logPut_mem {t c d : Nat} : (logPut t c d s).mem = s.mem := rfl
@[simp] theorem logPut_ramErr {t c d : Nat} : (logPut t c d s).ramErr = s.ramErr := rfl
@[simp] theorem logPut_flt {t c d : Nat} : (logPut t c d s).flt = s.flt := rfl
@[simp] theorem logPut_evq {t c d : Nat} : (logPut t c d s).evq = s.evq := rfl
@[simp] theorem logPut_pwr {t c d : Nat} : (logPut t c d s).pwr = s.pwr := rfl
@[simp] theorem logPut_hub {t c d : Nat} : (logPut t c d s).hub = s.hub := rfl
@[simp] theorem logPut_chg {t c d : Nat} : (logPut t c d s).chg = s.chg := rfl
@[simp] theorem logPut_pk {t c d : Nat} : (logPut t c d s).pk = s.pk := rfl
@[simp] theorem logPut_pkb {t c d : Nat} : (logPut t c d s).pkb = s.pkb := rfl
@[simp] theorem logPut_imp {t c d : Nat} : (logPut t c d s).imp = s.imp := rfl
@[simp] theorem logPut_thm {t c d : Nat} : (logPut t c d s).thm = s.thm := rfl
@[simp] theorem logPut_wdg {t c d : Nat} : (logPut t c d s).wdg = s.wdg := rfl
@[simp] theorem logPut_tmr {t c d : Nat} : (logPut t c d s).tmr = s.tmr := rfl
@[simp] theorem logPut_tcp {t c d : Nat} : (logPut t c d s).tcp = s.tcp := rfl
@[simp] theorem logPut_lnk {t c d : Nat} : (logPut t c d s).lnk = s.lnk := rfl
@[simp] theorem logPut_hst {t c d : Nat} : (logPut t c d s).hst = s.hst := rfl
@[simp] theorem logPut_seed {t c d : Nat} : (logPut t c d s).seed = s.seed := rfl

/-! ## useSeed -/

@[simp] theorem useSeed_pending : (useSeed s).pending = s.pending := rfl
@[simp] theorem useSeed_wback : (useSeed s).wback = s.wback := rfl
@[simp] theorem useSeed_regs : (useSeed s).regs = s.regs := rfl
@[simp] theorem useSeed_live : (useSeed s).live = s.live := rfl
@[simp] theorem useSeed_marks : (useSeed s).marks = s.marks := rfl
@[simp] theorem useSeed_clk : (useSeed s).clk = s.clk := rfl
@[simp] theorem useSeed_sup : (useSeed s).sup = s.sup := rfl
@[simp] theorem useSeed_store : (useSeed s).store = s.store := rfl
@[simp] theorem useSeed_engs : (useSeed s).engs = s.engs := rfl
@[simp] theorem useSeed_rng : (useSeed s).rng = s.rng := rfl
@[simp] theorem useSeed_mem : (useSeed s).mem = s.mem := rfl
@[simp] theorem useSeed_ramErr : (useSeed s).ramErr = s.ramErr := rfl
@[simp] theorem useSeed_flt : (useSeed s).flt = s.flt := rfl
@[simp] theorem useSeed_evq : (useSeed s).evq = s.evq := rfl
@[simp] theorem useSeed_logq : (useSeed s).logq = s.logq := rfl
@[simp] theorem useSeed_pwr : (useSeed s).pwr = s.pwr := rfl
@[simp] theorem useSeed_hub : (useSeed s).hub = s.hub := rfl
@[simp] theorem useSeed_chg : (useSeed s).chg = s.chg := rfl
@[simp] theorem useSeed_pk : (useSeed s).pk = s.pk := rfl
@[simp] theorem useSeed_pkb : (useSeed s).pkb = s.pkb := rfl
@[simp] theorem useSeed_imp : (useSeed s).imp = s.imp := rfl
@[simp] theorem useSeed_thm : (useSeed s).thm = s.thm := rfl
@[simp] theorem useSeed_wdg : (useSeed s).wdg = s.wdg := rfl
@[simp] theorem useSeed_tmr : (useSeed s).tmr = s.tmr := rfl
@[simp] theorem useSeed_tcp : (useSeed s).tcp = s.tcp := rfl
@[simp] theorem useSeed_lnk : (useSeed s).lnk = s.lnk := rfl
@[simp] theorem useSeed_hst : (useSeed s).hst = s.hst := rfl

/-! ## modSup -/

@[simp] theorem modSup_pending {f : Sup → Sup} : (modSup f s).pending = s.pending := rfl
@[simp] theorem modSup_wback {f : Sup → Sup} : (modSup f s).wback = s.wback := rfl
@[simp] theorem modSup_regs {f : Sup → Sup} : (modSup f s).regs = s.regs := rfl
@[simp] theorem modSup_live {f : Sup → Sup} : (modSup f s).live = s.live := rfl
@[simp] theorem modSup_marks {f : Sup → Sup} : (modSup f s).marks = s.marks := rfl
@[simp] theorem modSup_clk {f : Sup → Sup} : (modSup f s).clk = s.clk := rfl
@[simp] theorem modSup_store {f : Sup → Sup} : (modSup f s).store = s.store := rfl
@[simp] theorem modSup_engs {f : Sup → Sup} : (modSup f s).engs = s.engs := rfl
@[simp] theorem modSup_rng {f : Sup → Sup} : (modSup f s).rng = s.rng := rfl
@[simp] theorem modSup_mem {f : Sup → Sup} : (modSup f s).mem = s.mem := rfl
@[simp] theorem modSup_ramErr {f : Sup → Sup} : (modSup f s).ramErr = s.ramErr := rfl
@[simp] theorem modSup_flt {f : Sup → Sup} : (modSup f s).flt = s.flt := rfl
@[simp] theorem modSup_evq {f : Sup → Sup} : (modSup f s).evq = s.evq := rfl
@[simp] theorem modSup_logq {f : Sup → Sup} : (modSup f s).logq = s.logq := rfl
@[simp] theorem modSup_pwr {f : Sup → Sup} : (modSup f s).pwr = s.pwr := rfl
@[simp] theorem modSup_hub {f : Sup → Sup} : (modSup f s).hub = s.hub := rfl
@[simp] theorem modSup_chg {f : Sup → Sup} : (modSup f s).chg = s.chg := rfl
@[simp] theorem modSup_pk {f : Sup → Sup} : (modSup f s).pk = s.pk := rfl
@[simp] theorem modSup_pkb {f : Sup → Sup} : (modSup f s).pkb = s.pkb := rfl
@[simp] theorem modSup_imp {f : Sup → Sup} : (modSup f s).imp = s.imp := rfl
@[simp] theorem modSup_thm {f : Sup → Sup} : (modSup f s).thm = s.thm := rfl
@[simp] theorem modSup_wdg {f : Sup → Sup} : (modSup f s).wdg = s.wdg := rfl
@[simp] theorem modSup_tmr {f : Sup → Sup} : (modSup f s).tmr = s.tmr := rfl
@[simp] theorem modSup_tcp {f : Sup → Sup} : (modSup f s).tcp = s.tcp := rfl
@[simp] theorem modSup_lnk {f : Sup → Sup} : (modSup f s).lnk = s.lnk := rfl
@[simp] theorem modSup_hst {f : Sup → Sup} : (modSup f s).hst = s.hst := rfl
@[simp] theorem modSup_seed {f : Sup → Sup} : (modSup f s).seed = s.seed := rfl

/-! ## modStore -/

@[simp] theorem modStore_pending {f : Store → Store} : (modStore f s).pending = s.pending := rfl
@[simp] theorem modStore_wback {f : Store → Store} : (modStore f s).wback = s.wback := rfl
@[simp] theorem modStore_regs {f : Store → Store} : (modStore f s).regs = s.regs := rfl
@[simp] theorem modStore_live {f : Store → Store} : (modStore f s).live = s.live := rfl
@[simp] theorem modStore_marks {f : Store → Store} : (modStore f s).marks = s.marks := rfl
@[simp] theorem modStore_clk {f : Store → Store} : (modStore f s).clk = s.clk := rfl
@[simp] theorem modStore_sup {f : Store → Store} : (modStore f s).sup = s.sup := rfl
@[simp] theorem modStore_engs {f : Store → Store} : (modStore f s).engs = s.engs := rfl
@[simp] theorem modStore_rng {f : Store → Store} : (modStore f s).rng = s.rng := rfl
@[simp] theorem modStore_mem {f : Store → Store} : (modStore f s).mem = s.mem := rfl
@[simp] theorem modStore_ramErr {f : Store → Store} : (modStore f s).ramErr = s.ramErr := rfl
@[simp] theorem modStore_flt {f : Store → Store} : (modStore f s).flt = s.flt := rfl
@[simp] theorem modStore_evq {f : Store → Store} : (modStore f s).evq = s.evq := rfl
@[simp] theorem modStore_logq {f : Store → Store} : (modStore f s).logq = s.logq := rfl
@[simp] theorem modStore_pwr {f : Store → Store} : (modStore f s).pwr = s.pwr := rfl
@[simp] theorem modStore_hub {f : Store → Store} : (modStore f s).hub = s.hub := rfl
@[simp] theorem modStore_chg {f : Store → Store} : (modStore f s).chg = s.chg := rfl
@[simp] theorem modStore_pk {f : Store → Store} : (modStore f s).pk = s.pk := rfl
@[simp] theorem modStore_pkb {f : Store → Store} : (modStore f s).pkb = s.pkb := rfl
@[simp] theorem modStore_imp {f : Store → Store} : (modStore f s).imp = s.imp := rfl
@[simp] theorem modStore_thm {f : Store → Store} : (modStore f s).thm = s.thm := rfl
@[simp] theorem modStore_wdg {f : Store → Store} : (modStore f s).wdg = s.wdg := rfl
@[simp] theorem modStore_tmr {f : Store → Store} : (modStore f s).tmr = s.tmr := rfl
@[simp] theorem modStore_tcp {f : Store → Store} : (modStore f s).tcp = s.tcp := rfl
@[simp] theorem modStore_lnk {f : Store → Store} : (modStore f s).lnk = s.lnk := rfl
@[simp] theorem modStore_hst {f : Store → Store} : (modStore f s).hst = s.hst := rfl
@[simp] theorem modStore_seed {f : Store → Store} : (modStore f s).seed = s.seed := rfl

/-! ## modFlt -/

@[simp] theorem modFlt_pending {f : Flt → Flt} : (modFlt f s).pending = s.pending := rfl
@[simp] theorem modFlt_wback {f : Flt → Flt} : (modFlt f s).wback = s.wback := rfl
@[simp] theorem modFlt_regs {f : Flt → Flt} : (modFlt f s).regs = s.regs := rfl
@[simp] theorem modFlt_live {f : Flt → Flt} : (modFlt f s).live = s.live := rfl
@[simp] theorem modFlt_marks {f : Flt → Flt} : (modFlt f s).marks = s.marks := rfl
@[simp] theorem modFlt_clk {f : Flt → Flt} : (modFlt f s).clk = s.clk := rfl
@[simp] theorem modFlt_sup {f : Flt → Flt} : (modFlt f s).sup = s.sup := rfl
@[simp] theorem modFlt_store {f : Flt → Flt} : (modFlt f s).store = s.store := rfl
@[simp] theorem modFlt_engs {f : Flt → Flt} : (modFlt f s).engs = s.engs := rfl
@[simp] theorem modFlt_rng {f : Flt → Flt} : (modFlt f s).rng = s.rng := rfl
@[simp] theorem modFlt_mem {f : Flt → Flt} : (modFlt f s).mem = s.mem := rfl
@[simp] theorem modFlt_ramErr {f : Flt → Flt} : (modFlt f s).ramErr = s.ramErr := rfl
@[simp] theorem modFlt_evq {f : Flt → Flt} : (modFlt f s).evq = s.evq := rfl
@[simp] theorem modFlt_logq {f : Flt → Flt} : (modFlt f s).logq = s.logq := rfl
@[simp] theorem modFlt_pwr {f : Flt → Flt} : (modFlt f s).pwr = s.pwr := rfl
@[simp] theorem modFlt_hub {f : Flt → Flt} : (modFlt f s).hub = s.hub := rfl
@[simp] theorem modFlt_chg {f : Flt → Flt} : (modFlt f s).chg = s.chg := rfl
@[simp] theorem modFlt_pk {f : Flt → Flt} : (modFlt f s).pk = s.pk := rfl
@[simp] theorem modFlt_pkb {f : Flt → Flt} : (modFlt f s).pkb = s.pkb := rfl
@[simp] theorem modFlt_imp {f : Flt → Flt} : (modFlt f s).imp = s.imp := rfl
@[simp] theorem modFlt_thm {f : Flt → Flt} : (modFlt f s).thm = s.thm := rfl
@[simp] theorem modFlt_wdg {f : Flt → Flt} : (modFlt f s).wdg = s.wdg := rfl
@[simp] theorem modFlt_tmr {f : Flt → Flt} : (modFlt f s).tmr = s.tmr := rfl
@[simp] theorem modFlt_tcp {f : Flt → Flt} : (modFlt f s).tcp = s.tcp := rfl
@[simp] theorem modFlt_lnk {f : Flt → Flt} : (modFlt f s).lnk = s.lnk := rfl
@[simp] theorem modFlt_hst {f : Flt → Flt} : (modFlt f s).hst = s.hst := rfl
@[simp] theorem modFlt_seed {f : Flt → Flt} : (modFlt f s).seed = s.seed := rfl

/-! ## modChg -/

@[simp] theorem modChg_pending {f : Chg → Chg} : (modChg f s).pending = s.pending := rfl
@[simp] theorem modChg_wback {f : Chg → Chg} : (modChg f s).wback = s.wback := rfl
@[simp] theorem modChg_regs {f : Chg → Chg} : (modChg f s).regs = s.regs := rfl
@[simp] theorem modChg_live {f : Chg → Chg} : (modChg f s).live = s.live := rfl
@[simp] theorem modChg_marks {f : Chg → Chg} : (modChg f s).marks = s.marks := rfl
@[simp] theorem modChg_clk {f : Chg → Chg} : (modChg f s).clk = s.clk := rfl
@[simp] theorem modChg_sup {f : Chg → Chg} : (modChg f s).sup = s.sup := rfl
@[simp] theorem modChg_store {f : Chg → Chg} : (modChg f s).store = s.store := rfl
@[simp] theorem modChg_engs {f : Chg → Chg} : (modChg f s).engs = s.engs := rfl
@[simp] theorem modChg_rng {f : Chg → Chg} : (modChg f s).rng = s.rng := rfl
@[simp] theorem modChg_mem {f : Chg → Chg} : (modChg f s).mem = s.mem := rfl
@[simp] theorem modChg_ramErr {f : Chg → Chg} : (modChg f s).ramErr = s.ramErr := rfl
@[simp] theorem modChg_flt {f : Chg → Chg} : (modChg f s).flt = s.flt := rfl
@[simp] theorem modChg_evq {f : Chg → Chg} : (modChg f s).evq = s.evq := rfl
@[simp] theorem modChg_logq {f : Chg → Chg} : (modChg f s).logq = s.logq := rfl
@[simp] theorem modChg_pwr {f : Chg → Chg} : (modChg f s).pwr = s.pwr := rfl
@[simp] theorem modChg_hub {f : Chg → Chg} : (modChg f s).hub = s.hub := rfl
@[simp] theorem modChg_pk {f : Chg → Chg} : (modChg f s).pk = s.pk := rfl
@[simp] theorem modChg_pkb {f : Chg → Chg} : (modChg f s).pkb = s.pkb := rfl
@[simp] theorem modChg_imp {f : Chg → Chg} : (modChg f s).imp = s.imp := rfl
@[simp] theorem modChg_thm {f : Chg → Chg} : (modChg f s).thm = s.thm := rfl
@[simp] theorem modChg_wdg {f : Chg → Chg} : (modChg f s).wdg = s.wdg := rfl
@[simp] theorem modChg_tmr {f : Chg → Chg} : (modChg f s).tmr = s.tmr := rfl
@[simp] theorem modChg_tcp {f : Chg → Chg} : (modChg f s).tcp = s.tcp := rfl
@[simp] theorem modChg_lnk {f : Chg → Chg} : (modChg f s).lnk = s.lnk := rfl
@[simp] theorem modChg_hst {f : Chg → Chg} : (modChg f s).hst = s.hst := rfl
@[simp] theorem modChg_seed {f : Chg → Chg} : (modChg f s).seed = s.seed := rfl

/-! ## modTcp -/

@[simp] theorem modTcp_pending {f : Tcp → Tcp} : (modTcp f s).pending = s.pending := rfl
@[simp] theorem modTcp_wback {f : Tcp → Tcp} : (modTcp f s).wback = s.wback := rfl
@[simp] theorem modTcp_regs {f : Tcp → Tcp} : (modTcp f s).regs = s.regs := rfl
@[simp] theorem modTcp_live {f : Tcp → Tcp} : (modTcp f s).live = s.live := rfl
@[simp] theorem modTcp_marks {f : Tcp → Tcp} : (modTcp f s).marks = s.marks := rfl
@[simp] theorem modTcp_clk {f : Tcp → Tcp} : (modTcp f s).clk = s.clk := rfl
@[simp] theorem modTcp_sup {f : Tcp → Tcp} : (modTcp f s).sup = s.sup := rfl
@[simp] theorem modTcp_store {f : Tcp → Tcp} : (modTcp f s).store = s.store := rfl
@[simp] theorem modTcp_engs {f : Tcp → Tcp} : (modTcp f s).engs = s.engs := rfl
@[simp] theorem modTcp_rng {f : Tcp → Tcp} : (modTcp f s).rng = s.rng := rfl
@[simp] theorem modTcp_mem {f : Tcp → Tcp} : (modTcp f s).mem = s.mem := rfl
@[simp] theorem modTcp_ramErr {f : Tcp → Tcp} : (modTcp f s).ramErr = s.ramErr := rfl
@[simp] theorem modTcp_flt {f : Tcp → Tcp} : (modTcp f s).flt = s.flt := rfl
@[simp] theorem modTcp_evq {f : Tcp → Tcp} : (modTcp f s).evq = s.evq := rfl
@[simp] theorem modTcp_logq {f : Tcp → Tcp} : (modTcp f s).logq = s.logq := rfl
@[simp] theorem modTcp_pwr {f : Tcp → Tcp} : (modTcp f s).pwr = s.pwr := rfl
@[simp] theorem modTcp_hub {f : Tcp → Tcp} : (modTcp f s).hub = s.hub := rfl
@[simp] theorem modTcp_chg {f : Tcp → Tcp} : (modTcp f s).chg = s.chg := rfl
@[simp] theorem modTcp_pk {f : Tcp → Tcp} : (modTcp f s).pk = s.pk := rfl
@[simp] theorem modTcp_pkb {f : Tcp → Tcp} : (modTcp f s).pkb = s.pkb := rfl
@[simp] theorem modTcp_imp {f : Tcp → Tcp} : (modTcp f s).imp = s.imp := rfl
@[simp] theorem modTcp_thm {f : Tcp → Tcp} : (modTcp f s).thm = s.thm := rfl
@[simp] theorem modTcp_wdg {f : Tcp → Tcp} : (modTcp f s).wdg = s.wdg := rfl
@[simp] theorem modTcp_tmr {f : Tcp → Tcp} : (modTcp f s).tmr = s.tmr := rfl
@[simp] theorem modTcp_lnk {f : Tcp → Tcp} : (modTcp f s).lnk = s.lnk := rfl
@[simp] theorem modTcp_hst {f : Tcp → Tcp} : (modTcp f s).hst = s.hst := rfl
@[simp] theorem modTcp_seed {f : Tcp → Tcp} : (modTcp f s).seed = s.seed := rfl

/-! ## modLnk -/

@[simp] theorem modLnk_pending {f : Lnk → Lnk} : (modLnk f s).pending = s.pending := rfl
@[simp] theorem modLnk_wback {f : Lnk → Lnk} : (modLnk f s).wback = s.wback := rfl
@[simp] theorem modLnk_regs {f : Lnk → Lnk} : (modLnk f s).regs = s.regs := rfl
@[simp] theorem modLnk_live {f : Lnk → Lnk} : (modLnk f s).live = s.live := rfl
@[simp] theorem modLnk_marks {f : Lnk → Lnk} : (modLnk f s).marks = s.marks := rfl
@[simp] theorem modLnk_clk {f : Lnk → Lnk} : (modLnk f s).clk = s.clk := rfl
@[simp] theorem modLnk_sup {f : Lnk → Lnk} : (modLnk f s).sup = s.sup := rfl
@[simp] theorem modLnk_store {f : Lnk → Lnk} : (modLnk f s).store = s.store := rfl
@[simp] theorem modLnk_engs {f : Lnk → Lnk} : (modLnk f s).engs = s.engs := rfl
@[simp] theorem modLnk_rng {f : Lnk → Lnk} : (modLnk f s).rng = s.rng := rfl
@[simp] theorem modLnk_mem {f : Lnk → Lnk} : (modLnk f s).mem = s.mem := rfl
@[simp] theorem modLnk_ramErr {f : Lnk → Lnk} : (modLnk f s).ramErr = s.ramErr := rfl
@[simp] theorem modLnk_flt {f : Lnk → Lnk} : (modLnk f s).flt = s.flt := rfl
@[simp] theorem modLnk_evq {f : Lnk → Lnk} : (modLnk f s).evq = s.evq := rfl
@[simp] theorem modLnk_logq {f : Lnk → Lnk} : (modLnk f s).logq = s.logq := rfl
@[simp] theorem modLnk_pwr {f : Lnk → Lnk} : (modLnk f s).pwr = s.pwr := rfl
@[simp] theorem modLnk_hub {f : Lnk → Lnk} : (modLnk f s).hub = s.hub := rfl
@[simp] theorem modLnk_chg {f : Lnk → Lnk} : (modLnk f s).chg = s.chg := rfl
@[simp] theorem modLnk_pk {f : Lnk → Lnk} : (modLnk f s).pk = s.pk := rfl
@[simp] theorem modLnk_pkb {f : Lnk → Lnk} : (modLnk f s).pkb = s.pkb := rfl
@[simp] theorem modLnk_imp {f : Lnk → Lnk} : (modLnk f s).imp = s.imp := rfl
@[simp] theorem modLnk_thm {f : Lnk → Lnk} : (modLnk f s).thm = s.thm := rfl
@[simp] theorem modLnk_wdg {f : Lnk → Lnk} : (modLnk f s).wdg = s.wdg := rfl
@[simp] theorem modLnk_tmr {f : Lnk → Lnk} : (modLnk f s).tmr = s.tmr := rfl
@[simp] theorem modLnk_tcp {f : Lnk → Lnk} : (modLnk f s).tcp = s.tcp := rfl
@[simp] theorem modLnk_hst {f : Lnk → Lnk} : (modLnk f s).hst = s.hst := rfl
@[simp] theorem modLnk_seed {f : Lnk → Lnk} : (modLnk f s).seed = s.seed := rfl

/-! ## modHst -/

@[simp] theorem modHst_pending {f : Hst → Hst} : (modHst f s).pending = s.pending := rfl
@[simp] theorem modHst_wback {f : Hst → Hst} : (modHst f s).wback = s.wback := rfl
@[simp] theorem modHst_regs {f : Hst → Hst} : (modHst f s).regs = s.regs := rfl
@[simp] theorem modHst_live {f : Hst → Hst} : (modHst f s).live = s.live := rfl
@[simp] theorem modHst_marks {f : Hst → Hst} : (modHst f s).marks = s.marks := rfl
@[simp] theorem modHst_clk {f : Hst → Hst} : (modHst f s).clk = s.clk := rfl
@[simp] theorem modHst_sup {f : Hst → Hst} : (modHst f s).sup = s.sup := rfl
@[simp] theorem modHst_store {f : Hst → Hst} : (modHst f s).store = s.store := rfl
@[simp] theorem modHst_engs {f : Hst → Hst} : (modHst f s).engs = s.engs := rfl
@[simp] theorem modHst_rng {f : Hst → Hst} : (modHst f s).rng = s.rng := rfl
@[simp] theorem modHst_mem {f : Hst → Hst} : (modHst f s).mem = s.mem := rfl
@[simp] theorem modHst_ramErr {f : Hst → Hst} : (modHst f s).ramErr = s.ramErr := rfl
@[simp] theorem modHst_flt {f : Hst → Hst} : (modHst f s).flt = s.flt := rfl
@[simp] theorem modHst_evq {f : Hst → Hst} : (modHst f s).evq = s.evq := rfl
@[simp] theorem modHst_logq {f : Hst → Hst} : (modHst f s).logq = s.logq := rfl
@[simp] theorem modHst_pwr {f : Hst → Hst} : (modHst f s).pwr = s.pwr := rfl
@[simp] theorem modHst_hub {f : Hst → Hst} : (modHst f s).hub = s.hub := rfl
@[simp] theorem modHst_chg {f : Hst → Hst} : (modHst f s).chg = s.chg := rfl
@[simp] theorem modHst_pk {f : Hst → Hst} : (modHst f s).pk = s.pk := rfl
@[simp] theorem modHst_pkb {f : Hst → Hst} : (modHst f s).pkb = s.pkb := rfl
@[simp] theorem modHst_imp {f : Hst → Hst} : (modHst f s).imp = s.imp := rfl
@[simp] theorem modHst_thm {f : Hst → Hst} : (modHst f s).thm = s.thm := rfl
@[simp] theorem modHst_wdg {f : Hst → Hst} : (modHst f s).wdg = s.wdg := rfl
@[simp] theorem modHst_tmr {f : Hst → Hst} : (modHst f s).tmr = s.tmr := rfl
@[simp] theorem modHst_tcp {f : Hst → Hst} : (modHst f s).tcp = s.tcp := rfl
@[simp] theorem modHst_lnk {f : Hst → Hst} : (modHst f s).lnk = s.lnk := rfl
@[simp] theorem modHst_seed {f : Hst → Hst} : (modHst f s).seed = s.seed := rfl

/-! ## modTmr -/

@[simp] theorem modTmr_pending {n : Nat} {f : TmrCh → TmrCh} : (modTmr n f s).pending = s.pending := rfl
@[simp] theorem modTmr_wback {n : Nat} {f : TmrCh → TmrCh} : (modTmr n f s).wback = s.wback := rfl
@[simp] theorem modTmr_regs {n : Nat} {f : TmrCh → TmrCh} : (modTmr n f s).regs = s.regs := rfl
@[simp] theorem modTmr_live {n : Nat} {f : TmrCh → TmrCh} : (modTmr n f s).live = s.live := rfl
@[simp] theorem modTmr_marks {n : Nat} {f : TmrCh → TmrCh} : (modTmr n f s).marks = s.marks := rfl
@[simp] theorem modTmr_clk {n : Nat} {f : TmrCh → TmrCh} : (modTmr n f s).clk = s.clk := rfl
@[simp] theorem modTmr_sup {n : Nat} {f : TmrCh → TmrCh} : (modTmr n f s).sup = s.sup := rfl
@[simp] theorem modTmr_store {n : Nat} {f : TmrCh → TmrCh} : (modTmr n f s).store = s.store := rfl
@[simp] theorem modTmr_engs {n : Nat} {f : TmrCh → TmrCh} : (modTmr n f s).engs = s.engs := rfl
@[simp] theorem modTmr_rng {n : Nat} {f : TmrCh → TmrCh} : (modTmr n f s).rng = s.rng := rfl
@[simp] theorem modTmr_mem {n : Nat} {f : TmrCh → TmrCh} : (modTmr n f s).mem = s.mem := rfl
@[simp] theorem modTmr_ramErr {n : Nat} {f : TmrCh → TmrCh} : (modTmr n f s).ramErr = s.ramErr := rfl
@[simp] theorem modTmr_flt {n : Nat} {f : TmrCh → TmrCh} : (modTmr n f s).flt = s.flt := rfl
@[simp] theorem modTmr_evq {n : Nat} {f : TmrCh → TmrCh} : (modTmr n f s).evq = s.evq := rfl
@[simp] theorem modTmr_logq {n : Nat} {f : TmrCh → TmrCh} : (modTmr n f s).logq = s.logq := rfl
@[simp] theorem modTmr_pwr {n : Nat} {f : TmrCh → TmrCh} : (modTmr n f s).pwr = s.pwr := rfl
@[simp] theorem modTmr_hub {n : Nat} {f : TmrCh → TmrCh} : (modTmr n f s).hub = s.hub := rfl
@[simp] theorem modTmr_chg {n : Nat} {f : TmrCh → TmrCh} : (modTmr n f s).chg = s.chg := rfl
@[simp] theorem modTmr_pk {n : Nat} {f : TmrCh → TmrCh} : (modTmr n f s).pk = s.pk := rfl
@[simp] theorem modTmr_pkb {n : Nat} {f : TmrCh → TmrCh} : (modTmr n f s).pkb = s.pkb := rfl
@[simp] theorem modTmr_imp {n : Nat} {f : TmrCh → TmrCh} : (modTmr n f s).imp = s.imp := rfl
@[simp] theorem modTmr_thm {n : Nat} {f : TmrCh → TmrCh} : (modTmr n f s).thm = s.thm := rfl
@[simp] theorem modTmr_wdg {n : Nat} {f : TmrCh → TmrCh} : (modTmr n f s).wdg = s.wdg := rfl
@[simp] theorem modTmr_tcp {n : Nat} {f : TmrCh → TmrCh} : (modTmr n f s).tcp = s.tcp := rfl
@[simp] theorem modTmr_lnk {n : Nat} {f : TmrCh → TmrCh} : (modTmr n f s).lnk = s.lnk := rfl
@[simp] theorem modTmr_hst {n : Nat} {f : TmrCh → TmrCh} : (modTmr n f s).hst = s.hst := rfl
@[simp] theorem modTmr_seed {n : Nat} {f : TmrCh → TmrCh} : (modTmr n f s).seed = s.seed := rfl

/-! ## modPort -/

@[simp] theorem modPort_pending {k : Nat} {f : Port → Port} : (modPort k f s).pending = s.pending := rfl
@[simp] theorem modPort_wback {k : Nat} {f : Port → Port} : (modPort k f s).wback = s.wback := rfl
@[simp] theorem modPort_regs {k : Nat} {f : Port → Port} : (modPort k f s).regs = s.regs := rfl
@[simp] theorem modPort_live {k : Nat} {f : Port → Port} : (modPort k f s).live = s.live := rfl
@[simp] theorem modPort_marks {k : Nat} {f : Port → Port} : (modPort k f s).marks = s.marks := rfl
@[simp] theorem modPort_clk {k : Nat} {f : Port → Port} : (modPort k f s).clk = s.clk := rfl
@[simp] theorem modPort_sup {k : Nat} {f : Port → Port} : (modPort k f s).sup = s.sup := rfl
@[simp] theorem modPort_store {k : Nat} {f : Port → Port} : (modPort k f s).store = s.store := rfl
@[simp] theorem modPort_engs {k : Nat} {f : Port → Port} : (modPort k f s).engs = s.engs := rfl
@[simp] theorem modPort_rng {k : Nat} {f : Port → Port} : (modPort k f s).rng = s.rng := rfl
@[simp] theorem modPort_mem {k : Nat} {f : Port → Port} : (modPort k f s).mem = s.mem := rfl
@[simp] theorem modPort_ramErr {k : Nat} {f : Port → Port} : (modPort k f s).ramErr = s.ramErr := rfl
@[simp] theorem modPort_flt {k : Nat} {f : Port → Port} : (modPort k f s).flt = s.flt := rfl
@[simp] theorem modPort_evq {k : Nat} {f : Port → Port} : (modPort k f s).evq = s.evq := rfl
@[simp] theorem modPort_logq {k : Nat} {f : Port → Port} : (modPort k f s).logq = s.logq := rfl
@[simp] theorem modPort_pwr {k : Nat} {f : Port → Port} : (modPort k f s).pwr = s.pwr := rfl
@[simp] theorem modPort_chg {k : Nat} {f : Port → Port} : (modPort k f s).chg = s.chg := rfl
@[simp] theorem modPort_pk {k : Nat} {f : Port → Port} : (modPort k f s).pk = s.pk := rfl
@[simp] theorem modPort_pkb {k : Nat} {f : Port → Port} : (modPort k f s).pkb = s.pkb := rfl
@[simp] theorem modPort_imp {k : Nat} {f : Port → Port} : (modPort k f s).imp = s.imp := rfl
@[simp] theorem modPort_thm {k : Nat} {f : Port → Port} : (modPort k f s).thm = s.thm := rfl
@[simp] theorem modPort_wdg {k : Nat} {f : Port → Port} : (modPort k f s).wdg = s.wdg := rfl
@[simp] theorem modPort_tmr {k : Nat} {f : Port → Port} : (modPort k f s).tmr = s.tmr := rfl
@[simp] theorem modPort_tcp {k : Nat} {f : Port → Port} : (modPort k f s).tcp = s.tcp := rfl
@[simp] theorem modPort_lnk {k : Nat} {f : Port → Port} : (modPort k f s).lnk = s.lnk := rfl
@[simp] theorem modPort_hst {k : Nat} {f : Port → Port} : (modPort k f s).hst = s.hst := rfl
@[simp] theorem modPort_seed {k : Nat} {f : Port → Port} : (modPort k f s).seed = s.seed := rfl

/-! ## modPhase -/

@[simp] theorem modPhase_pending {k : Nat} {f : Phase → Phase} : (modPhase k f s).pending = s.pending := rfl
@[simp] theorem modPhase_wback {k : Nat} {f : Phase → Phase} : (modPhase k f s).wback = s.wback := rfl
@[simp] theorem modPhase_regs {k : Nat} {f : Phase → Phase} : (modPhase k f s).regs = s.regs := rfl
@[simp] theorem modPhase_live {k : Nat} {f : Phase → Phase} : (modPhase k f s).live = s.live := rfl
@[simp] theorem modPhase_marks {k : Nat} {f : Phase → Phase} : (modPhase k f s).marks = s.marks := rfl
@[simp] theorem modPhase_clk {k : Nat} {f : Phase → Phase} : (modPhase k f s).clk = s.clk := rfl
@[simp] theorem modPhase_sup {k : Nat} {f : Phase → Phase} : (modPhase k f s).sup = s.sup := rfl
@[simp] theorem modPhase_store {k : Nat} {f : Phase → Phase} : (modPhase k f s).store = s.store := rfl
@[simp] theorem modPhase_engs {k : Nat} {f : Phase → Phase} : (modPhase k f s).engs = s.engs := rfl
@[simp] theorem modPhase_rng {k : Nat} {f : Phase → Phase} : (modPhase k f s).rng = s.rng := rfl
@[simp] theorem modPhase_mem {k : Nat} {f : Phase → Phase} : (modPhase k f s).mem = s.mem := rfl
@[simp] theorem modPhase_ramErr {k : Nat} {f : Phase → Phase} : (modPhase k f s).ramErr = s.ramErr := rfl
@[simp] theorem modPhase_flt {k : Nat} {f : Phase → Phase} : (modPhase k f s).flt = s.flt := rfl
@[simp] theorem modPhase_evq {k : Nat} {f : Phase → Phase} : (modPhase k f s).evq = s.evq := rfl
@[simp] theorem modPhase_logq {k : Nat} {f : Phase → Phase} : (modPhase k f s).logq = s.logq := rfl
@[simp] theorem modPhase_hub {k : Nat} {f : Phase → Phase} : (modPhase k f s).hub = s.hub := rfl
@[simp] theorem modPhase_chg {k : Nat} {f : Phase → Phase} : (modPhase k f s).chg = s.chg := rfl
@[simp] theorem modPhase_pk {k : Nat} {f : Phase → Phase} : (modPhase k f s).pk = s.pk := rfl
@[simp] theorem modPhase_pkb {k : Nat} {f : Phase → Phase} : (modPhase k f s).pkb = s.pkb := rfl
@[simp] theorem modPhase_imp {k : Nat} {f : Phase → Phase} : (modPhase k f s).imp = s.imp := rfl
@[simp] theorem modPhase_thm {k : Nat} {f : Phase → Phase} : (modPhase k f s).thm = s.thm := rfl
@[simp] theorem modPhase_wdg {k : Nat} {f : Phase → Phase} : (modPhase k f s).wdg = s.wdg := rfl
@[simp] theorem modPhase_tmr {k : Nat} {f : Phase → Phase} : (modPhase k f s).tmr = s.tmr := rfl
@[simp] theorem modPhase_tcp {k : Nat} {f : Phase → Phase} : (modPhase k f s).tcp = s.tcp := rfl
@[simp] theorem modPhase_lnk {k : Nat} {f : Phase → Phase} : (modPhase k f s).lnk = s.lnk := rfl
@[simp] theorem modPhase_hst {k : Nat} {f : Phase → Phase} : (modPhase k f s).hst = s.hst := rfl
@[simp] theorem modPhase_seed {k : Nat} {f : Phase → Phase} : (modPhase k f s).seed = s.seed := rfl

/-! ## putEng and modEng -/

@[simp] theorem putEng_pending {e : EngId} {x : Eng} : (putEng e x s).pending = s.pending := by cases e <;> rfl
@[simp] theorem putEng_wback {e : EngId} {x : Eng} : (putEng e x s).wback = s.wback := by cases e <;> rfl
@[simp] theorem modEng_pending {e : EngId} {g : Eng → Eng} : (modEng e g s).pending = s.pending := by cases e <;> rfl
@[simp] theorem modEng_wback {e : EngId} {g : Eng → Eng} : (modEng e g s).wback = s.wback := by cases e <;> rfl
@[simp] theorem putEng_regs {e : EngId} {x : Eng} : (putEng e x s).regs = s.regs := by cases e <;> rfl
@[simp] theorem modEng_regs {e : EngId} {g : Eng → Eng} : (modEng e g s).regs = s.regs := by cases e <;> rfl
@[simp] theorem putEng_live {e : EngId} {x : Eng} : (putEng e x s).live = s.live := by cases e <;> rfl
@[simp] theorem modEng_live {e : EngId} {g : Eng → Eng} : (modEng e g s).live = s.live := by cases e <;> rfl
@[simp] theorem putEng_marks {e : EngId} {x : Eng} : (putEng e x s).marks = s.marks := by cases e <;> rfl
@[simp] theorem modEng_marks {e : EngId} {g : Eng → Eng} : (modEng e g s).marks = s.marks := by cases e <;> rfl
@[simp] theorem putEng_clk {e : EngId} {x : Eng} : (putEng e x s).clk = s.clk := by cases e <;> rfl
@[simp] theorem modEng_clk {e : EngId} {g : Eng → Eng} : (modEng e g s).clk = s.clk := by cases e <;> rfl
@[simp] theorem putEng_sup {e : EngId} {x : Eng} : (putEng e x s).sup = s.sup := by cases e <;> rfl
@[simp] theorem modEng_sup {e : EngId} {g : Eng → Eng} : (modEng e g s).sup = s.sup := by cases e <;> rfl
@[simp] theorem putEng_store {e : EngId} {x : Eng} : (putEng e x s).store = s.store := by cases e <;> rfl
@[simp] theorem modEng_store {e : EngId} {g : Eng → Eng} : (modEng e g s).store = s.store := by cases e <;> rfl
@[simp] theorem putEng_rng {e : EngId} {x : Eng} : (putEng e x s).rng = s.rng := by cases e <;> rfl
@[simp] theorem modEng_rng {e : EngId} {g : Eng → Eng} : (modEng e g s).rng = s.rng := by cases e <;> rfl
@[simp] theorem putEng_mem {e : EngId} {x : Eng} : (putEng e x s).mem = s.mem := by cases e <;> rfl
@[simp] theorem modEng_mem {e : EngId} {g : Eng → Eng} : (modEng e g s).mem = s.mem := by cases e <;> rfl
@[simp] theorem putEng_ramErr {e : EngId} {x : Eng} : (putEng e x s).ramErr = s.ramErr := by cases e <;> rfl
@[simp] theorem modEng_ramErr {e : EngId} {g : Eng → Eng} : (modEng e g s).ramErr = s.ramErr := by cases e <;> rfl
@[simp] theorem putEng_flt {e : EngId} {x : Eng} : (putEng e x s).flt = s.flt := by cases e <;> rfl
@[simp] theorem modEng_flt {e : EngId} {g : Eng → Eng} : (modEng e g s).flt = s.flt := by cases e <;> rfl
@[simp] theorem putEng_evq {e : EngId} {x : Eng} : (putEng e x s).evq = s.evq := by cases e <;> rfl
@[simp] theorem modEng_evq {e : EngId} {g : Eng → Eng} : (modEng e g s).evq = s.evq := by cases e <;> rfl
@[simp] theorem putEng_logq {e : EngId} {x : Eng} : (putEng e x s).logq = s.logq := by cases e <;> rfl
@[simp] theorem modEng_logq {e : EngId} {g : Eng → Eng} : (modEng e g s).logq = s.logq := by cases e <;> rfl
@[simp] theorem putEng_pwr {e : EngId} {x : Eng} : (putEng e x s).pwr = s.pwr := by cases e <;> rfl
@[simp] theorem modEng_pwr {e : EngId} {g : Eng → Eng} : (modEng e g s).pwr = s.pwr := by cases e <;> rfl
@[simp] theorem putEng_hub {e : EngId} {x : Eng} : (putEng e x s).hub = s.hub := by cases e <;> rfl
@[simp] theorem modEng_hub {e : EngId} {g : Eng → Eng} : (modEng e g s).hub = s.hub := by cases e <;> rfl
@[simp] theorem putEng_chg {e : EngId} {x : Eng} : (putEng e x s).chg = s.chg := by cases e <;> rfl
@[simp] theorem modEng_chg {e : EngId} {g : Eng → Eng} : (modEng e g s).chg = s.chg := by cases e <;> rfl
@[simp] theorem putEng_pk {e : EngId} {x : Eng} : (putEng e x s).pk = s.pk := by cases e <;> rfl
@[simp] theorem modEng_pk {e : EngId} {g : Eng → Eng} : (modEng e g s).pk = s.pk := by cases e <;> rfl
@[simp] theorem putEng_pkb {e : EngId} {x : Eng} : (putEng e x s).pkb = s.pkb := by cases e <;> rfl
@[simp] theorem modEng_pkb {e : EngId} {g : Eng → Eng} : (modEng e g s).pkb = s.pkb := by cases e <;> rfl
@[simp] theorem putEng_imp {e : EngId} {x : Eng} : (putEng e x s).imp = s.imp := by cases e <;> rfl
@[simp] theorem modEng_imp {e : EngId} {g : Eng → Eng} : (modEng e g s).imp = s.imp := by cases e <;> rfl
@[simp] theorem putEng_thm {e : EngId} {x : Eng} : (putEng e x s).thm = s.thm := by cases e <;> rfl
@[simp] theorem modEng_thm {e : EngId} {g : Eng → Eng} : (modEng e g s).thm = s.thm := by cases e <;> rfl
@[simp] theorem putEng_wdg {e : EngId} {x : Eng} : (putEng e x s).wdg = s.wdg := by cases e <;> rfl
@[simp] theorem modEng_wdg {e : EngId} {g : Eng → Eng} : (modEng e g s).wdg = s.wdg := by cases e <;> rfl
@[simp] theorem putEng_tmr {e : EngId} {x : Eng} : (putEng e x s).tmr = s.tmr := by cases e <;> rfl
@[simp] theorem modEng_tmr {e : EngId} {g : Eng → Eng} : (modEng e g s).tmr = s.tmr := by cases e <;> rfl
@[simp] theorem putEng_tcp {e : EngId} {x : Eng} : (putEng e x s).tcp = s.tcp := by cases e <;> rfl
@[simp] theorem modEng_tcp {e : EngId} {g : Eng → Eng} : (modEng e g s).tcp = s.tcp := by cases e <;> rfl
@[simp] theorem putEng_lnk {e : EngId} {x : Eng} : (putEng e x s).lnk = s.lnk := by cases e <;> rfl
@[simp] theorem modEng_lnk {e : EngId} {g : Eng → Eng} : (modEng e g s).lnk = s.lnk := by cases e <;> rfl
@[simp] theorem putEng_hst {e : EngId} {x : Eng} : (putEng e x s).hst = s.hst := by cases e <;> rfl
@[simp] theorem modEng_hst {e : EngId} {g : Eng → Eng} : (modEng e g s).hst = s.hst := by cases e <;> rfl
@[simp] theorem putEng_seed {e : EngId} {x : Eng} : (putEng e x s).seed = s.seed := by cases e <;> rfl
@[simp] theorem modEng_seed {e : EngId} {g : Eng → Eng} : (modEng e g s).seed = s.seed := by cases e <;> rfl

@[simp] theorem getEng_putEng_same {e : EngId} {x : Eng} : getEng e (putEng e x s) = x := by cases e <;> rfl

theorem getEng_putEng_ne {e d : EngId} {x : Eng} (h : d ≠ e) : getEng d (putEng e x s) = getEng d s := by
  cases e <;> cases d <;> first | rfl | exact absurd rfl h

@[simp] theorem getEng_modEng_same {e : EngId} {g : Eng → Eng} : getEng e (modEng e g s) = g (getEng e s) := by cases e <;> rfl

theorem getEng_modEng_ne {e d : EngId} {g : Eng → Eng} (h : d ≠ e) : getEng d (modEng e g s) = getEng d s :=
  getEng_putEng_ne h

/-! ## The fields that an update sets -/

@[simp] theorem raise'_evq {n c d : Nat} {u : Option Nat} : (raise' n c u d s).evq = s.evq ++ [⟨n, c, u, d⟩] := rfl
@[simp] theorem useSeed_seed : (useSeed s).seed = s.seed + 1 := rfl
@[simp] theorem modSup_sup {f : Sup → Sup} : (modSup f s).sup = f s.sup := rfl
@[simp] theorem modStore_store {f : Store → Store} : (modStore f s).store = f s.store := rfl
@[simp] theorem modFlt_flt {f : Flt → Flt} : (modFlt f s).flt = f s.flt := rfl
@[simp] theorem modChg_chg {f : Chg → Chg} : (modChg f s).chg = f s.chg := rfl
@[simp] theorem modTcp_tcp {f : Tcp → Tcp} : (modTcp f s).tcp = f s.tcp := rfl
@[simp] theorem modLnk_lnk {f : Lnk → Lnk} : (modLnk f s).lnk = f s.lnk := rfl
@[simp] theorem modHst_hst {f : Hst → Hst} : (modHst f s).hst = f s.hst := rfl

end Sys2Proof.Machine
end

