-- ==== Sys2Proof/Laws/Regs.lean ====
section
/-!
SUPPORT. The laws of the register file, of fields and of engines' records: a read after a write, and what a write leaves alone.
-/

namespace Sys2Proof.Machine

variable {s : State}

theorem regGet_regSet_same {a : Nat} {v : Word} : ∀ {l : RegFile}, regGet (regSet l a v) a = v
  | [] => by
    unfold regSet; split
    · rename_i h; simp [regGet, h]
    · simp [regGet]
  | (b, w) :: t => by
    unfold regSet; split
    · rename_i h; simp [regGet, h]
    · rename_i h; split
      · rename_i h2; split
        · rename_i h3; simp [regGet, h, h2, h3]
        · simp [regGet]
      · rename_i h2; simp [regGet, h, h2, regGet_regSet_same]

theorem regGet_regSet_ne {a c : Nat} {v : Word} (hc : c ≠ a) : ∀ {l : RegFile}, regGet (regSet l a v) c = regGet l c
  | [] => by
    unfold regSet; split <;> simp [regGet, hc]
  | (b, w) :: t => by
    unfold regSet; split
    · rename_i h; subst h; simp [regGet, hc]
    · split
      · rename_i h h2; split
        · rfl
        · by_cases h4 : c < a
          · simp [regGet, hc, h4, show c ≠ b by omega, show c < b by omega]
          · simp [regGet, hc, h4]
      · simp only [regGet]; split
        · rfl
        · split
          · rfl
          · exact regGet_regSet_ne hc

/-- A register reads what was written, modulo 2^32. -/
@[simp] theorem rd_wr_same {a v : Nat} : rd a (wr a v s) = v % 2 ^ 32 := by
  simp [rd, wr, regGet_regSet_same]

/-- A write leaves every other register. -/
theorem rd_wr_ne {a b v : Nat} (h : b ≠ a) : rd b (wr a v s) = rd b s := by
  simp [rd, wr, regGet_regSet_ne h]

theorem rd_wr {a b v : Nat} : rd b (wr a v s) = if b = a then v % 2 ^ 32 else rd b s := by
  split
  · rename_i h; rw [h, rd_wr_same]
  · rename_i h; exact rd_wr_ne h

theorem rd_lt {a : Nat} : rd a s < 2 ^ 32 := BitVec.isLt _

/-- A register depends on the register file only. -/
theorem rd_congr {t : State} (h : t.regs = s.regs) {a : Nat} : rd a t = rd a s := by simp [rd, h]

theorem fld_congr {t : State} (h : t.regs = s.regs) {f : Fld} : fld f t = fld f s := by simp [fld, rd, h]

theorem flag_congr {t : State} (h : t.regs = s.regs) {f : Fld} : flag f t = flag f s := by simp [flag, fld, rd, h]

/-! ## Bit fields -/

theorem putBits_div {v hi lo x : Nat} (hl : lo ≤ hi) : putBits v hi lo x / 2 ^ (hi + 1) = v / 2 ^ (hi + 1) := by
  have e : 2 ^ (hi + 1) = 2 ^ lo * 2 ^ (hi + 1 - lo) := by rw [← pow_add]; congr 1; omega
  have h1 : v % 2 ^ lo < 2 ^ lo := Nat.mod_lt _ (by positivity)
  have h2 : x % 2 ^ (hi + 1 - lo) + 1 ≤ 2 ^ (hi + 1 - lo) := Nat.mod_lt _ (by positivity)
  have h3 : v % 2 ^ lo + x % 2 ^ (hi + 1 - lo) * 2 ^ lo < 2 ^ (hi + 1) := by
    rw [e]; nlinarith [Nat.mul_le_mul_left (2 ^ lo) h2]
  unfold putBits
  rw [Nat.add_mul_div_right _ _ (by positivity), Nat.div_eq_of_lt h3, Nat.zero_add]

theorem putBits_mod {v hi lo x : Nat} (hl : lo ≤ hi) : putBits v hi lo x % 2 ^ lo = v % 2 ^ lo := by
  have e : 2 ^ (hi + 1) = 2 ^ lo * 2 ^ (hi + 1 - lo) := by rw [← pow_add]; congr 1; omega
  unfold putBits
  rw [e, Nat.mul_comm (2 ^ lo) (2 ^ (hi + 1 - lo)), ← Nat.mul_assoc, Nat.add_assoc, ← Nat.add_mul, Nat.add_mul_mod_self_right,
    Nat.mod_mod]

/-- The bits put are read. -/
theorem bitsOf_putBits {v hi lo x : Nat} (hl : lo ≤ hi) : bitsOf (putBits v hi lo x) hi lo = x % 2 ^ (hi + 1 - lo) := by
  have e : 2 ^ (hi + 1) = 2 ^ lo * 2 ^ (hi + 1 - lo) := by rw [← pow_add]; congr 1; omega
  unfold putBits bitsOf
  rw [e, Nat.mul_comm (2 ^ lo) (2 ^ (hi + 1 - lo)), ← Nat.mul_assoc, Nat.add_assoc, ← Nat.add_mul,
    Nat.add_mul_div_right _ _ (by positivity), Nat.div_eq_of_lt (Nat.mod_lt _ (by positivity)), Nat.zero_add,
    Nat.add_mul_mod_self_right, Nat.mod_mod]

/-- Bits above those put are left. -/
theorem bitsOf_putBits_above {v hi lo x h l : Nat} (hl : lo ≤ hi) (g : hi < l) :
    bitsOf (putBits v hi lo x) h l = bitsOf v h l := by
  have e : 2 ^ l = 2 ^ (hi + 1) * 2 ^ (l - (hi + 1)) := by rw [← pow_add]; congr 1; omega
  unfold bitsOf
  rw [e, ← Nat.div_div_eq_div_mul, putBits_div hl, Nat.div_div_eq_div_mul]

/-- Bits below those put are left. -/
theorem bitsOf_putBits_below {v hi lo x h l : Nat} (hl : lo ≤ hi) (g : h < lo) :
    bitsOf (putBits v hi lo x) h l = bitsOf v h l := by
  have key : ∀ n, (n / 2 ^ l) % 2 ^ (h + 1 - l) = (n % 2 ^ lo / 2 ^ l) % 2 ^ (h + 1 - l) := by
    intro n
    by_cases k : l ≤ h
    · have e : 2 ^ lo = 2 ^ l * 2 ^ (lo - l) := by rw [← pow_add]; congr 1; omega
      have d : 2 ^ (h + 1 - l) ∣ 2 ^ (lo - l) := pow_dvd_pow _ (by omega)
      rw [e, Nat.mod_mul_right_div_self, Nat.mod_mod_of_dvd _ d]
    · have z : h + 1 - l = 0 := by omega
      simp [z, Nat.mod_one]
  unfold bitsOf
  rw [key, key v, putBits_mod hl]

theorem putBits_lt {v hi lo x n : Nat} (hv : v < 2 ^ n) (hl : lo ≤ hi) (hh : hi < n) : putBits v hi lo x < 2 ^ n := by
  have e : 2 ^ n = 2 ^ (hi + 1) * 2 ^ (n - (hi + 1)) := by rw [← pow_add]; congr 1; omega
  have h1 : putBits v hi lo x / 2 ^ (hi + 1) < 2 ^ (n - (hi + 1)) := by
    rw [putBits_div hl, Nat.div_lt_iff_lt_mul (by positivity), Nat.mul_comm, ← e]; exact hv
  rw [Nat.div_lt_iff_lt_mul (by positivity), Nat.mul_comm, ← e] at h1; exact h1

/-- What `setF` leaves in its register. -/
theorem rd_setF_same {f : Fld} {x : Nat} (hl : f.lo ≤ f.hi) (hh : f.hi < 32) :
    rd f.addr (setF f x s) = putBits (rd f.addr s) f.hi f.lo x := by
  unfold setF
  rw [rd_wr_same, Nat.mod_eq_of_lt (putBits_lt rd_lt hl hh)]

/-- `setF` leaves every other register. -/
theorem rd_setF_ne {f : Fld} {a x : Nat} (h : a ≠ f.addr) : rd a (setF f x s) = rd a s := rd_wr_ne h

/-- A field reads what was put, modulo its width. -/
theorem fld_setF_same {f : Fld} {x : Nat} (hl : f.lo ≤ f.hi) (hh : f.hi < 32) :
    fld f (setF f x s) = x % 2 ^ (f.hi + 1 - f.lo) := by
  unfold fld
  rw [rd_setF_same hl hh, bitsOf_putBits hl]

/-- `setF` leaves every field of another register, and every field of its own register that shares no bit with it. -/
theorem fld_setF_ne {f g : Fld} {x : Nat} (hl : f.lo ≤ f.hi) (hh : f.hi < 32)
    (h : g.addr ≠ f.addr ∨ f.hi < g.lo ∨ g.hi < f.lo) : fld g (setF f x s) = fld g s := by
  unfold fld
  by_cases ha : g.addr = f.addr
  · rw [ha, rd_setF_same hl hh]
    rcases h with h | h | h
    · exact absurd ha h
    · exact bitsOf_putBits_above hl h
    · exact bitsOf_putBits_below hl h
  · rw [rd_setF_ne ha]

theorem fld_setF {f g : Fld} {x : Nat} (hl : f.lo ≤ f.hi) (hh : f.hi < 32)
    (h : g = f ∨ g.addr ≠ f.addr ∨ f.hi < g.lo ∨ g.hi < f.lo) :
    fld g (setF f x s) = if g = f then x % 2 ^ (f.hi + 1 - f.lo) else fld g s := by
  by_cases e : g = f
  · rw [if_pos e, e, fld_setF_same hl hh]
  · rw [if_neg e]; exact fld_setF_ne hl hh (h.resolve_left e)

/-! ## The collector with nothing to collect -/

/-- With no event and no log entry waiting the collector leaves the state. -/
theorem settle_quiet (h1 : s.evq = []) (h2 : s.logq = []) : settle s = s := by
  simp [settle, handleClocks, h1, flushLog, h2]

end Sys2Proof.Machine
end

