-- ==== Sys2Proof/Laws/Frame.lean ====
section
/-!
SUPPORT. Frames of register writes: how `FieldsBut` composes over the named updates.
-/

namespace Sys2Proof.Machine

variable {s t u : State} {F : List Fld}

theorem FieldsBut.refl : FieldsBut F s s := fun _ _ => rfl

theorem FieldsBut.trans (h : FieldsBut F s t) (g : FieldsBut F t u) : FieldsBut F s u :=
  fun f hf => (g f hf).trans (h f hf)

/-- A change that leaves the register file. -/
theorem FieldsBut.regs (e : u.regs = t.regs) (h : FieldsBut F s t) : FieldsBut F s u :=
  fun f hf => (fld_congr e).trans (h f hf)

theorem FieldsBut.setF {f : Fld} {x : Nat} (hf : f ∈ F) (hl : f.lo ≤ f.hi) (hh : f.hi < 32) (h : FieldsBut F s t) :
    FieldsBut F s (setF f x t) :=
  fun g hg => (fld_setF_ne hl hh (hg f hf)).trans (h g hg)

theorem FieldsBut.setB {f : Fld} {b : Bool} (hf : f ∈ F) (hl : f.lo ≤ f.hi) (hh : f.hi < 32) (h : FieldsBut F s t) :
    FieldsBut F s (setB f b t) := FieldsBut.setF hf hl hh h

theorem FieldsBut.incWrap {f : Fld} (hf : f ∈ F) (hl : f.lo ≤ f.hi) (hh : f.hi < 32) (h : FieldsBut F s t) :
    FieldsBut F s (incWrap f t) := FieldsBut.setF hf hl hh h

theorem FieldsBut.incSat {f : Fld} (hf : f ∈ F) (hl : f.lo ≤ f.hi) (hh : f.hi < 32) (h : FieldsBut F s t) :
    FieldsBut F s (incSat f t) := by
  unfold Machine.incSat; split
  · exact FieldsBut.setF hf hl hh h
  · exact h

/-- A field with a bit in the register is some field of it; a field of no bits reads 0 whatever the register holds. -/
theorem FieldsBut.wr {a v : Nat} (hf : whole a ∈ F) (h : FieldsBut F s t) : FieldsBut F s (wr a v t) := by
  intro g hg
  rw [← h g hg]
  unfold fld
  rcases hg _ hf with h1 | h1 | h1
  · rw [rd_wr_ne h1]
  · have e : ∀ w, w < 2 ^ 32 → bitsOf w g.hi g.lo = 0 := fun w hw => by
      have : w / 2 ^ g.lo = 0 := Nat.div_eq_of_lt (lt_of_lt_of_le hw (Nat.pow_le_pow_right (by decide) h1))
      simp [bitsOf, this]
    rw [e _ rd_lt, e _ rd_lt]
  · exact absurd h1 (Nat.not_lt_zero _)

theorem FieldsBut.ite {c : Prop} [Decidable c] (h : FieldsBut F s t) (g : FieldsBut F s u) :
    FieldsBut F s (if c then t else u) := by split <;> assumption

theorem FieldsBut.fold {α : Type} {f : State → α → State} (hf : ∀ s' x, FieldsBut F s s' → FieldsBut F s (f s' x)) :
    ∀ {l : List α} {s' : State}, FieldsBut F s s' → FieldsBut F s (l.foldl f s')
  | [], _, h => h
  | x :: l, s', h => FieldsBut.fold hf (l := l) (hf s' x h)

/-- A register outside the fields reads as before. -/
theorem FieldsBut.rd {a : Nat} (h : FieldsBut F s t) (ha : ∀ f ∈ F, a ≠ f.addr) : rd a t = rd a s := by
  have e : ∀ w : State, fld (whole a) w = Machine.rd a w := fun w => by
    simpa [fld, bitsOf] using rd_lt (s := w) (a := a)
  rw [← e, ← e]
  exact h _ fun f hf => Or.inl (ha f hf)

/-! ## Vectors -/

theorem vAt_vPut_same {α : Type} {n : Nat} {v : Vector α (n + 1)} {k : Nat} {x : α} : vAt (vPut v k x) k = x := by
  simp [vAt, vPut]

theorem vAt_vPut_ne {α : Type} {n : Nat} {v : Vector α (n + 1)} {j k : Nat} {x : α} (h : j % (n + 1) ≠ k % (n + 1)) :
    vAt (vPut v k x) j = vAt v j := by
  simp [vAt, vPut, Ne.symm h]

end Sys2Proof.Machine
end

