-- ==== Sys2Proof/Laws/Keeps.lean ====
section
/-!
SUPPORT. The relation that the operations of the part respect: the queue of commands and the stored option fuses are left as they
are, frame number and frame index too, and a legal state stays legal (`Keeps`); and its weaker form for the few operations that
move the frame or the fuses (`KeepsL`). The lemmas of the shared operations that touch what `Legal` speaks of; the other
operations follow by composition.
-/

namespace Sys2Proof.Machine

open Sys2Proof

/-- From `r` to `s` the queue, the frame number, the frame index and the fuses are unchanged, and `s` is legal if `r` is. -/
structure Keeps (r s : State) : Prop where
  pending : s.pending = r.pending
  legal : Legal r → Legal s
  frm : s.clk.frm = r.clk.frm
  fidx : s.clk.fidx = r.clk.fidx
  fuses : s.sup.fuses = r.sup.fuses

/-- From `r` to `s` the queue is unchanged, and `s` is legal if `r` is. -/
structure KeepsL (r s : State) : Prop where
  pending : s.pending = r.pending
  legal : Legal r → Legal s

theorem Keeps.refl {s : State} : Keeps s s := ⟨rfl, id, rfl, rfl, rfl⟩

theorem Keeps.trans {a b c : State} (h : Keeps a b) (g : Keeps b c) : Keeps a c :=
  ⟨g.pending.trans h.pending, fun x => g.legal (h.legal x), g.frm.trans h.frm, g.fidx.trans h.fidx, g.fuses.trans h.fuses⟩

theorem Keeps.weak {a b : State} (h : Keeps a b) : KeepsL a b := ⟨h.pending, h.legal⟩

theorem KeepsL.trans {a b c : State} (h : KeepsL a b) (g : KeepsL b c) : KeepsL a c :=
  ⟨g.pending.trans h.pending, fun x => g.legal (h.legal x)⟩

/-- A change of what neither `Keeps` nor `Legal` speaks of. -/
theorem Keeps.same {r s t : State} (h0 : t.wback = s.wback) (hp : t.pending = s.pending) (h1 : t.mem = s.mem) (h2 : t.store.bytes = s.store.bytes)
    (h3 : t.clk.fidx = s.clk.fidx) (h4 : t.clk.sft = s.clk.sft) (h5 : t.flt.log = s.flt.log)
    (h6 : t.flt.hist = s.flt.hist) (h7 : t.clk.frm = s.clk.frm) (h8 : t.sup.fuses = s.sup.fuses) (h9 : t.rng.tags = s.rng.tags)
    (h : Keeps r s) : Keeps r t :=
  ⟨hp.trans h.pending, fun x => by
    obtain ⟨⟨a, b, c, d, e, f, g⟩, k⟩ := h.legal x
    exact ⟨⟨h1 ▸ a, h2 ▸ b, h3 ▸ c, h4 ▸ d, h5 ▸ e, h6 ▸ f, h9 ▸ g⟩, h0 ▸ k⟩, h7.trans h.frm, h3.trans h.fidx, h8.trans h.fuses⟩

/-- A record with other fields than those, as an update of `s`. -/
theorem Keeps.upd {r s : State}
    {regs : RegFile} {live : RegFile} {marks : List (Nat × Bool)} {clk : Clk} {sup : Sup} {store : Store} {engs : Engs}
    {rng : Rng} {mem : List Host.Cell} {ramErr : List (Nat × Nat)} {flt : Flt} {evq : List FEv} {logq : List LogEnt}
    {pwr : Pwr} {hub : Hub} {chg : Chg} {pk : Pk} {pkb : Pkb} {imp : Imp} {thm : Thm} {wdg : Wdg} {tmr : Tmr} {tcp :
    Tcp} {lnk : Lnk} {hst : Hst} {seed : Nat}
    (h1 : mem = s.mem) (h2 : store.bytes = s.store.bytes) (h3 : clk.fidx = s.clk.fidx) (h4 : clk.sft = s.clk.sft)
    (h5 : flt.log = s.flt.log) (h6 : flt.hist = s.flt.hist) (h7 : clk.frm = s.clk.frm) (h8 : sup.fuses = s.sup.fuses)
    (h9 : rng.tags = s.rng.tags) (h : Keeps r s) :
    Keeps r (State.mk (Block.mk regs live marks clk sup store engs rng mem ramErr flt evq logq pwr hub chg pk pkb imp thm wdg tmr
      tcp lnk hst seed) s.wback s.pending) :=
  Keeps.same (s := s) rfl rfl h1 h2 h3 h4 h5 h6 h7 h8 h9 h

/-- An update of `s` that moves the sub-frame tick within its bound. -/
theorem Keeps.updSft {r s : State} {c : Clk} (h1 : c.fidx = s.clk.fidx) (h2 : s.clk.sft < 2000 → c.sft < 2000)
    (h3 : c.frm = s.clk.frm) (h : Keeps r s) : Keeps r { s with clk := c } :=
  ⟨h.pending, fun x => by
    obtain ⟨⟨a, b, k, d, e, f, g⟩, w⟩ := h.legal x
    exact ⟨⟨a, b, h1 ▸ k, h2 d, e, f, g⟩, w⟩, h3.trans h.frm, h1.trans h.fidx, h.fuses⟩

/-- An update of the time and the supplies. -/
theorem Keeps.updClk {r s : State} {c : Clk} {p : Sup} (h1 : s.clk.fidx < 50 → c.fidx < 50)
    (h2 : s.clk.sft < 2000 → c.sft < 2000) (h : Keeps r s) : KeepsL r { s with clk := c, sup := p } :=
  ⟨h.pending, fun x => by
    obtain ⟨⟨a, b, k, d, e, f, g⟩, w⟩ := h.legal x
    exact ⟨⟨a, b, h1 k, h2 d, e, f, g⟩, w⟩⟩

/-- A change of the watchdog's record of a clock. -/
theorem Keeps.note {r s : State} {w : Option WdgBack} (hw : Legal s → ∀ b, w = some b → LegalBlock b.was) (h : Keeps r s) :
    Keeps r { s with wback := w } :=
  ⟨h.pending, fun x => ⟨(h.legal x).toLegalBlock, hw (h.legal x)⟩, h.frm, h.fidx, h.fuses⟩

/-- A change of the record that leaves what it holds of the part. -/
theorem Keeps.noteMap {r s : State} {f : WdgBack → WdgBack} (hf : ∀ b, (f b).was = b.was) (h : Keeps r s) :
    Keeps r { s with wback := s.wback.map f } := by
  refine Keeps.note (fun x b hb => ?_) h
  obtain ⟨d, hd, rfl⟩ := Option.map_eq_some_iff.1 hb
  rw [hf]; exact x.back d hd

/-- A fold keeps what its step keeps. -/
theorem Keeps.fold {α : Type} {r : State} {f : State → α → State} (hf : ∀ s x, Keeps r s → Keeps r (f s x)) :
    ∀ {l : List α} {s : State}, Keeps r s → Keeps r (l.foldl f s)
  | [], _, h => h
  | x :: t, s, h => Keeps.fold hf (l := t) (hf s x h)

theorem Keeps.fold2 {α β : Type} {r : State} {f : β × State → α → β × State}
    (hf : ∀ p x, Keeps r p.2 → Keeps r (f p x).2) : ∀ {l : List α} {p : β × State}, Keeps r p.2 → Keeps r (l.foldl f p).2
  | [], _, h => h
  | x :: t, p, h => Keeps.fold2 hf (l := t) (hf p x h)

theorem Keeps.fold2_eq {α β : Type} {r u : State} {q : β} {f : β × State → α → β × State} {l : List α} {p : β × State}
    (hf : ∀ p x, Keeps r p.2 → Keeps r (f p x).2) (h : Keeps r p.2) (e : l.foldl f p = (q, u)) : Keeps r u := by
  have g := Keeps.fold2 hf (l := l) h
  rw [e] at g; exact g

theorem Keeps.ite_eq {β : Type} {r u : State} {q : β} {c : Prop} [Decidable c] {a b : β × State}
    (ha : Keeps r a.2) (hb : Keeps r b.2) (e : (if c then a else b) = (q, u)) : Keeps r u := by
  split at e
  · rw [e] at ha; exact ha
  · rw [e] at hb; exact hb

theorem Keeps.ite {r a b : State} {c : Prop} [Decidable c] (ha : Keeps r a) (hb : Keeps r b) :
    Keeps r (if c then a else b) := by
  split <;> assumption

theorem Keeps.ite_snd {β : Type} {r : State} {c : Prop} [Decidable c] {a b : β × State}
    (ha : Keeps r a.2) (hb : Keeps r b.2) : Keeps r (if c then a else b).2 := by
  split <;> assumption

theorem Keeps.fold1 {α β : Type} {r : State} {f : State × β → α → State × β}
    (hf : ∀ p x, Keeps r p.1 → Keeps r (f p x).1) : ∀ {l : List α} {p : State × β}, Keeps r p.1 → Keeps r (l.foldl f p).1
  | [], _, h => h
  | x :: t, p, h => Keeps.fold1 hf (l := t) (hf p x h)

theorem Keeps.fold1_eq {α β : Type} {r u : State} {q : β} {f : State × β → α → State × β} {l : List α} {p : State × β}
    (hf : ∀ p x, Keeps r p.1 → Keeps r (f p x).1) (h : Keeps r p.1) (e : l.foldl f p = (u, q)) : Keeps r u := by
  have g := Keeps.fold1 hf (l := l) h
  rw [e] at g; exact g

theorem forN_keeps {r s : State} {n : Nat} {f : Nat → State → State} (hf : ∀ k s, Keeps r s → Keeps r (f k s))
    (h : Keeps r s) : Keeps r (forN n f s) := Keeps.fold (fun s k => hf k s) h

theorem when'_keeps {r s : State} {c : Bool} {f : State → State} (hf : ∀ s, Keeps r s → Keeps r (f s)) (h : Keeps r s) :
    Keeps r (when' c f s) := by
  unfold when'; split <;> [exact hf s h; exact h]

/-! ## The memories (R47, R398) -/

theorem cellsWf_mono {lo lo' : Option Nat} : ∀ {l : List Host.Cell}, cellsWf lo l = true →
    (∀ a, lo' = some a → ∃ b, lo = some b ∧ a ≤ b) → cellsWf lo' l = true := by
  intro l h hl
  cases l with
  | nil => simp [cellsWf]
  | cons c t =>
    obtain ⟨a, v⟩ := c
    simp only [cellsWf, Bool.and_eq_true] at h ⊢
    refine ⟨⟨?_, h.1.2⟩, h.2⟩
    cases lo' with
    | none => rfl
    | some x =>
      obtain ⟨b, rfl, hb⟩ := hl x rfl
      have := h.1.1
      simp only [decide_eq_true_eq] at this ⊢
      omega

/-- A write keeps the canonical form. -/
theorem cellsWf_cellSet {a : Nat} {v : Byte} : ∀ {l : List Host.Cell} {lo : Option Nat}, cellsWf lo l = true →
    (∀ b, lo = some b → b < a) → cellsWf lo (cellSet l a v) = true := by
  intro l
  induction l with
  | nil =>
    intro lo _ hlo
    unfold cellSet
    split
    · simp [cellsWf]
    · cases lo with
      | none => simpa [cellsWf] using by assumption
      | some b => simpa [cellsWf, hlo b rfl] using by assumption
  | cons c t ih =>
    intro lo h hlo
    obtain ⟨b, w⟩ := c
    simp only [cellsWf, Bool.and_eq_true, bne_iff_ne, ne_eq] at h
    unfold cellSet
    split
    · next e =>
      subst e
      split
      · refine cellsWf_mono h.2 ?_
        intro x hx
        exact ⟨a, rfl, (hlo x hx).le⟩
      · simp only [cellsWf, Bool.and_eq_true, bne_iff_ne, ne_eq]
        exact ⟨⟨h.1.1, by assumption⟩, h.2⟩
    · split
      · split
        · simp only [cellsWf, Bool.and_eq_true, bne_iff_ne, ne_eq]; exact h
        · simp only [cellsWf, Bool.and_eq_true, bne_iff_ne, ne_eq, decide_eq_true_eq]
          refine ⟨⟨?_, by assumption⟩, ⟨by assumption, h.1.2⟩, h.2⟩
          cases lo with
          | none => rfl
          | some x => simpa using hlo x rfl
      · simp only [cellsWf, Bool.and_eq_true, bne_iff_ne, ne_eq]
        refine ⟨h.1, ih h.2 ?_⟩
        rintro x ⟨⟩
        omega

/-- Every entry of the list with one byte written is an old entry or the new one. -/
theorem mem_cellSet {a : Nat} {v : Byte} {c : Host.Cell} : ∀ {l : List Host.Cell}, c ∈ cellSet l a v → c ∈ l ∨ c = (a, v) := by
  intro l
  induction l with
  | nil => unfold cellSet; split <;> simp
  | cons d t ih =>
    obtain ⟨b, w⟩ := d
    unfold cellSet
    split
    · split <;> (simp only [List.mem_cons]; tauto)
    · split
      · split <;> (simp only [List.mem_cons]; tauto)
      · simp only [List.mem_cons]
        rintro (h | h)
        · tauto
        · rcases ih h with h | h <;> tauto

/-- A write inside shared RAM keeps its canonical form. -/
theorem ramWf_cellSet {l : List Host.Cell} {a : Nat} {v : Byte} (h : ramWf l = true) (ha : inRam a 1 = true) :
    ramWf (cellSet l a v) = true := by
  simp only [ramWf, Bool.and_eq_true, List.all_eq_true, inRam, decide_eq_true_eq] at h ha ⊢
  refine ⟨cellsWf_cellSet h.1 (by simp), fun c hc => ?_⟩
  rcases mem_cellSet hc with hc | rfl
  · exact h.2 c hc
  · simp only; omega

theorem ramPut_keeps {r s : State} {a : Nat} {v : Byte} (h : Keeps r s) : Keeps r (ramPut a v s) := by
  unfold ramPut
  split
  · exact ⟨h.pending, fun x => { h.legal x with ram := ramWf_cellSet (h.legal x).ram (by assumption) }, h.frm, h.fidx, h.fuses⟩
  · exact h

theorem ramWrite_keeps {r : State} : ∀ {l : List Byte} {s : State} {a : Nat}, Keeps r s → Keeps r (ramWrite a l s)
  | [], _, _, h => h
  | _ :: t, _, _, h => ramWrite_keeps (l := t) (ramPut_keeps h)

theorem psWrite_keeps {r : State} {b : Bool} : ∀ {l : List Byte} {s : State} {a : Nat}, Keeps r s →
    Keeps r (psWrite b a l s)
  | [], _, _, h => h
  | x :: t, s, a, h => by
    unfold psWrite
    refine psWrite_keeps (l := t) ⟨h.pending, fun y => ?_, h.frm, h.fidx, h.fuses⟩
    exact { h.legal y with store := cellsWf_cellSet (h.legal y).store (by simp) }

/-! ## Records with parts that `Legal` speaks of -/

theorem modStore_keeps {r s : State} {f : Store → Store} (hf : (f s.store).bytes = s.store.bytes) (h : Keeps r s) :
    Keeps r (modStore f s) := Keeps.same (s := s) rfl rfl rfl hf rfl rfl rfl rfl rfl rfl rfl h

/-- A change of the collector that leaves the log and the history, or keeps their bounds. -/
theorem modFlt_keeps {r s : State} {f : Flt → Flt} (hl : (f s.flt).log = s.flt.log ∨ (f s.flt).log.length ≤ 256)
    (hh : (f s.flt).hist = s.flt.hist ∨ (f s.flt).hist.length ≤ 16) (h : Keeps r s) : Keeps r (modFlt f s) :=
  ⟨h.pending, fun x => { h.legal x with
    log := hl.elim (fun e => by simp only [modFlt]; rw [e]; exact (h.legal x).log) id
    hist := hh.elim (fun e => by simp only [modFlt]; rw [e]; exact (h.legal x).hist) id },
    h.frm, h.fidx, h.fuses⟩

/-- A change of the collector that leaves the log and the history no longer than they are. -/
theorem modFlt_shorter {r s : State} {f : Flt → Flt} (hl : (f s.flt).log.length ≤ s.flt.log.length)
    (hh : (f s.flt).hist.length ≤ s.flt.hist.length) (h : Keeps r s) : Keeps r (modFlt f s) :=
  ⟨h.pending, fun x => { h.legal x with log := hl.trans (h.legal x).log, hist := hh.trans (h.legal x).hist }, h.frm, h.fidx,
    h.fuses⟩

theorem modSup_keeps {r s : State} {f : Sup → Sup} (hf : (f s.sup).fuses = s.sup.fuses) (h : Keeps r s) :
    Keeps r (modSup f s) := Keeps.same (s := s) rfl rfl rfl rfl rfl rfl rfl rfl rfl hf rfl h

/-- A change of the tags that keeps them distinct. -/
theorem putTags_keeps {r s : State} {l : List TagRec}
    (hl : (s.rng.tags.map (fun t => t.tag)).Nodup → (l.map (fun t => t.tag)).Nodup) (h : Keeps r s) : Keeps r (putTags l s) :=
  ⟨h.pending, fun x => { h.legal x with tags := hl (h.legal x).tags }, h.frm, h.fidx, h.fuses⟩

theorem tags_filter {l : List TagRec} {p : TagRec → Bool} (h : (l.map (fun t => t.tag)).Nodup) :
    ((l.filter p).map (fun t => t.tag)).Nodup := (List.filter_sublist.map _).nodup h

theorem tags_map {l : List TagRec} {f : TagRec → TagRec} (hf : ∀ t, (f t).tag = t.tag) (h : (l.map (fun t => t.tag)).Nodup) :
    ((l.map f).map (fun t => t.tag)).Nodup := by
  rw [List.map_map]
  have e : ((fun t : TagRec => t.tag) ∘ f) = fun t => t.tag := funext hf
  rw [e]; exact h

/-- The tag that a POST takes is held by no operation. -/
theorem postTag_free {s : State} {c o k : Nat} (hk : postTag c o s = some k) : s.rng.tags.any (fun t => t.tag == k) = false := by
  have g := List.find?_some hk
  simp only [Bool.and_eq_true, Bool.not_eq_true'] at g
  exact g.1

theorem tags_free {s : State} {c o k : Nat} (hk : postTag c o s = some k) {t : TagRec} (ht : t.tag = k)
    (h : (s.rng.tags.map (fun t => t.tag)).Nodup) : ((s.rng.tags ++ [t]).map (fun t => t.tag)).Nodup := by
  have g := postTag_free hk
  simp only [List.any_eq_false, beq_iff_eq] at g
  rw [List.map_append, List.nodup_append]
  refine ⟨h, by simp, ?_⟩
  intro a ha b hb
  simp only [List.map_cons, List.map_nil, List.mem_singleton] at hb
  obtain ⟨x, hx, rfl⟩ := List.mem_map.1 ha
  rw [hb, ht]
  exact g x hx

end Sys2Proof.Machine
end

