-- ==== Sys2Proof/Laws/KeepsOps.lean ====
section
/-!
SUPPORT. What the operations of Machine/Ops.lean keep: the queue, and the legality of the state.
-/

namespace Sys2Proof.Machine

open Sys2Proof

set_option linter.unusedTactic false
set_option linter.unreachableTactic false
set_option linter.unusedVariables false

theorem wr_keeps {r : State} {a v : Nat} {s : State} (h : Keeps r s) : Keeps r (wr a v s) := by
  unfold wr
  repeat' (first
    | with_reducible assumption
    | with_reducible rfl
    | ((try lift_lets -underBinder); intro x; refine (fun (hx : Keeps r x) => ?_) ?_; clear_value x; on_goal 2 => subst x)
    | ((try lift_lets -underBinder); intro x; subst x)
    | split
    | with_reducible refine Keeps.upd rfl rfl rfl rfl rfl rfl rfl rfl rfl ?_)

theorem parWrite_keeps {r : State} {a m : Nat} {s : State} (h : Keeps r s) : Keeps r (parWrite a m s) := by
  unfold parWrite
  repeat' (first
    | with_reducible assumption
    | with_reducible rfl
    | ((try lift_lets -underBinder); intro x; refine (fun (hx : Keeps r x) => ?_) ?_; clear_value x; on_goal 2 => subst x)
    | ((try lift_lets -underBinder); intro x; subst x)
    | split
    | with_reducible refine Keeps.upd rfl rfl rfl rfl rfl rfl rfl rfl rfl ?_)

theorem setF_keeps {r : State} {f : Fld} {x : Nat} {s : State} (h : Keeps r s) : Keeps r (setF f x s) := by
  unfold setF
  repeat' (first
    | with_reducible assumption
    | with_reducible refine wr_keeps ?_
    | with_reducible rfl
    | ((try lift_lets -underBinder); intro x; refine (fun (hx : Keeps r x) => ?_) ?_; clear_value x; on_goal 2 => subst x)
    | ((try lift_lets -underBinder); intro x; subst x)
    | split
    | with_reducible refine Keeps.upd rfl rfl rfl rfl rfl rfl rfl rfl rfl ?_)

theorem setB_keeps {r : State} {f : Fld} {b : Bool} {s : State} (h : Keeps r s) : Keeps r (setB f b s) := by
  unfold setB
  repeat' (first
    | with_reducible assumption
    | with_reducible refine setF_keeps ?_
    | with_reducible rfl
    | ((try lift_lets -underBinder); intro x; refine (fun (hx : Keeps r x) => ?_) ?_; clear_value x; on_goal 2 => subst x)
    | ((try lift_lets -underBinder); intro x; subst x)
    | split
    | with_reducible refine Keeps.upd rfl rfl rfl rfl rfl rfl rfl rfl rfl ?_)

theorem incSat_keeps {r : State} {f : Fld} {s : State} (h : Keeps r s) : Keeps r (incSat f s) := by
  unfold incSat
  repeat' (first
    | with_reducible assumption
    | with_reducible refine setF_keeps ?_
    | with_reducible rfl
    | ((try lift_lets -underBinder); intro x; refine (fun (hx : Keeps r x) => ?_) ?_; clear_value x; on_goal 2 => subst x)
    | ((try lift_lets -underBinder); intro x; subst x)
    | split
    | with_reducible refine Keeps.upd rfl rfl rfl rfl rfl rfl rfl rfl rfl ?_)

theorem incWrap_keeps {r : State} {f : Fld} {s : State} (h : Keeps r s) : Keeps r (incWrap f s) := by
  unfold incWrap
  repeat' (first
    | with_reducible assumption
    | with_reducible refine setF_keeps ?_
    | with_reducible rfl
    | ((try lift_lets -underBinder); intro x; refine (fun (hx : Keeps r x) => ?_) ?_; clear_value x; on_goal 2 => subst x)
    | ((try lift_lets -underBinder); intro x; subst x)
    | split
    | with_reducible refine Keeps.upd rfl rfl rfl rfl rfl rfl rfl rfl rfl ?_)

theorem lwr_keeps {r : State} {a v : Nat} {s : State} (h : Keeps r s) : Keeps r (lwr a v s) := by
  unfold lwr
  repeat' (first
    | with_reducible assumption
    | with_reducible rfl
    | ((try lift_lets -underBinder); intro x; refine (fun (hx : Keeps r x) => ?_) ?_; clear_value x; on_goal 2 => subst x)
    | ((try lift_lets -underBinder); intro x; subst x)
    | split
    | with_reducible refine Keeps.upd rfl rfl rfl rfl rfl rfl rfl rfl rfl ?_)

theorem lsetF_keeps {r : State} {f : Fld} {x : Nat} {s : State} (h : Keeps r s) : Keeps r (lsetF f x s) := by
  unfold lsetF
  repeat' (first
    | with_reducible assumption
    | with_reducible refine lwr_keeps ?_
    | with_reducible rfl
    | ((try lift_lets -underBinder); intro x; refine (fun (hx : Keeps r x) => ?_) ?_; clear_value x; on_goal 2 => subst x)
    | ((try lift_lets -underBinder); intro x; subst x)
    | split
    | with_reducible refine Keeps.upd rfl rfl rfl rfl rfl rfl rfl rfl rfl ?_)

theorem mark_keeps {r : State} {a : Nat} {host : Bool} {s : State} (h : Keeps r s) : Keeps r (mark a host s) := by
  unfold mark
  repeat' (first
    | with_reducible assumption
    | with_reducible rfl
    | ((try lift_lets -underBinder); intro x; refine (fun (hx : Keeps r x) => ?_) ?_; clear_value x; on_goal 2 => subst x)
    | ((try lift_lets -underBinder); intro x; subst x)
    | split
    | with_reducible refine Keeps.upd rfl rfl rfl rfl rfl rfl rfl rfl rfl ?_)

theorem clearMarks_keeps {r : State} {p : Nat → Bool} {s : State} (h : Keeps r s) : Keeps r (clearMarks p s) := by
  unfold clearMarks
  repeat' (first
    | with_reducible assumption
    | with_reducible refine parWrite_keeps ?_
    | with_reducible refine wr_keeps ?_
    | with_reducible refine Keeps.fold (fun _ _ _ => ?_) ?_
    | with_reducible rfl
    | ((try lift_lets -underBinder); intro x; refine (fun (hx : Keeps r x) => ?_) ?_; clear_value x; on_goal 2 => subst x)
    | ((try lift_lets -underBinder); intro x; subst x)
    | split
    | with_reducible refine Keeps.upd rfl rfl rfl rfl rfl rfl rfl rfl rfl ?_)

theorem putEng_keeps {r : State} {e : EngId} {x : Eng} {s : State} (h : Keeps r s) : Keeps r (putEng e x s) := by
  unfold putEng
  repeat' (first
    | with_reducible assumption
    | with_reducible rfl
    | ((try lift_lets -underBinder); intro x; refine (fun (hx : Keeps r x) => ?_) ?_; clear_value x; on_goal 2 => subst x)
    | ((try lift_lets -underBinder); intro x; subst x)
    | split
    | with_reducible refine Keeps.upd rfl rfl rfl rfl rfl rfl rfl rfl rfl ?_)

theorem modEng_keeps {r : State} {e : EngId} {f : Eng → Eng} {s : State} (h : Keeps r s) : Keeps r (modEng e f s) := by
  unfold modEng
  repeat' (first
    | with_reducible assumption
    | with_reducible refine putEng_keeps ?_
    | with_reducible rfl
    | ((try lift_lets -underBinder); intro x; refine (fun (hx : Keeps r x) => ?_) ?_; clear_value x; on_goal 2 => subst x)
    | ((try lift_lets -underBinder); intro x; subst x)
    | split
    | with_reducible refine Keeps.upd rfl rfl rfl rfl rfl rfl rfl rfl rfl ?_)

theorem useSeed_keeps {r : State} {s : State} (h : Keeps r s) : Keeps r (useSeed s) := by
  unfold useSeed
  repeat' (first
    | with_reducible assumption
    | with_reducible rfl
    | ((try lift_lets -underBinder); intro x; refine (fun (hx : Keeps r x) => ?_) ?_; clear_value x; on_goal 2 => subst x)
    | ((try lift_lets -underBinder); intro x; subst x)
    | split
    | with_reducible refine Keeps.upd rfl rfl rfl rfl rfl rfl rfl rfl rfl ?_)

theorem ramWriteNat_keeps {r : State} {a n v : Nat} {s : State} (h : Keeps r s) : Keeps r (ramWriteNat a n v s) := by
  unfold ramWriteNat
  repeat' (first
    | with_reducible assumption
    | with_reducible refine ramWrite_keeps ?_
    | with_reducible rfl
    | ((try lift_lets -underBinder); intro x; refine (fun (hx : Keeps r x) => ?_) ?_; clear_value x; on_goal 2 => subst x)
    | ((try lift_lets -underBinder); intro x; subst x)
    | split
    | with_reducible refine Keeps.upd rfl rfl rfl rfl rfl rfl rfl rfl rfl ?_)

theorem logPut_keeps {r : State} {typ code det : Nat} {s : State} (h : Keeps r s) : Keeps r (logPut typ code det s) := by
  unfold logPut
  repeat' (first
    | with_reducible assumption
    | with_reducible rfl
    | ((try lift_lets -underBinder); intro x; refine (fun (hx : Keeps r x) => ?_) ?_; clear_value x; on_goal 2 => subst x)
    | ((try lift_lets -underBinder); intro x; subst x)
    | split
    | with_reducible refine Keeps.upd rfl rfl rfl rfl rfl rfl rfl rfl rfl ?_)

theorem raise'_keeps {r : State} {src cls : Nat} {unit : Option Nat} {det : Nat} {s : State} (h : Keeps r s) : Keeps r
    (raise' src cls unit det s) := by
  unfold raise'
  repeat' (first
    | with_reducible assumption
    | with_reducible rfl
    | ((try lift_lets -underBinder); intro x; refine (fun (hx : Keeps r x) => ?_) ?_; clear_value x; on_goal 2 => subst x)
    | ((try lift_lets -underBinder); intro x; subst x)
    | split
    | with_reducible refine Keeps.upd rfl rfl rfl rfl rfl rfl rfl rfl rfl ?_)

theorem notify_keeps {r : State} {bit : Nat} {s : State} (h : Keeps r s) : Keeps r (notify bit s) := by
  unfold notify
  repeat' (first
    | with_reducible assumption
    | with_reducible refine setF_keeps ?_
    | with_reducible rfl
    | ((try lift_lets -underBinder); intro x; refine (fun (hx : Keeps r x) => ?_) ?_; clear_value x; on_goal 2 => subst x)
    | ((try lift_lets -underBinder); intro x; subst x)
    | split
    | with_reducible refine Keeps.upd rfl rfl rfl rfl rfl rfl rfl rfl rfl ?_)

end Sys2Proof.Machine
end

