-- ==== Sys2Proof/Laws/KeepsRamOps.lean ====
section
/-!
SUPPORT. What the operations of Machine/RamOps.lean keep: the queue, and the legality of the state.
-/

namespace Sys2Proof.Machine

open Sys2Proof

set_option linter.unusedTactic false
set_option linter.unreachableTactic false
set_option linter.unusedVariables false

theorem injDone_keeps {r : State} {tgt : Nat} {s : State} (h : Keeps r s) : Keeps r (injDone tgt s) := by
  unfold injDone
  repeat' (first
    | with_reducible assumption
    | with_reducible refine setF_keeps ?_
    | with_reducible rfl
    | ((try lift_lets -underBinder); intro x; refine (fun (hx : Keeps r x) => ?_) ?_; clear_value x; on_goal 2 => subst x)
    | ((try lift_lets -underBinder); intro x; subst x)
    | split
    | with_reducible refine Keeps.upd rfl rfl rfl rfl rfl rfl rfl rfl rfl ?_)

theorem ramErrClear_keeps {r : State} {w : Nat} {s : State} (h : Keeps r s) : Keeps r (ramErrClear w s) := by
  unfold ramErrClear
  repeat' (first
    | with_reducible assumption
    | with_reducible rfl
    | ((try lift_lets -underBinder); intro x; refine (fun (hx : Keeps r x) => ?_) ?_; clear_value x; on_goal 2 => subst x)
    | ((try lift_lets -underBinder); intro x; subst x)
    | split
    | with_reducible refine Keeps.upd rfl rfl rfl rfl rfl rfl rfl rfl rfl ?_)

theorem ramCheck_keeps {r : State} {who : Option EngId} {a : Nat} {s : State} (h : Keeps r s) : Keeps r (ramCheck who a s).2
    := by
  unfold ramCheck
  repeat' (first
    | with_reducible assumption
    | with_reducible refine injDone_keeps ?_
    | with_reducible refine raise'_keeps ?_
    | with_reducible rfl
    | ((try lift_lets -underBinder); intro x; refine (fun (hx : Keeps r x) => ?_) ?_; clear_value x; on_goal 2 => subst x)
    | ((try lift_lets -underBinder); intro x; subst x)
    | split
    | with_reducible refine Keeps.upd rfl rfl rfl rfl rfl rfl rfl rfl rfl ?_)

theorem ramCheck_keeps_eq {r u : State} {q : Bool} {who : Option EngId} {a : Nat} {s : State} (h : Keeps r s) (hq : ramCheck
    who a s = (q, u)) : Keeps r u := by
  have k := ramCheck_keeps (who := who) (a := a) h
  rw [hq] at k; exact k

theorem ramCheckAll_keeps {r : State} {who : Option EngId} : ∀ {k w : Nat} {s : State}, Keeps r s →
    Keeps r (ramCheckAll who k w s).2
  | 0, _, _, h => h
  | k + 1, w, s, h => by
    unfold ramCheckAll
    have g := ramCheck_keeps (who := who) (a := w) h
    dsimp only
    split
    · exact ramCheckAll_keeps (k := k) g
    · exact g

theorem ramCheckAll_keeps_eq {r u : State} {q : Option Nat} {who : Option EngId} {k w : Nat} {s : State} (h : Keeps r s)
    (e : ramCheckAll who k w s = (q, u)) : Keeps r u := by
  have g := ramCheckAll_keeps (who := who) (k := k) (w := w) h
  rw [e] at g; exact g

theorem ramRead_keeps {r : State} {who : Option EngId} {a n : Nat} {s : State} (h : Keeps r s) : Keeps r (ramRead who a n
    s).2 := by
  unfold ramRead
  repeat' (first
    | with_reducible assumption
    | with_reducible refine ramCheckAll_keeps ?_
    | with_reducible refine ramCheckAll_keeps_eq ?_ (by assumption)
    | with_reducible rfl
    | ((try lift_lets -underBinder); intro x; refine (fun (hx : Keeps r x) => ?_) ?_; clear_value x; on_goal 2 => subst x)
    | ((try lift_lets -underBinder); intro x; subst x)
    | split
    | with_reducible refine Keeps.upd rfl rfl rfl rfl rfl rfl rfl rfl rfl ?_)

theorem ramRead_keeps_eq {r u : State} {q : (Nat ⊕ List Byte)} {who : Option EngId} {a n : Nat} {s : State} (h : Keeps r s)
    (hq : ramRead who a n s = (q, u)) : Keeps r u := by
  have k := ramRead_keeps (who := who) (a := a) (n := n) h
  rw [hq] at k; exact k

theorem ramStore_keeps {r : State} {who : Option EngId} {a size v : Nat} {s : State} (h : Keeps r s) : Keeps r (ramStore who
    a size v s).2 := by
  unfold ramStore
  repeat' (first
    | with_reducible assumption
    | with_reducible refine ramErrClear_keeps ?_
    | with_reducible refine ramWriteNat_keeps ?_
    | with_reducible refine ramCheck_keeps ?_
    | with_reducible refine ramCheck_keeps_eq ?_ (by assumption)
    | with_reducible rfl
    | ((try lift_lets -underBinder); intro x; refine (fun (hx : Keeps r x) => ?_) ?_; clear_value x; on_goal 2 => subst x)
    | ((try lift_lets -underBinder); intro x; subst x)
    | split
    | with_reducible refine Keeps.upd rfl rfl rfl rfl rfl rfl rfl rfl rfl ?_)

theorem ramStore_keeps_eq {r u : State} {q : Bool} {who : Option EngId} {a size v : Nat} {s : State} (h : Keeps r s) (hq :
    ramStore who a size v s = (q, u)) : Keeps r u := by
  have k := ramStore_keeps (who := who) (a := a) (size := size) (v := v) h
  rw [hq] at k; exact k

theorem ramStoreBytes_keeps {r : State} {who : Option EngId} {a : Nat} {bs : List Byte} {s : State} (h : Keeps r s) : Keeps
    r (ramStoreBytes who a bs s).2 := by
  unfold ramStoreBytes
  repeat' (first
    | with_reducible assumption
    | with_reducible refine ramErrClear_keeps ?_
    | with_reducible refine ramWrite_keeps ?_
    | with_reducible refine ramCheck_keeps ?_
    | with_reducible refine ramCheck_keeps_eq ?_ (by assumption)
    | with_reducible refine Keeps.fold (fun _ _ _ => ?_) ?_
    | with_reducible refine Keeps.fold2 (fun _ _ _ => ?_) ?_
    | with_reducible refine Keeps.fold2_eq (fun _ _ _ => ?_) ?_ (by assumption)
    | with_reducible rfl
    | ((try lift_lets -underBinder); intro x; refine (fun (hx : Keeps r x) => ?_) ?_; clear_value x; on_goal 2 => subst x)
    | ((try lift_lets -underBinder); intro x; subst x)
    | split
    | with_reducible refine Keeps.upd rfl rfl rfl rfl rfl rfl rfl rfl rfl ?_)

theorem ramStoreBytes_keeps_eq {r u : State} {q : Bool} {who : Option EngId} {a : Nat} {bs : List Byte} {s : State} (h :
    Keeps r s) (hq : ramStoreBytes who a bs s = (q, u)) : Keeps r u := by
  have k := ramStoreBytes_keeps (who := who) (a := a) (bs := bs) h
  rw [hq] at k; exact k

theorem lineFlipPut_keeps {r : State} {b : Bool} {l : Nat} {fl : List Nat} {s : State} (h : Keeps r s) : Keeps r
    (lineFlipPut b l fl s) := by
  unfold lineFlipPut
  repeat' (first
    | with_reducible assumption
    | with_reducible rfl
    | ((try lift_lets -underBinder); intro x; refine (fun (hx : Keeps r x) => ?_) ?_; clear_value x; on_goal 2 => subst x)
    | ((try lift_lets -underBinder); intro x; subst x)
    | split
    | with_reducible refine Keeps.upd rfl rfl rfl rfl rfl rfl rfl rfl rfl ?_)

theorem lineProgram_keeps {r : State} {b : Bool} {l : Nat} {bs : List Byte} {s : State} (h : Keeps r s) : Keeps r
    (lineProgram b l bs s) := by
  unfold lineProgram
  repeat' (first
    | with_reducible assumption
    | with_reducible refine lineFlipPut_keeps ?_
    | with_reducible refine psWrite_keeps ?_
    | with_reducible rfl
    | ((try lift_lets -underBinder); intro x; refine (fun (hx : Keeps r x) => ?_) ?_; clear_value x; on_goal 2 => subst x)
    | ((try lift_lets -underBinder); intro x; subst x)
    | split
    | with_reducible refine Keeps.upd rfl rfl rfl rfl rfl rfl rfl rfl rfl ?_)

theorem lineDecode_keeps {r : State} {b : Bool} {l : Nat} {s : State} (h : Keeps r s) : Keeps r (lineDecode b l s).2 := by
  unfold lineDecode
  repeat' (first
    | with_reducible assumption
    | with_reducible refine injDone_keeps ?_
    | with_reducible rfl
    | ((try lift_lets -underBinder); intro x; refine (fun (hx : Keeps r x) => ?_) ?_; clear_value x; on_goal 2 => subst x)
    | ((try lift_lets -underBinder); intro x; subst x)
    | split
    | with_reducible refine Keeps.upd rfl rfl rfl rfl rfl rfl rfl rfl rfl ?_)

theorem lineDecode_keeps_eq {r u : State} {q : Nat} {b : Bool} {l : Nat} {s : State} (h : Keeps r s) (hq : lineDecode b l s
    = (q, u)) : Keeps r u := by
  have k := lineDecode_keeps (b := b) (l := l) h
  rw [hq] at k; exact k

theorem psCorr_keeps {r : State} {unit : Option Nat} {b : Bool} {l : Nat} {s : State} (h : Keeps r s) : Keeps r (psCorr unit
    b l s) := by
  unfold psCorr
  repeat' (first
    | with_reducible assumption
    | with_reducible refine raise'_keeps ?_
    | with_reducible refine incSat_keeps ?_
    | with_reducible rfl
    | ((try lift_lets -underBinder); intro x; refine (fun (hx : Keeps r x) => ?_) ?_; clear_value x; on_goal 2 => subst x)
    | ((try lift_lets -underBinder); intro x; subst x)
    | split
    | with_reducible refine Keeps.upd rfl rfl rfl rfl rfl rfl rfl rfl rfl ?_)

theorem psUncor_keeps {r : State} {unit : Option Nat} {b : Bool} {l : Nat} {s : State} (h : Keeps r s) : Keeps r (psUncor
    unit b l s) := by
  unfold psUncor
  repeat' (first
    | with_reducible assumption
    | with_reducible refine raise'_keeps ?_
    | with_reducible refine incSat_keeps ?_
    | with_reducible refine setB_keeps ?_
    | with_reducible refine setF_keeps ?_
    | with_reducible rfl
    | ((try lift_lets -underBinder); intro x; refine (fun (hx : Keeps r x) => ?_) ?_; clear_value x; on_goal 2 => subst x)
    | ((try lift_lets -underBinder); intro x; subst x)
    | split
    | with_reducible refine Keeps.upd rfl rfl rfl rfl rfl rfl rfl rfl rfl ?_)

theorem psReadLine_keeps {r : State} {unit : Option Nat} {eng : Bool} {b : Bool} {l : Nat} {s : State} (h : Keeps r s) :
    Keeps r (psReadLine unit eng b l s).2 := by
  unfold psReadLine
  repeat' (first
    | with_reducible assumption
    | with_reducible refine lineDecode_keeps ?_
    | with_reducible refine lineDecode_keeps_eq ?_ (by assumption)
    | with_reducible refine psCorr_keeps ?_
    | with_reducible refine psUncor_keeps ?_
    | with_reducible rfl
    | ((try lift_lets -underBinder); intro x; refine (fun (hx : Keeps r x) => ?_) ?_; clear_value x; on_goal 2 => subst x)
    | ((try lift_lets -underBinder); intro x; subst x)
    | split
    | with_reducible refine Keeps.upd rfl rfl rfl rfl rfl rfl rfl rfl rfl ?_)

theorem psReadLine_keeps_eq {r u : State} {q : Bool} {unit : Option Nat} {eng : Bool} {b : Bool} {l : Nat} {s : State} (h :
    Keeps r s) (hq : psReadLine unit eng b l s = (q, u)) : Keeps r u := by
  have k := psReadLine_keeps (unit := unit) (eng := eng) (b := b) (l := l) h
  rw [hq] at k; exact k

end Sys2Proof.Machine
end

