-- ==== Sys2Proof/Laws/KeepsRngOps.lean ====
section
/-!
SUPPORT. What the operations of Machine/RngOps.lean keep: the queue, and the legality of the state.
-/

namespace Sys2Proof.Machine

open Sys2Proof

set_option linter.unusedTactic false
set_option linter.unreachableTactic false
set_option linter.unusedVariables false

theorem modSame_keeps {r : State} {f : RngSame → RngSame} {s : State} (h : Keeps r s) : Keeps r (modSame f s) := by
  unfold modSame
  repeat' (first
    | with_reducible assumption
    | with_reducible rfl
    | ((try lift_lets -underBinder); intro x; refine (fun (hx : Keeps r x) => ?_) ?_; clear_value x; on_goal 2 => subst x)
    | ((try lift_lets -underBinder); intro x; subst x)
    | split
    | with_reducible refine Keeps.upd rfl rfl rfl rfl rfl rfl rfl rfl rfl ?_)

theorem putPtr_keeps {r : State} {n : Nat} {p : Nat × Nat} {s : State} (h : Keeps r s) : Keeps r (putPtr n p s) := by
  unfold putPtr
  repeat' (first
    | with_reducible assumption
    | with_reducible rfl
    | ((try lift_lets -underBinder); intro x; refine (fun (hx : Keeps r x) => ?_) ?_; clear_value x; on_goal 2 => subst x)
    | ((try lift_lets -underBinder); intro x; subst x)
    | split
    | with_reducible refine Keeps.upd rfl rfl rfl rfl rfl rfl rfl rfl rfl ?_)

theorem cfgUndo_keeps {r : State} {c n : Nat} {s : State} (h : Keeps r s) : Keeps r (cfgUndo c n s) := by
  unfold cfgUndo
  repeat' (first
    | with_reducible assumption
    | with_reducible refine modSame_keeps ?_
    | with_reducible refine wr_keeps ?_
    | with_reducible refine putPtr_keeps ?_
    | with_reducible refine setF_keeps ?_
    | with_reducible rfl
    | ((try lift_lets -underBinder); intro x; refine (fun (hx : Keeps r x) => ?_) ?_; clear_value x; on_goal 2 => subst x)
    | ((try lift_lets -underBinder); intro x; subst x)
    | split
    | with_reducible refine Keeps.upd rfl rfl rfl rfl rfl rfl rfl rfl rfl ?_)

theorem postNote_keeps {r : State} {c n : Nat} {s : State} (h : Keeps r s) : Keeps r (postNote c n s) := by
  unfold postNote
  repeat' (first
    | with_reducible assumption
    | with_reducible refine modSame_keeps ?_
    | with_reducible rfl
    | ((try lift_lets -underBinder); intro x; refine (fun (hx : Keeps r x) => ?_) ?_; clear_value x; on_goal 2 => subst x)
    | ((try lift_lets -underBinder); intro x; subst x)
    | split
    | with_reducible refine Keeps.upd rfl rfl rfl rfl rfl rfl rfl rfl rfl ?_)

theorem ringPost_keeps {r s : State} {c n : Nat} {ent : List Byte} (h : Keeps r s) : Keeps r (ringPost c n ent s).2 := by
  unfold ringPost
  have h := postNote_keeps (c := c) (n := n) (cfgUndo_keeps (c := c) (n := n) h)
  refine Keeps.ite_snd (setF_keeps h) ?_
  split
  · exact setF_keeps h
  · refine Keeps.ite_snd (setF_keeps h) ?_
    exact setF_keeps (putTags_keeps (tags_free (by assumption) rfl) h)

theorem ringPost_keeps_eq {r u : State} {q : Nat} {c n : Nat} {ent : List Byte} {s : State} (h : Keeps r s)
    (hq : ringPost c n ent s = (q, u)) : Keeps r u := by
  have k := ringPost_keeps (c := c) (n := n) (ent := ent) h
  rw [hq] at k; exact k

theorem ringPop_keeps {r s : State} {c n tag : Nat} (h : Keeps r s) : Keeps r (ringPop c n tag s) := by
  unfold ringPop
  exact modSame_keeps (putPtr_keeps (putTags_keeps tags_filter h))

theorem complete_keeps {r s : State} {tag code detail res0 : Nat} (h : Keeps r s) :
    Keeps r (complete tag code detail res0 s) := by
  unfold complete
  split
  · exact h
  · refine Keeps.ite (putTags_keeps tags_filter h) ?_
    extract_lets n p bytes a was s1 s2 s3 s4
    have h1 : Keeps r s1 := modSame_keeps (ramStoreBytes_keeps h)
    have h2 : Keeps r s2 := putTags_keeps (tags_map fun t => by split <;> rfl) h1
    have h3 : Keeps r s3 := putPtr_keeps h2
    have h4 : Keeps r s4 := Keeps.ite (incSat_keeps h3) h3
    exact Keeps.ite (notify_keeps h4) h4

theorem opStore_keeps {r : State} {t : TagRec} {a : Nat} {bs : List Byte} {s : State} (h : Keeps r s) : Keeps r (opStore t a
    bs s) := by
  unfold opStore
  repeat' (first
    | with_reducible assumption
    | with_reducible refine ramStoreBytes_keeps ?_
    | with_reducible refine ramStoreBytes_keeps_eq ?_ (by assumption)
    | with_reducible rfl
    | ((try lift_lets -underBinder); intro x; refine (fun (hx : Keeps r x) => ?_) ?_; clear_value x; on_goal 2 => subst x)
    | ((try lift_lets -underBinder); intro x; subst x)
    | split
    | with_reducible refine Keeps.upd rfl rfl rfl rfl rfl rfl rfl rfl rfl ?_)

theorem pkbTaken_keeps {r : State} {s : State} (h : Keeps r s) : Keeps r (pkbTaken s) := by
  unfold pkbTaken
  repeat' (first
    | with_reducible assumption
    | with_reducible refine setF_keeps ?_
    | with_reducible rfl
    | ((try lift_lets -underBinder); intro x; refine (fun (hx : Keeps r x) => ?_) ?_; clear_value x; on_goal 2 => subst x)
    | ((try lift_lets -underBinder); intro x; subst x)
    | split
    | with_reducible refine Keeps.upd rfl rfl rfl rfl rfl rfl rfl rfl rfl ?_)

theorem scanTaken_keeps {r : State} {t : TagRec} {s : State} (h : Keeps r s) : Keeps r (scanTaken t s) := by
  unfold scanTaken
  repeat' (first
    | with_reducible assumption
    | with_reducible refine wr_keeps ?_
    | with_reducible rfl
    | ((try lift_lets -underBinder); intro x; refine (fun (hx : Keeps r x) => ?_) ?_; clear_value x; on_goal 2 => subst x)
    | ((try lift_lets -underBinder); intro x; subst x)
    | split
    | with_reducible refine Keeps.upd rfl rfl rfl rfl rfl rfl rfl rfl rfl ?_)

theorem dispatch_keeps {r s : State} {u : Nat} (h : Keeps r s) : Keeps r (dispatch u s) := by
  unfold dispatch
  split
  · exact h
  · refine Keeps.ite (complete_keeps h) (Keeps.ite (complete_keeps (Keeps.upd rfl rfl rfl rfl rfl rfl rfl rfl rfl h)) (Keeps.ite h ?_))
    next t _ =>
    have h : Keeps r (if u = 3 then pkbTaken s else if u = 4 then scanTaken t s else s) :=
      Keeps.ite (pkbTaken_keeps h) (Keeps.ite (scanTaken_keeps h) h)
    exact ⟨h.pending, fun x => { h.legal x with tags := tags_map (fun t => by split <;> rfl) (h.legal x).tags }, h.frm, h.fidx,
      h.fuses⟩

theorem endUndo_keeps {r : State} {t : TagRec} {s : State} (h : Keeps r s) : Keeps r (endUndo t s) := by
  unfold endUndo
  repeat' (first
    | with_reducible assumption
    | with_reducible refine ramStoreBytes_keeps ?_
    | with_reducible refine ramStoreBytes_keeps_eq ?_ (by assumption)
    | with_reducible rfl
    | ((try lift_lets -underBinder); intro x; refine (fun (hx : Keeps r x) => ?_) ?_; clear_value x; on_goal 2 => subst x)
    | ((try lift_lets -underBinder); intro x; subst x)
    | split
    | with_reducible refine Keeps.upd rfl rfl rfl rfl rfl rfl rfl rfl rfl ?_)

theorem ringReset_keeps {r s : State} {p : Nat → Bool} (h : Keeps r s) : Keeps r (ringReset p s) := by
  unfold ringReset
  refine setF_keeps (Keeps.fold (fun t n g => ?_) (putTags_keeps (fun x => tags_map (fun t => by split <;> rfl) (tags_filter x))
    (Keeps.fold (fun t x g => endUndo_keeps g) h)))
  exact Keeps.ite (setF_keeps (setF_keeps (setF_keeps (putPtr_keeps g)))) g

theorem fenceEnded_keeps {r : State} {u : Nat} {s : State} (h : Keeps r s) : Keeps r (fenceEnded u s) := by
  unfold fenceEnded
  repeat' (first
    | with_reducible assumption
    | with_reducible refine ramStoreBytes_keeps ?_
    | with_reducible refine ramStoreBytes_keeps_eq ?_ (by assumption)
    | with_reducible rfl
    | ((try lift_lets -underBinder); intro x; refine (fun (hx : Keeps r x) => ?_) ?_; clear_value x; on_goal 2 => subst x)
    | ((try lift_lets -underBinder); intro x; subst x)
    | split
    | with_reducible refine Keeps.upd rfl rfl rfl rfl rfl rfl rfl rfl rfl ?_)

theorem fenceUnitOp_keeps {r : State} {u : Nat} {s : State} (h : Keeps r s) : Keeps r (fenceUnitOp u s) := by
  unfold fenceUnitOp
  repeat' (first
    | with_reducible assumption
    | with_reducible refine fenceEnded_keeps ?_
    | with_reducible refine complete_keeps ?_
    | with_reducible rfl
    | ((try lift_lets -underBinder); intro x; refine (fun (hx : Keeps r x) => ?_) ?_; clear_value x; on_goal 2 => subst x)
    | ((try lift_lets -underBinder); intro x; subst x)
    | split
    | with_reducible refine Keeps.upd rfl rfl rfl rfl rfl rfl rfl rfl rfl ?_)

end Sys2Proof.Machine
end

