-- ==== Sys2Proof/Laws/KeepsPackOps.lean ====
section
/-!
SUPPORT. What the operations of Machine/PackOps.lean keep: the queue, and the legality of the state.
-/

namespace Sys2Proof.Machine

open Sys2Proof

set_option linter.unusedTactic false
set_option linter.unreachableTactic false
set_option linter.unusedVariables false

theorem putSeq_keeps {r : State} {e : Nat} {q : Seq} {s : State} (h : Keeps r s) : Keeps r (putSeq e q s) := by
  unfold putSeq
  repeat' (first
    | with_reducible assumption
    | with_reducible rfl
    | ((try lift_lets -underBinder); intro x; refine (fun (hx : Keeps r x) => ?_) ?_; clear_value x; on_goal 2 => subst x)
    | ((try lift_lets -underBinder); intro x; subst x)
    | split
    | with_reducible refine Keeps.upd rfl rfl rfl rfl rfl rfl rfl rfl rfl ?_)

theorem seqResult_keeps {r0 : State} {e : Nat} {r : Word} {s : State} (h : Keeps r0 s) : Keeps r0 (seqResult e r s) := by
  unfold seqResult
  repeat' (first
    | with_reducible assumption
    | with_reducible refine setF_keeps ?_
    | with_reducible refine putSeq_keeps ?_
    | with_reducible rfl
    | ((try lift_lets -underBinder); intro x; refine (fun (hx : Keeps r0 x) => ?_) ?_; clear_value x; on_goal 2 => subst x)
    | ((try lift_lets -underBinder); intro x; subst x)
    | split
    | with_reducible refine Keeps.upd rfl rfl rfl rfl rfl rfl rfl rfl rfl ?_)

theorem seqMark_keeps {r : State} {e : Nat} {c : Nat} {s : State} (h : Keeps r s) : Keeps r (seqMark e c s) := by
  unfold seqMark
  repeat' (first
    | with_reducible assumption
    | with_reducible refine setF_keeps ?_
    | with_reducible refine seqResult_keeps ?_
    | with_reducible rfl
    | ((try lift_lets -underBinder); intro x; refine (fun (hx : Keeps r x) => ?_) ?_; clear_value x; on_goal 2 => subst x)
    | ((try lift_lets -underBinder); intro x; subst x)
    | split
    | with_reducible refine Keeps.upd rfl rfl rfl rfl rfl rfl rfl rfl rfl ?_)

theorem seqGo_keeps {r : State} : ∀ {n e : Nat} {s : State}, Keeps r s → Keeps r (seqGo n e s)
  | 0, _, _, h => h
  | n + 1, e, s, h => by
    unfold seqGo
    dsimp only
    split
    · exact Keeps.ite h (Keeps.ite (setF_keeps (putSeq_keeps h))
        (Keeps.ite (seqGo_keeps (seqMark_keeps (putSeq_keeps h))) (putSeq_keeps h)))
    · exact h

theorem seqStart_keeps {r : State} {e : Nat} {s : State} (h : Keeps r s) : Keeps r (seqStart e s) := by
  unfold seqStart
  repeat' (first
    | with_reducible assumption
    | with_reducible refine seqGo_keeps ?_
    | with_reducible rfl
    | ((try lift_lets -underBinder); intro x; refine (fun (hx : Keeps r x) => ?_) ?_; clear_value x; on_goal 2 => subst x)
    | ((try lift_lets -underBinder); intro x; subst x)
    | split
    | with_reducible refine Keeps.upd rfl rfl rfl rfl rfl rfl rfl rfl rfl ?_)

theorem seqPush_keeps {r : State} {e : Nat} {c : Word} {s : State} (h : Keeps r s) : Keeps r (seqPush e c s) := by
  unfold seqPush
  repeat' (first
    | with_reducible assumption
    | with_reducible refine setF_keeps ?_
    | with_reducible refine seqStart_keeps ?_
    | with_reducible refine putSeq_keeps ?_
    | with_reducible rfl
    | ((try lift_lets -underBinder); intro x; refine (fun (hx : Keeps r x) => ?_) ?_; clear_value x; on_goal 2 => subst x)
    | ((try lift_lets -underBinder); intro x; subst x)
    | split
    | with_reducible refine Keeps.upd rfl rfl rfl rfl rfl rfl rfl rfl rfl ?_)

theorem seqPop_keeps {r : State} {e : Nat} {s : State} (h : Keeps r s) : Keeps r (seqPop e s) := by
  unfold seqPop
  repeat' (first
    | with_reducible assumption
    | with_reducible refine putSeq_keeps ?_
    | with_reducible rfl
    | ((try lift_lets -underBinder); intro x; refine (fun (hx : Keeps r x) => ?_) ?_; clear_value x; on_goal 2 => subst x)
    | ((try lift_lets -underBinder); intro x; subst x)
    | split
    | with_reducible refine Keeps.upd rfl rfl rfl rfl rfl rfl rfl rfl rfl ?_)

theorem seqFlush_keeps {r : State} {e : Nat} {s : State} (h : Keeps r s) : Keeps r (seqFlush e s) := by
  unfold seqFlush
  repeat' (first
    | with_reducible assumption
    | with_reducible refine putSeq_keeps ?_
    | with_reducible rfl
    | ((try lift_lets -underBinder); intro x; refine (fun (hx : Keeps r x) => ?_) ?_; clear_value x; on_goal 2 => subst x)
    | ((try lift_lets -underBinder); intro x; subst x)
    | split
    | with_reducible refine Keeps.upd rfl rfl rfl rfl rfl rfl rfl rfl rfl ?_)

theorem seqFlushTx_keeps {r : State} {e : Nat} {s : State} (h : Keeps r s) : Keeps r (seqFlushTx e s) := by
  unfold seqFlushTx
  repeat' (first
    | with_reducible assumption
    | with_reducible refine putSeq_keeps ?_
    | with_reducible rfl
    | ((try lift_lets -underBinder); intro x; refine (fun (hx : Keeps r x) => ?_) ?_; clear_value x; on_goal 2 => subst x)
    | ((try lift_lets -underBinder); intro x; subst x)
    | split
    | with_reducible refine Keeps.upd rfl rfl rfl rfl rfl rfl rfl rfl rfl ?_)

theorem ownRelease_keeps {r : State} {code : Nat} {s : State} (h : Keeps r s) : Keeps r (ownRelease code s) := by
  unfold ownRelease
  repeat' (first
    | with_reducible assumption
    | with_reducible refine setF_keeps ?_
    | with_reducible rfl
    | ((try lift_lets -underBinder); intro x; refine (fun (hx : Keeps r x) => ?_) ?_; clear_value x; on_goal 2 => subst x)
    | ((try lift_lets -underBinder); intro x; subst x)
    | split
    | with_reducible refine Keeps.upd rfl rfl rfl rfl rfl rfl rfl rfl rfl ?_)

theorem peRelease_keeps {r : State} {e : EngId} {s : State} (h : Keeps r s) : Keeps r (peRelease e s) := by
  unfold peRelease
  repeat' (first
    | with_reducible assumption
    | with_reducible refine ownRelease_keeps ?_
    | with_reducible refine seqFlush_keeps ?_
    | with_reducible rfl
    | ((try lift_lets -underBinder); intro x; refine (fun (hx : Keeps r x) => ?_) ?_; clear_value x; on_goal 2 => subst x)
    | ((try lift_lets -underBinder); intro x; subst x)
    | split
    | with_reducible refine Keeps.upd rfl rfl rfl rfl rfl rfl rfl rfl rfl ?_)

theorem pkFawn_keeps {r : State} {s : State} (h : Keeps r s) : Keeps r (pkFawn s) := by
  unfold pkFawn
  repeat' (first
    | with_reducible assumption
    | with_reducible refine putSeq_keeps ?_
    | with_reducible rfl
    | ((try lift_lets -underBinder); intro x; refine (fun (hx : Keeps r x) => ?_) ?_; clear_value x; on_goal 2 => subst x)
    | ((try lift_lets -underBinder); intro x; subst x)
    | split
    | with_reducible refine Keeps.upd rfl rfl rfl rfl rfl rfl rfl rfl rfl ?_)

theorem pkRemoval_keeps {r : State} {s : State} (h : Keeps r s) : Keeps r (pkRemoval s) := by
  unfold pkRemoval
  repeat' (first
    | with_reducible assumption
    | with_reducible refine seqFlush_keeps ?_
    | with_reducible refine setF_keeps ?_
    | with_reducible refine when'_keeps (fun _ _ => ?_) ?_
    | with_reducible refine complete_keeps ?_
    | with_reducible rfl
    | ((try lift_lets -underBinder); intro x; refine (fun (hx : Keeps r x) => ?_) ?_; clear_value x; on_goal 2 => subst x)
    | ((try lift_lets -underBinder); intro x; subst x)
    | split
    | with_reducible refine Keeps.upd rfl rfl rfl rfl rfl rfl rfl rfl rfl ?_)

theorem presStat_keeps {r : State} {s : State} (h : Keeps r s) : Keeps r (presStat s) := by
  unfold presStat
  repeat' (first
    | with_reducible assumption
    | with_reducible refine setB_keeps ?_
    | with_reducible rfl
    | ((try lift_lets -underBinder); intro x; refine (fun (hx : Keeps r x) => ?_) ?_; clear_value x; on_goal 2 => subst x)
    | ((try lift_lets -underBinder); intro x; subst x)
    | split
    | with_reducible refine Keeps.upd rfl rfl rfl rfl rfl rfl rfl rfl rfl ?_)

end Sys2Proof.Machine
end

