-- ==== Sys2Proof/Laws/KeepsEngOps.lean ====
section
/-!
SUPPORT. What the operations of Machine/EngOps.lean keep: the queue, and the legality of the state.
-/

namespace Sys2Proof.Machine

open Sys2Proof

set_option linter.unusedTactic false
set_option linter.unreachableTactic false
set_option linter.unusedVariables false

theorem putJob_keeps {r : State} {j : Option ImpJob} {s : State} (h : Keeps r s) : Keeps r (putJob j s) := by
  unfold putJob
  repeat' (first
    | with_reducible assumption
    | with_reducible rfl
    | ((try lift_lets -underBinder); intro x; refine (fun (hx : Keeps r x) => ?_) ?_; clear_value x; on_goal 2 => subst x)
    | ((try lift_lets -underBinder); intro x; subst x)
    | split
    | with_reducible refine Keeps.upd rfl rfl rfl rfl rfl rfl rfl rfl rfl ?_)

theorem ccReturn_keeps {r : State} {s : State} (h : Keeps r s) : Keeps r (ccReturn s) := by
  unfold ccReturn
  repeat' (first
    | with_reducible assumption
    | with_reducible rfl
    | ((try lift_lets -underBinder); intro x; refine (fun (hx : Keeps r x) => ?_) ?_; clear_value x; on_goal 2 => subst x)
    | ((try lift_lets -underBinder); intro x; subst x)
    | split
    | with_reducible refine Keeps.upd rfl rfl rfl rfl rfl rfl rfl rfl rfl ?_)

theorem putProbe_keeps {r : State} {apk ic : Nat} {s : State} (h : Keeps r s) : Keeps r (putProbe apk ic s) := by
  unfold putProbe
  repeat' (first
    | with_reducible assumption
    | with_reducible refine wr_keeps ?_
    | with_reducible rfl
    | ((try lift_lets -underBinder); intro x; refine (fun (hx : Keeps r x) => ?_) ?_; clear_value x; on_goal 2 => subst x)
    | ((try lift_lets -underBinder); intro x; subst x)
    | split
    | with_reducible refine Keeps.upd rfl rfl rfl rfl rfl rfl rfl rfl rfl ?_)

theorem impIdle_keeps {r : State} {s : State} (h : Keeps r s) : Keeps r (impIdle s) := by
  unfold impIdle
  repeat' (first
    | with_reducible assumption
    | with_reducible refine ccReturn_keeps ?_
    | with_reducible refine setF_keeps ?_
    | with_reducible refine putProbe_keeps ?_
    | with_reducible refine wr_keeps ?_
    | with_reducible refine incWrap_keeps ?_
    | with_reducible rfl
    | ((try lift_lets -underBinder); intro x; refine (fun (hx : Keeps r x) => ?_) ?_; clear_value x; on_goal 2 => subst x)
    | ((try lift_lets -underBinder); intro x; subst x)
    | split
    | with_reducible refine Keeps.upd rfl rfl rfl rfl rfl rfl rfl rfl rfl ?_)

theorem impOrphan_keeps {r : State} {s : State} (h : Keeps r s) : Keeps r (impOrphan s) := by
  unfold impOrphan
  repeat' (first
    | with_reducible assumption
    | with_reducible refine complete_keeps ?_
    | with_reducible refine setF_keeps ?_
    | with_reducible refine impIdle_keeps ?_
    | with_reducible rfl
    | ((try lift_lets -underBinder); intro x; refine (fun (hx : Keeps r x) => ?_) ?_; clear_value x; on_goal 2 => subst x)
    | ((try lift_lets -underBinder); intro x; subst x)
    | split
    | with_reducible refine Keeps.upd rfl rfl rfl rfl rfl rfl rfl rfl rfl ?_)

theorem engRings_keeps {r : State} {e : EngId} {s : State} (h : Keeps r s) : Keeps r (engRings e s) := by
  unfold engRings
  repeat' (first
    | with_reducible assumption
    | with_reducible refine impOrphan_keeps ?_
    | with_reducible refine ringReset_keeps ?_
    | with_reducible rfl
    | ((try lift_lets -underBinder); intro x; refine (fun (hx : Keeps r x) => ?_) ?_; clear_value x; on_goal 2 => subst x)
    | ((try lift_lets -underBinder); intro x; subst x)
    | split
    | with_reducible refine Keeps.upd rfl rfl rfl rfl rfl rfl rfl rfl rfl ?_)

theorem startEngine_keeps {r : State} {e : EngId} {s : State} (h : Keeps r s) : Keeps r (startEngine e s) := by
  unfold startEngine
  repeat' (first
    | with_reducible assumption
    | with_reducible refine modEng_keeps ?_
    | with_reducible rfl
    | ((try lift_lets -underBinder); intro x; refine (fun (hx : Keeps r x) => ?_) ?_; clear_value x; on_goal 2 => subst x)
    | ((try lift_lets -underBinder); intro x; subst x)
    | split
    | with_reducible refine Keeps.upd rfl rfl rfl rfl rfl rfl rfl rfl rfl ?_)

theorem windowFail_keeps {r : State} {e : EngId} {s : State} (h : Keeps r s) : Keeps r (windowFail e s) := by
  unfold windowFail
  repeat' (first
    | with_reducible assumption
    | with_reducible rfl
    | ((try lift_lets -underBinder); intro x; refine (fun (hx : Keeps r x) => ?_) ?_; clear_value x; on_goal 2 => subst x)
    | ((try lift_lets -underBinder); intro x; subst x)
    | split
    | with_reducible refine Keeps.upd rfl rfl rfl rfl rfl rfl rfl rfl rfl ?_)

theorem haltEngine_keeps {r : State} {e : EngId} {cause : Nat} {s : State} (h : Keeps r s) : Keeps r (haltEngine e cause s)
    := by
  unfold haltEngine
  repeat' (first
    | with_reducible assumption
    | with_reducible refine modEng_keeps ?_
    | with_reducible refine windowFail_keeps ?_
    | with_reducible rfl
    | ((try lift_lets -underBinder); intro x; refine (fun (hx : Keeps r x) => ?_) ?_; clear_value x; on_goal 2 => subst x)
    | ((try lift_lets -underBinder); intro x; subst x)
    | split
    | with_reducible refine Keeps.upd rfl rfl rfl rfl rfl rfl rfl rfl rfl ?_)

theorem engMarks_keeps {r : State} {e : EngId} {s : State} (h : Keeps r s) : Keeps r (engMarks e s) := by
  unfold engMarks
  repeat' (first
    | with_reducible assumption
    | with_reducible refine clearMarks_keeps ?_
    | with_reducible rfl
    | ((try lift_lets -underBinder); intro x; refine (fun (hx : Keeps r x) => ?_) ?_; clear_value x; on_goal 2 => subst x)
    | ((try lift_lets -underBinder); intro x; subst x)
    | split
    | with_reducible refine Keeps.upd rfl rfl rfl rfl rfl rfl rfl rfl rfl ?_)

theorem resetEngine_keeps {r : State} {e : EngId} {s : State} (h : Keeps r s) : Keeps r (resetEngine e s) := by
  unfold resetEngine
  repeat' (first
    | with_reducible assumption
    | with_reducible refine engRings_keeps ?_
    | with_reducible refine engMarks_keeps ?_
    | with_reducible refine peRelease_keeps ?_
    | with_reducible refine startEngine_keeps ?_
    | with_reducible rfl
    | ((try lift_lets -underBinder); intro x; refine (fun (hx : Keeps r x) => ?_) ?_; clear_value x; on_goal 2 => subst x)
    | ((try lift_lets -underBinder); intro x; subst x)
    | split
    | with_reducible refine Keeps.upd rfl rfl rfl rfl rfl rfl rfl rfl rfl ?_)

theorem resetKeep_keeps {r : State} {e : EngId} {s : State} (h : Keeps r s) : Keeps r (resetKeep e s) := by
  unfold resetKeep
  repeat' (first
    | with_reducible assumption
    | with_reducible refine peRelease_keeps ?_
    | with_reducible refine startEngine_keeps ?_
    | with_reducible refine modEng_keeps ?_
    | with_reducible rfl
    | ((try lift_lets -underBinder); intro x; refine (fun (hx : Keeps r x) => ?_) ?_; clear_value x; on_goal 2 => subst x)
    | ((try lift_lets -underBinder); intro x; subst x)
    | split
    | with_reducible refine Keeps.upd rfl rfl rfl rfl rfl rfl rfl rfl rfl ?_)

theorem resetAllEngines_keeps {r : State} {s : State} (h : Keeps r s) : Keeps r (resetAllEngines s) := by
  unfold resetAllEngines
  repeat' (first
    | with_reducible assumption
    | with_reducible refine impOrphan_keeps ?_
    | with_reducible refine ringReset_keeps ?_
    | with_reducible refine clearMarks_keeps ?_
    | with_reducible refine resetKeep_keeps ?_
    | with_reducible refine Keeps.fold (fun _ _ _ => ?_) ?_
    | with_reducible rfl
    | ((try lift_lets -underBinder); intro x; refine (fun (hx : Keeps r x) => ?_) ?_; clear_value x; on_goal 2 => subst x)
    | ((try lift_lets -underBinder); intro x; subst x)
    | split
    | with_reducible refine Keeps.upd rfl rfl rfl rfl rfl rfl rfl rfl rfl ?_)

theorem fenceEngine_keeps {r : State} {e : EngId} {s : State} (h : Keeps r s) : Keeps r (fenceEngine e s) := by
  unfold fenceEngine
  repeat' (first
    | with_reducible assumption
    | with_reducible refine windowFail_keeps ?_
    | with_reducible refine modEng_keeps ?_
    | with_reducible refine engRings_keeps ?_
    | with_reducible refine peRelease_keeps ?_
    | with_reducible refine setF_keeps ?_
    | with_reducible rfl
    | ((try lift_lets -underBinder); intro x; refine (fun (hx : Keeps r x) => ?_) ?_; clear_value x; on_goal 2 => subst x)
    | ((try lift_lets -underBinder); intro x; subst x)
    | split
    | with_reducible refine Keeps.upd rfl rfl rfl rfl rfl rfl rfl rfl rfl ?_)

theorem takeException_keeps {r : State} {e : EngId} {cause badaddr : Nat} {epc : Half} {s : State} (h : Keeps r s) : Keeps r
    (takeException e cause badaddr epc s) := by
  unfold takeException
  repeat' (first
    | with_reducible assumption
    | with_reducible refine putEng_keeps ?_
    | with_reducible rfl
    | ((try lift_lets -underBinder); intro x; refine (fun (hx : Keeps r x) => ?_) ?_; clear_value x; on_goal 2 => subst x)
    | ((try lift_lets -underBinder); intro x; subst x)
    | split
    | with_reducible refine Keeps.upd rfl rfl rfl rfl rfl rfl rfl rfl rfl ?_)

theorem returnException_keeps {r : State} {e : EngId} {s : State} (h : Keeps r s) : Keeps r (returnException e s) := by
  unfold returnException
  repeat' (first
    | with_reducible assumption
    | with_reducible refine modEng_keeps ?_
    | with_reducible rfl
    | ((try lift_lets -underBinder); intro x; refine (fun (hx : Keeps r x) => ?_) ?_; clear_value x; on_goal 2 => subst x)
    | ((try lift_lets -underBinder); intro x; subst x)
    | split
    | with_reducible refine Keeps.upd rfl rfl rfl rfl rfl rfl rfl rfl rfl ?_)

end Sys2Proof.Machine
end

