-- ==== Sys2Proof/Laws/KeepsPowerOps.lean ====
section
/-!
SUPPORT. What the operations of Machine/PowerOps.lean keep: the queue, and the legality of the state.
-/

namespace Sys2Proof.Machine

open Sys2Proof

set_option linter.unusedTactic false
set_option linter.unreachableTactic false
set_option linter.unusedVariables false

theorem putPhase_keeps {r : State} {k : Nat} {x : Phase} {s : State} (h : Keeps r s) : Keeps r (putPhase k x s) := by
  unfold putPhase
  repeat' (first
    | with_reducible assumption
    | with_reducible rfl
    | ((try lift_lets -underBinder); intro x; refine (fun (hx : Keeps r x) => ?_) ?_; clear_value x; on_goal 2 => subst x)
    | ((try lift_lets -underBinder); intro x; subst x)
    | split
    | with_reducible refine Keeps.upd rfl rfl rfl rfl rfl rfl rfl rfl rfl ?_)

theorem modPhase_keeps {r : State} {k : Nat} {f : Phase → Phase} {s : State} (h : Keeps r s) : Keeps r (modPhase k f s) := by
  unfold modPhase
  repeat' (first
    | with_reducible assumption
    | with_reducible refine putPhase_keeps ?_
    | with_reducible rfl
    | ((try lift_lets -underBinder); intro x; refine (fun (hx : Keeps r x) => ?_) ?_; clear_value x; on_goal 2 => subst x)
    | ((try lift_lets -underBinder); intro x; subst x)
    | split
    | with_reducible refine Keeps.upd rfl rfl rfl rfl rfl rfl rfl rfl rfl ?_)

theorem modPhases_keeps {r : State} {f : Phase → Phase} {s : State} (h : Keeps r s) : Keeps r (modPhases f s) := by
  unfold modPhases
  repeat' (first
    | with_reducible assumption
    | with_reducible refine forN_keeps (fun _ _ _ => ?_) ?_
    | with_reducible refine modPhase_keeps ?_
    | with_reducible rfl
    | ((try lift_lets -underBinder); intro x; refine (fun (hx : Keeps r x) => ?_) ?_; clear_value x; on_goal 2 => subst x)
    | ((try lift_lets -underBinder); intro x; subst x)
    | split
    | with_reducible refine Keeps.upd rfl rfl rfl rfl rfl rfl rfl rfl rfl ?_)

theorem redivide_keeps {r : State} {s t : State} (h : Keeps r t) : Keeps r (redivide s t) := by
  unfold redivide
  repeat' (first
    | with_reducible assumption
    | with_reducible refine modPhases_keeps ?_
    | with_reducible rfl
    | ((try lift_lets -underBinder); intro x; refine (fun (hx : Keeps r x) => ?_) ?_; clear_value x; on_goal 2 => subst x)
    | ((try lift_lets -underBinder); intro x; subst x)
    | split
    | with_reducible refine Keeps.upd rfl rfl rfl rfl rfl rfl rfl rfl rfl ?_)

theorem restagger_keeps {r : State} {s : State} (h : Keeps r s) : Keeps r (restagger s) := by
  unfold restagger
  repeat' (first
    | with_reducible assumption
    | with_reducible refine modPhase_keeps ?_
    | with_reducible refine Keeps.fold (fun _ _ _ => ?_) ?_
    | with_reducible rfl
    | ((try lift_lets -underBinder); intro x; refine (fun (hx : Keeps r x) => ?_) ?_; clear_value x; on_goal 2 => subst x)
    | ((try lift_lets -underBinder); intro x; subst x)
    | split
    | with_reducible refine Keeps.upd rfl rfl rfl rfl rfl rfl rfl rfl rfl ?_)

theorem applyGofs_keeps {r : State} {s : State} (h : Keeps r s) : Keeps r (applyGofs s) := by
  unfold applyGofs
  repeat' (first
    | with_reducible assumption
    | with_reducible refine restagger_keeps ?_
    | with_reducible rfl
    | ((try lift_lets -underBinder); intro x; refine (fun (hx : Keeps r x) => ?_) ?_; clear_value x; on_goal 2 => subst x)
    | ((try lift_lets -underBinder); intro x; subst x)
    | split
    | with_reducible refine Keeps.upd rfl rfl rfl rfl rfl rfl rfl rfl rfl ?_)

theorem applyFsw_keeps {r : State} {s : State} (h : Keeps r s) : Keeps r (applyFsw s) := by
  unfold applyFsw
  repeat' (first
    | with_reducible assumption
    | with_reducible refine restagger_keeps ?_
    | with_reducible refine redivide_keeps ?_
    | with_reducible rfl
    | ((try lift_lets -underBinder); intro x; refine (fun (hx : Keeps r x) => ?_) ?_; clear_value x; on_goal 2 => subst x)
    | ((try lift_lets -underBinder); intro x; subst x)
    | split
    | with_reducible refine Keeps.upd rfl rfl rfl rfl rfl rfl rfl rfl rfl ?_)

theorem softRestart_keeps {r : State} {s : State} (h : Keeps r s) : Keeps r (softRestart s) := by
  unfold softRestart
  repeat' (first
    | with_reducible assumption
    | with_reducible rfl
    | ((try lift_lets -underBinder); intro x; refine (fun (hx : Keeps r x) => ?_) ?_; clear_value x; on_goal 2 => subst x)
    | ((try lift_lets -underBinder); intro x; subst x)
    | split
    | with_reducible refine Keeps.upd rfl rfl rfl rfl rfl rfl rfl rfl rfl ?_)

theorem firstCycle_keeps {r : State} {s : State} (h : Keeps r s) : Keeps r (firstCycle s) := by
  unfold firstCycle
  repeat' (first
    | with_reducible assumption
    | with_reducible rfl
    | ((try lift_lets -underBinder); intro x; refine (fun (hx : Keeps r x) => ?_) ?_; clear_value x; on_goal 2 => subst x)
    | ((try lift_lets -underBinder); intro x; subst x)
    | split
    | with_reducible refine Keeps.upd rfl rfl rfl rfl rfl rfl rfl rfl rfl ?_)

theorem atOffsets_keeps {r : State} {l : List Nat} {s : State} (h : Keeps r s) : Keeps r (atOffsets l s) := by
  unfold atOffsets
  repeat' (first
    | with_reducible assumption
    | with_reducible refine modPhase_keeps ?_
    | with_reducible refine Keeps.fold (fun _ _ _ => ?_) ?_
    | with_reducible rfl
    | ((try lift_lets -underBinder); intro x; refine (fun (hx : Keeps r x) => ?_) ?_; clear_value x; on_goal 2 => subst x)
    | ((try lift_lets -underBinder); intro x; subst x)
    | split
    | with_reducible refine Keeps.upd rfl rfl rfl rfl rfl rfl rfl rfl rfl ?_)

theorem startRun_keeps {r : State} {n : Nat} {s : State} (h : Keeps r s) : Keeps r (startRun n s) := by
  unfold startRun
  repeat' (first
    | with_reducible assumption
    | with_reducible refine modPhase_keeps ?_
    | with_reducible refine softRestart_keeps ?_
    | with_reducible refine atOffsets_keeps ?_
    | with_reducible refine restagger_keeps ?_
    | with_reducible refine firstCycle_keeps ?_
    | with_reducible refine Keeps.fold (fun _ _ _ => ?_) ?_
    | with_reducible rfl
    | ((try lift_lets -underBinder); intro x; refine (fun (hx : Keeps r x) => ?_) ?_; clear_value x; on_goal 2 => subst x)
    | ((try lift_lets -underBinder); intro x; subst x)
    | split
    | with_reducible refine Keeps.upd rfl rfl rfl rfl rfl rfl rfl rfl rfl ?_)

theorem haltRun_keeps {r : State} {s : State} (h : Keeps r s) : Keeps r (haltRun s) := by
  unfold haltRun
  repeat' (first
    | with_reducible assumption
    | with_reducible refine modPhases_keeps ?_
    | with_reducible refine setF_keeps ?_
    | with_reducible refine softRestart_keeps ?_
    | with_reducible rfl
    | ((try lift_lets -underBinder); intro x; refine (fun (hx : Keeps r x) => ?_) ?_; clear_value x; on_goal 2 => subst x)
    | ((try lift_lets -underBinder); intro x; subst x)
    | split
    | with_reducible refine Keeps.upd rfl rfl rfl rfl rfl rfl rfl rfl rfl ?_)

theorem stopFor_keeps {r : State} {w : StopWhy} {s : State} (h : Keeps r s) : Keeps r (stopFor w s) := by
  unfold stopFor
  repeat' (first
    | with_reducible assumption
    | with_reducible refine haltRun_keeps ?_
    | with_reducible rfl
    | ((try lift_lets -underBinder); intro x; refine (fun (hx : Keeps r x) => ?_) ?_; clear_value x; on_goal 2 => subst x)
    | ((try lift_lets -underBinder); intro x; subst x)
    | split
    | with_reducible refine Keeps.upd rfl rfl rfl rfl rfl rfl rfl rfl rfl ?_)

theorem liftStop_keeps {r : State} {w : StopWhy} {s : State} (h : Keeps r s) : Keeps r (liftStop w s) := by
  unfold liftStop
  repeat' (first
    | with_reducible assumption
    | with_reducible rfl
    | ((try lift_lets -underBinder); intro x; refine (fun (hx : Keeps r x) => ?_) ?_; clear_value x; on_goal 2 => subst x)
    | ((try lift_lets -underBinder); intro x; subst x)
    | split
    | with_reducible refine Keeps.upd rfl rfl rfl rfl rfl rfl rfl rfl rfl ?_)

theorem selectNow_keeps {r : State} {s : State} (h : Keeps r s) : Keeps r (selectNow s) := by
  unfold selectNow
  repeat' (first
    | with_reducible assumption
    | with_reducible refine setF_keeps ?_
    | with_reducible refine setB_keeps ?_
    | with_reducible rfl
    | ((try lift_lets -underBinder); intro x; refine (fun (hx : Keeps r x) => ?_) ?_; clear_value x; on_goal 2 => subst x)
    | ((try lift_lets -underBinder); intro x; subst x)
    | split
    | with_reducible refine Keeps.upd rfl rfl rfl rfl rfl rfl rfl rfl rfl ?_)

theorem ceilings_keeps {r : State} {s : State} (h : Keeps r s) : Keeps r (ceilings s) := by
  unfold ceilings
  repeat' (first
    | with_reducible assumption
    | with_reducible rfl
    | ((try lift_lets -underBinder); intro x; refine (fun (hx : Keeps r x) => ?_) ?_; clear_value x; on_goal 2 => subst x)
    | ((try lift_lets -underBinder); intro x; subst x)
    | split
    | with_reducible refine Keeps.upd rfl rfl rfl rfl rfl rfl rfl rfl rfl ?_)

theorem rampsUs_keeps {r : State} {s : State} (h : Keeps r s) : Keeps r (rampsUs s) := by
  unfold rampsUs
  repeat' (first
    | with_reducible assumption
    | with_reducible rfl
    | ((try lift_lets -underBinder); intro x; refine (fun (hx : Keeps r x) => ?_) ?_; clear_value x; on_goal 2 => subst x)
    | ((try lift_lets -underBinder); intro x; subst x)
    | split
    | with_reducible refine Keeps.upd rfl rfl rfl rfl rfl rfl rfl rfl rfl ?_)

theorem lightLoad_keeps {r : State} {s : State} (h : Keeps r s) : Keeps r (lightLoad s) := by
  unfold lightLoad
  repeat' (first
    | with_reducible assumption
    | with_reducible refine setB_keeps ?_
    | with_reducible rfl
    | ((try lift_lets -underBinder); intro x; refine (fun (hx : Keeps r x) => ?_) ?_; clear_value x; on_goal 2 => subst x)
    | ((try lift_lets -underBinder); intro x; subst x)
    | split
    | with_reducible refine Keeps.upd rfl rfl rfl rfl rfl rfl rfl rfl rfl ?_)

theorem putFast_keeps {r : State} {o : FastObs} {s : State} (h : Keeps r s) : Keeps r (putFast o s) := by
  unfold putFast
  repeat' (first
    | with_reducible assumption
    | with_reducible rfl
    | ((try lift_lets -underBinder); intro x; refine (fun (hx : Keeps r x) => ?_) ?_; clear_value x; on_goal 2 => subst x)
    | ((try lift_lets -underBinder); intro x; subst x)
    | split
    | with_reducible refine Keeps.upd rfl rfl rfl rfl rfl rfl rfl rfl rfl ?_)

theorem pushHist_keeps {r : State} {s : State} (h : Keeps r s) : Keeps r (pushHist s) := by
  unfold pushHist
  repeat' (first
    | with_reducible assumption
    | with_reducible rfl
    | ((try lift_lets -underBinder); intro x; refine (fun (hx : Keeps r x) => ?_) ?_; clear_value x; on_goal 2 => subst x)
    | ((try lift_lets -underBinder); intro x; subst x)
    | split
    | with_reducible refine Keeps.upd rfl rfl rfl rfl rfl rfl rfl rfl rfl ?_)

theorem chgRampUs_keeps {r : State} {s : State} (h : Keeps r s) : Keeps r (chgRampUs s) := by
  unfold chgRampUs
  repeat' (first
    | with_reducible assumption
    | with_reducible refine setF_keeps ?_
    | with_reducible rfl
    | ((try lift_lets -underBinder); intro x; refine (fun (hx : Keeps r x) => ?_) ?_; clear_value x; on_goal 2 => subst x)
    | ((try lift_lets -underBinder); intro x; subst x)
    | split
    | with_reducible refine Keeps.upd rfl rfl rfl rfl rfl rfl rfl rfl rfl ?_)

theorem preUs_keeps {r : State} {s : State} (h : Keeps r s) : Keeps r (preUs s) := by
  unfold preUs
  repeat' (first
    | with_reducible assumption
    | with_reducible refine modPhases_keeps ?_
    | with_reducible rfl
    | ((try lift_lets -underBinder); intro x; refine (fun (hx : Keeps r x) => ?_) ?_; clear_value x; on_goal 2 => subst x)
    | ((try lift_lets -underBinder); intro x; subst x)
    | split
    | with_reducible refine Keeps.upd rfl rfl rfl rfl rfl rfl rfl rfl rfl ?_)

theorem idlePhase_keeps {r : State} {k : Nat} {s : State} (h : Keeps r s) : Keeps r (idlePhase k s) := by
  unfold idlePhase
  repeat' (first
    | with_reducible assumption
    | with_reducible refine modPhase_keeps ?_
    | with_reducible rfl
    | ((try lift_lets -underBinder); intro x; refine (fun (hx : Keeps r x) => ?_) ?_; clear_value x; on_goal 2 => subst x)
    | ((try lift_lets -underBinder); intro x; subst x)
    | split
    | with_reducible refine Keeps.upd rfl rfl rfl rfl rfl rfl rfl rfl rfl ?_)

theorem idleRefresh_keeps {r : State} {s : State} (h : Keeps r s) : Keeps r (idleRefresh s) := by
  unfold idleRefresh
  repeat' (first
    | with_reducible assumption
    | with_reducible refine forN_keeps (fun _ _ _ => ?_) ?_
    | with_reducible refine idlePhase_keeps ?_
    | with_reducible rfl
    | ((try lift_lets -underBinder); intro x; refine (fun (hx : Keeps r x) => ?_) ?_; clear_value x; on_goal 2 => subst x)
    | ((try lift_lets -underBinder); intro x; subst x)
    | split
    | with_reducible refine Keeps.upd rfl rfl rfl rfl rfl rfl rfl rfl rfl ?_)

theorem stopAtZero_keeps {r : State} {s : State} (h : Keeps r s) : Keeps r (stopAtZero s) := by
  unfold stopAtZero
  repeat' (first
    | with_reducible assumption
    | with_reducible refine modPhases_keeps ?_
    | with_reducible rfl
    | ((try lift_lets -underBinder); intro x; refine (fun (hx : Keeps r x) => ?_) ?_; clear_value x; on_goal 2 => subst x)
    | ((try lift_lets -underBinder); intro x; subst x)
    | split
    | with_reducible refine Keeps.upd rfl rfl rfl rfl rfl rfl rfl rfl rfl ?_)

theorem shedSee_keeps {r : State} {s : State} (h : Keeps r s) : Keeps r (shedSee s) := by
  unfold shedSee
  repeat' (first
    | with_reducible assumption
    | with_reducible rfl
    | ((try lift_lets -underBinder); intro x; refine (fun (hx : Keeps r x) => ?_) ?_; clear_value x; on_goal 2 => subst x)
    | ((try lift_lets -underBinder); intro x; subst x)
    | split
    | with_reducible refine Keeps.upd rfl rfl rfl rfl rfl rfl rfl rfl rfl ?_)

theorem shedTick_keeps {r : State} {s : State} (h : Keeps r s) : Keeps r (shedTick s) := by
  unfold shedTick
  repeat' (first
    | with_reducible assumption
    | with_reducible rfl
    | ((try lift_lets -underBinder); intro x; refine (fun (hx : Keeps r x) => ?_) ?_; clear_value x; on_goal 2 => subst x)
    | ((try lift_lets -underBinder); intro x; subst x)
    | split
    | with_reducible refine Keeps.upd rfl rfl rfl rfl rfl rfl rfl rfl rfl ?_)

theorem selectorMove_keeps {r : State} {o : FastObs} {s : State} (h : Keeps r s) : Keeps r (selectorMove o s) := by
  unfold selectorMove
  repeat' (first
    | with_reducible assumption
    | with_reducible refine putFast_keeps ?_
    | with_reducible refine pushHist_keeps ?_
    | with_reducible refine chgRampUs_keeps ?_
    | with_reducible refine rampsUs_keeps ?_
    | with_reducible refine preUs_keeps ?_
    | with_reducible refine setB_keeps ?_
    | with_reducible refine stopAtZero_keeps ?_
    | with_reducible refine ceilings_keeps ?_
    | with_reducible refine selectNow_keeps ?_
    | with_reducible refine haltRun_keeps ?_
    | with_reducible refine startRun_keeps ?_
    | with_reducible refine setF_keeps ?_
    | with_reducible refine lightLoad_keeps ?_
    | with_reducible rfl
    | ((try lift_lets -underBinder); intro x; refine (fun (hx : Keeps r x) => ?_) ?_; clear_value x; on_goal 2 => subst x)
    | ((try lift_lets -underBinder); intro x; subst x)
    | split
    | with_reducible refine Keeps.upd rfl rfl rfl rfl rfl rfl rfl rfl rfl ?_)

theorem selectorUpdate_keeps {r : State} {o : FastObs} {s : State} (h : Keeps r s) : Keeps r (selectorUpdate o s) := by
  unfold selectorUpdate
  repeat' (first
    | with_reducible assumption
    | with_reducible refine shedSee_keeps ?_
    | with_reducible refine selectorMove_keeps ?_
    | with_reducible rfl
    | ((try lift_lets -underBinder); intro x; refine (fun (hx : Keeps r x) => ?_) ?_; clear_value x; on_goal 2 => subst x)
    | ((try lift_lets -underBinder); intro x; subst x)
    | split
    | with_reducible refine Keeps.upd rfl rfl rfl rfl rfl rfl rfl rfl rfl ?_)

theorem legStep_keeps {r : State} {vp vh : Nat} {s : State} (h : Keeps r s) : Keeps r (legStep vp vh s) := by
  unfold legStep
  repeat' (first
    | with_reducible assumption
    | with_reducible rfl
    | ((try lift_lets -underBinder); intro x; refine (fun (hx : Keeps r x) => ?_) ?_; clear_value x; on_goal 2 => subst x)
    | ((try lift_lets -underBinder); intro x; subst x)
    | split
    | with_reducible refine Keeps.upd rfl rfl rfl rfl rfl rfl rfl rfl rfl ?_)

theorem emulator_keeps {r : State} {k : Nat} {a : List (Int × Int)} {s : State} (h : Keeps r s) : Keeps r (emulator k a s) := by
  unfold emulator
  repeat' (first
    | with_reducible assumption
    | with_reducible refine modPhase_keeps ?_
    | with_reducible refine setF_keeps ?_
    | with_reducible refine raise'_keeps ?_
    | with_reducible rfl
    | ((try lift_lets -underBinder); intro x; refine (fun (hx : Keeps r x) => ?_) ?_; clear_value x; on_goal 2 => subst x)
    | ((try lift_lets -underBinder); intro x; subst x)
    | split
    | with_reducible refine Keeps.upd rfl rfl rfl rfl rfl rfl rfl rfl rfl ?_)

theorem countPeak_keeps {r : State} {k : Nat} {hit : Bool} {s : State} (h : Keeps r s) : Keeps r (countPeak k hit s) := by
  unfold countPeak
  repeat' (first
    | with_reducible assumption
    | with_reducible refine modPhase_keeps ?_
    | with_reducible refine incWrap_keeps ?_
    | with_reducible rfl
    | ((try lift_lets -underBinder); intro x; refine (fun (hx : Keeps r x) => ?_) ?_; clear_value x; on_goal 2 => subst x)
    | ((try lift_lets -underBinder); intro x; subst x)
    | split
    | with_reducible refine Keeps.upd rfl rfl rfl rfl rfl rfl rfl rfl rfl ?_)

theorem lastOff_keeps {r : State} {s : State} (h : Keeps r s) : Keeps r (lastOff s) := by
  unfold lastOff
  repeat' (first
    | with_reducible assumption
    | with_reducible refine haltRun_keeps ?_
    | with_reducible rfl
    | ((try lift_lets -underBinder); intro x; refine (fun (hx : Keeps r x) => ?_) ?_; clear_value x; on_goal 2 => subst x)
    | ((try lift_lets -underBinder); intro x; subst x)
    | split
    | with_reducible refine Keeps.upd rfl rfl rfl rfl rfl rfl rfl rfl rfl ?_)

theorem phaseOff_keeps {r : State} {k : Nat} {s : State} (h : Keeps r s) : Keeps r (phaseOff k s) := by
  unfold phaseOff
  repeat' (first
    | with_reducible assumption
    | with_reducible refine modPhase_keeps ?_
    | with_reducible refine haltRun_keeps ?_
    | with_reducible refine restagger_keeps ?_
    | with_reducible rfl
    | ((try lift_lets -underBinder); intro x; refine (fun (hx : Keeps r x) => ?_) ?_; clear_value x; on_goal 2 => subst x)
    | ((try lift_lets -underBinder); intro x; subst x)
    | split
    | with_reducible refine Keeps.upd rfl rfl rfl rfl rfl rfl rfl rfl rfl ?_)

theorem forceCycle_keeps {r : State} {k : Nat} {o : CycleObs} {s : State} (h : Keeps r s) : Keeps r (forceCycle k o s) := by
  unfold forceCycle
  repeat' (first
    | with_reducible assumption
    | with_reducible refine modPhase_keeps ?_
    | with_reducible refine countPeak_keeps ?_
    | with_reducible refine setF_keeps ?_
    | with_reducible rfl
    | ((try lift_lets -underBinder); intro x; refine (fun (hx : Keeps r x) => ?_) ?_; clear_value x; on_goal 2 => subst x)
    | ((try lift_lets -underBinder); intro x; subst x)
    | split
    | with_reducible refine Keeps.upd rfl rfl rfl rfl rfl rfl rfl rfl rfl ?_)

theorem legCycle_keeps {r : State} {k : Nat} {o : CycleObs} {s : State} (h : Keeps r s) : Keeps r (legCycle k o s) := by
  unfold legCycle
  repeat' (first
    | with_reducible assumption
    | with_reducible refine legStep_keeps ?_
    | with_reducible rfl
    | ((try lift_lets -underBinder); intro x; refine (fun (hx : Keeps r x) => ?_) ?_; clear_value x; on_goal 2 => subst x)
    | ((try lift_lets -underBinder); intro x; subst x)
    | split
    | with_reducible refine Keeps.upd rfl rfl rfl rfl rfl rfl rfl rfl rfl ?_)

theorem phaseCycle_keeps {r : State} {k : Nat} {o : CycleObs} {s : State} (h : Keeps r s) : Keeps r (phaseCycle k o s) := by
  unfold phaseCycle
  repeat' (first
    | with_reducible assumption
    | with_reducible refine legCycle_keeps ?_
    | with_reducible refine modPhase_keeps ?_
    | with_reducible refine countPeak_keeps ?_
    | with_reducible refine emulator_keeps ?_
    | with_reducible refine lastOff_keeps ?_
    | with_reducible refine phaseOff_keeps ?_
    | with_reducible refine applyGofs_keeps ?_
    | with_reducible rfl
    | ((try lift_lets -underBinder); intro x; refine (fun (hx : Keeps r x) => ?_) ?_; clear_value x; on_goal 2 => subst x)
    | ((try lift_lets -underBinder); intro x; subst x)
    | split
    | with_reducible refine Keeps.upd rfl rfl rfl rfl rfl rfl rfl rfl rfl ?_)

theorem switchingCycle_keeps {r : State} {k : Nat} {o : CycleObs} {s : State} (h : Keeps r s) : Keeps r (switchingCycle k o
    s) := by
  unfold switchingCycle
  repeat' (first
    | with_reducible assumption
    | with_reducible refine forceCycle_keeps ?_
    | with_reducible refine phaseCycle_keeps ?_
    | with_reducible rfl
    | ((try lift_lets -underBinder); intro x; refine (fun (hx : Keeps r x) => ?_) ?_; clear_value x; on_goal 2 => subst x)
    | ((try lift_lets -underBinder); intro x; subst x)
    | split
    | with_reducible refine Keeps.upd rfl rfl rfl rfl rfl rfl rfl rfl rfl ?_)

theorem addPhase_keeps {r : State} {k : Nat} {s : State} (h : Keeps r s) : Keeps r (addPhase k s) := by
  unfold addPhase
  repeat' (first
    | with_reducible assumption
    | with_reducible refine atOffsets_keeps ?_
    | with_reducible refine restagger_keeps ?_
    | with_reducible refine modPhase_keeps ?_
    | with_reducible refine lightLoad_keeps ?_
    | with_reducible rfl
    | ((try lift_lets -underBinder); intro x; refine (fun (hx : Keeps r x) => ?_) ?_; clear_value x; on_goal 2 => subst x)
    | ((try lift_lets -underBinder); intro x; subst x)
    | split
    | with_reducible refine Keeps.upd rfl rfl rfl rfl rfl rfl rfl rfl rfl ?_)

theorem phaseAddOp_keeps {r : State} {s : State} (h : Keeps r s) : Keeps r (phaseAddOp s) := by
  unfold phaseAddOp
  repeat' (first
    | with_reducible assumption
    | with_reducible refine addPhase_keeps ?_
    | with_reducible rfl
    | ((try lift_lets -underBinder); intro x; refine (fun (hx : Keeps r x) => ?_) ?_; clear_value x; on_goal 2 => subst x)
    | ((try lift_lets -underBinder); intro x; subst x)
    | split
    | with_reducible refine Keeps.upd rfl rfl rfl rfl rfl rfl rfl rfl rfl ?_)

theorem shedPhase_keeps {r : State} {k : Nat} {s : State} (h : Keeps r s) : Keeps r (shedPhase k s) := by
  unfold shedPhase
  repeat' (first
    | with_reducible assumption
    | with_reducible refine restagger_keeps ?_
    | with_reducible refine modPhase_keeps ?_
    | with_reducible rfl
    | ((try lift_lets -underBinder); intro x; refine (fun (hx : Keeps r x) => ?_) ?_; clear_value x; on_goal 2 => subst x)
    | ((try lift_lets -underBinder); intro x; subst x)
    | split
    | with_reducible refine Keeps.upd rfl rfl rfl rfl rfl rfl rfl rfl rfl ?_)

theorem phaseShedOp_keeps {r : State} {s : State} (h : Keeps r s) : Keeps r (phaseShedOp s) := by
  unfold phaseShedOp
  repeat' (first
    | with_reducible assumption
    | with_reducible refine shedPhase_keeps ?_
    | with_reducible rfl
    | ((try lift_lets -underBinder); intro x; refine (fun (hx : Keeps r x) => ?_) ?_; clear_value x; on_goal 2 => subst x)
    | ((try lift_lets -underBinder); intro x; subst x)
    | split
    | with_reducible refine Keeps.upd rfl rfl rfl rfl rfl rfl rfl rfl rfl ?_)

theorem fillPhases_keeps {r : State} {s : State} (h : Keeps r s) : Keeps r (fillPhases s) := by
  unfold fillPhases
  repeat' (first
    | with_reducible assumption
    | with_reducible refine addPhase_keeps ?_
    | with_reducible refine Keeps.fold (fun _ _ _ => ?_) ?_
    | with_reducible rfl
    | ((try lift_lets -underBinder); intro x; refine (fun (hx : Keeps r x) => ?_) ?_; clear_value x; on_goal 2 => subst x)
    | ((try lift_lets -underBinder); intro x; subst x)
    | split
    | with_reducible refine Keeps.upd rfl rfl rfl rfl rfl rfl rfl rfl rfl ?_)

theorem keepCount_keeps {r : State} {s : State} (h : Keeps r s) : Keeps r (keepCount s) := by
  unfold keepCount
  repeat' (first
    | with_reducible assumption
    | with_reducible refine phaseOff_keeps ?_
    | with_reducible refine shedPhase_keeps ?_
    | with_reducible refine fillPhases_keeps ?_
    | with_reducible refine Keeps.fold (fun _ _ _ => ?_) ?_
    | with_reducible rfl
    | ((try lift_lets -underBinder); intro x; refine (fun (hx : Keeps r x) => ?_) ?_; clear_value x; on_goal 2 => subst x)
    | ((try lift_lets -underBinder); intro x; subst x)
    | split
    | with_reducible refine Keeps.upd rfl rfl rfl rfl rfl rfl rfl rfl rfl ?_)

theorem lightLoadEntryOp_keeps {r : State} {s : State} (h : Keeps r s) : Keeps r (lightLoadEntryOp s) := by
  unfold lightLoadEntryOp
  repeat' (first
    | with_reducible assumption
    | with_reducible refine setF_keeps ?_
    | with_reducible rfl
    | ((try lift_lets -underBinder); intro x; refine (fun (hx : Keeps r x) => ?_) ?_; clear_value x; on_goal 2 => subst x)
    | ((try lift_lets -underBinder); intro x; subst x)
    | split
    | with_reducible refine Keeps.upd rfl rfl rfl rfl rfl rfl rfl rfl rfl ?_)

theorem hardOc_keeps {r : State} {k : Nat} {uv : Int} {s : State} (h : Keeps r s) : Keeps r (hardOc k uv s) := by
  unfold hardOc
  repeat' (first
    | with_reducible assumption
    | with_reducible refine phaseOff_keeps ?_
    | with_reducible refine modPhase_keeps ?_
    | with_reducible refine setF_keeps ?_
    | with_reducible refine raise'_keeps ?_
    | with_reducible rfl
    | ((try lift_lets -underBinder); intro x; refine (fun (hx : Keeps r x) => ?_) ?_; clear_value x; on_goal 2 => subst x)
    | ((try lift_lets -underBinder); intro x; subst x)
    | split
    | with_reducible refine Keeps.upd rfl rfl rfl rfl rfl rfl rfl rfl rfl ?_)

theorem readmit_keeps {r : State} {k : Nat} {s : State} (h : Keeps r s) : Keeps r (readmit k s) := by
  unfold readmit
  repeat' (first
    | with_reducible assumption
    | with_reducible refine modPhase_keeps ?_
    | with_reducible refine addPhase_keeps ?_
    | with_reducible rfl
    | ((try lift_lets -underBinder); intro x; refine (fun (hx : Keeps r x) => ?_) ?_; clear_value x; on_goal 2 => subst x)
    | ((try lift_lets -underBinder); intro x; subst x)
    | split
    | with_reducible refine Keeps.upd rfl rfl rfl rfl rfl rfl rfl rfl rfl ?_)

theorem gateFault_keeps {r : State} {k : Nat} {s : State} (h : Keeps r s) : Keeps r (gateFault k s) := by
  unfold gateFault
  repeat' (first
    | with_reducible assumption
    | with_reducible refine phaseOff_keeps ?_
    | with_reducible refine modPhase_keeps ?_
    | with_reducible refine setF_keeps ?_
    | with_reducible refine raise'_keeps ?_
    | with_reducible rfl
    | ((try lift_lets -underBinder); intro x; refine (fun (hx : Keeps r x) => ?_) ?_; clear_value x; on_goal 2 => subst x)
    | ((try lift_lets -underBinder); intro x; subst x)
    | split
    | with_reducible refine Keeps.upd rfl rfl rfl rfl rfl rfl rfl rfl rfl ?_)

theorem imbTick_keeps {r : State} {s : State} (h : Keeps r s) : Keeps r (imbTick s) := by
  unfold imbTick
  repeat' (first
    | with_reducible assumption
    | with_reducible refine forN_keeps (fun _ _ _ => ?_) ?_
    | with_reducible refine modPhase_keeps ?_
    | with_reducible rfl
    | ((try lift_lets -underBinder); intro x; refine (fun (hx : Keeps r x) => ?_) ?_; clear_value x; on_goal 2 => subst x)
    | ((try lift_lets -underBinder); intro x; subst x)
    | split
    | with_reducible refine Keeps.upd rfl rfl rfl rfl rfl rfl rfl rfl rfl ?_)

theorem imbalance_keeps {r : State} {k : Nat} {s : State} (h : Keeps r s) : Keeps r (imbalance k s) := by
  unfold imbalance
  repeat' (first
    | with_reducible assumption
    | with_reducible refine setF_keeps ?_
    | with_reducible refine raise'_keeps ?_
    | with_reducible rfl
    | ((try lift_lets -underBinder); intro x; refine (fun (hx : Keeps r x) => ?_) ?_; clear_value x; on_goal 2 => subst x)
    | ((try lift_lets -underBinder); intro x; subst x)
    | split
    | with_reducible refine Keeps.upd rfl rfl rfl rfl rfl rfl rfl rfl rfl ?_)

theorem bootstrap_keeps {r : State} {k : Nat} {pack : Bool} {mv : Nat} {s : State} (h : Keeps r s) : Keeps r (bootstrap k
    pack mv s) := by
  unfold bootstrap
  repeat' (first
    | with_reducible assumption
    | with_reducible refine modPhase_keeps ?_
    | with_reducible refine raise'_keeps ?_
    | with_reducible rfl
    | ((try lift_lets -underBinder); intro x; refine (fun (hx : Keeps r x) => ?_) ?_; clear_value x; on_goal 2 => subst x)
    | ((try lift_lets -underBinder); intro x; subst x)
    | split
    | with_reducible refine Keeps.upd rfl rfl rfl rfl rfl rfl rfl rfl rfl ?_)

theorem fencePhase_keeps {r : State} {k : Nat} {s : State} (h : Keeps r s) : Keeps r (fencePhase k s) := by
  unfold fencePhase
  repeat' (first
    | with_reducible assumption
    | with_reducible refine fillPhases_keeps ?_
    | with_reducible refine phaseOff_keeps ?_
    | with_reducible rfl
    | ((try lift_lets -underBinder); intro x; refine (fun (hx : Keeps r x) => ?_) ?_; clear_value x; on_goal 2 => subst x)
    | ((try lift_lets -underBinder); intro x; subst x)
    | split
    | with_reducible refine Keeps.upd rfl rfl rfl rfl rfl rfl rfl rfl rfl ?_)

theorem releasePhase_keeps {r : State} {k : Nat} {s : State} (h : Keeps r s) : Keeps r (releasePhase k s) := by
  unfold releasePhase
  repeat' (first
    | with_reducible assumption
    | with_reducible refine modPhase_keeps ?_
    | with_reducible rfl
    | ((try lift_lets -underBinder); intro x; refine (fun (hx : Keeps r x) => ?_) ?_; clear_value x; on_goal 2 => subst x)
    | ((try lift_lets -underBinder); intro x; subst x)
    | split
    | with_reducible refine Keeps.upd rfl rfl rfl rfl rfl rfl rfl rfl rfl ?_)

theorem presetLoops_keeps {r : State} {i : Int} {s : State} (h : Keeps r s) : Keeps r (presetLoops i s) := by
  unfold presetLoops
  repeat' (first
    | with_reducible assumption
    | with_reducible rfl
    | ((try lift_lets -underBinder); intro x; refine (fun (hx : Keeps r x) => ?_) ?_; clear_value x; on_goal 2 => subst x)
    | ((try lift_lets -underBinder); intro x; subst x)
    | split
    | with_reducible refine Keeps.upd rfl rfl rfl rfl rfl rfl rfl rfl rfl ?_)

theorem handoverRun_keeps {r : State} {s : State} (h : Keeps r s) : Keeps r (handoverRun s) := by
  unfold handoverRun
  repeat' (first
    | with_reducible assumption
    | with_reducible refine setF_keeps ?_
    | with_reducible refine firstCycle_keeps ?_
    | with_reducible refine modPhase_keeps ?_
    | with_reducible refine presetLoops_keeps ?_
    | with_reducible refine restagger_keeps ?_
    | with_reducible refine Keeps.fold (fun _ _ _ => ?_) ?_
    | with_reducible rfl
    | ((try lift_lets -underBinder); intro x; refine (fun (hx : Keeps r x) => ?_) ?_; clear_value x; on_goal 2 => subst x)
    | ((try lift_lets -underBinder); intro x; subst x)
    | split
    | with_reducible refine Keeps.upd rfl rfl rfl rfl rfl rfl rfl rfl rfl ?_)

end Sys2Proof.Machine
end

