-- ==== Sys2Proof/Laws/KeepsChgBase.lean ====
section
/-!
SUPPORT. What the operations of Machine/ChgBase.lean keep: the queue, and the legality of the state.
-/

namespace Sys2Proof.Machine

open Sys2Proof

set_option linter.unusedTactic false
set_option linter.unreachableTactic false
set_option linter.unusedVariables false

theorem latchLeave_keeps {r : State} {s : State} (h : Keeps r s) : Keeps r (latchLeave s) := by
  unfold latchLeave
  repeat' (first
    | with_reducible assumption
    | with_reducible rfl
    | ((try lift_lets -underBinder); intro x; refine (fun (hx : Keeps r x) => ?_) ?_; clear_value x; on_goal 2 => subst x)
    | ((try lift_lets -underBinder); intro x; subst x)
    | split
    | with_reducible refine Keeps.upd rfl rfl rfl rfl rfl rfl rfl rfl rfl ?_)

theorem latchClear_keeps {r : State} {s : State} (h : Keeps r s) : Keeps r (latchClear s) := by
  unfold latchClear
  repeat' (first
    | with_reducible assumption
    | with_reducible refine presStat_keeps ?_
    | with_reducible refine wr_keeps ?_
    | with_reducible refine setF_keeps ?_
    | with_reducible refine Keeps.fold (fun _ _ _ => ?_) ?_
    | with_reducible rfl
    | ((try lift_lets -underBinder); intro x; refine (fun (hx : Keeps r x) => ?_) ?_; clear_value x; on_goal 2 => subst x)
    | ((try lift_lets -underBinder); intro x; subst x)
    | split
    | with_reducible refine Keeps.upd rfl rfl rfl rfl rfl rfl rfl rfl rfl ?_)

theorem rampStart_keeps {r : State} {s : State} (h : Keeps r s) : Keeps r (rampStart s) := by
  unfold rampStart
  repeat' (first
    | with_reducible assumption
    | with_reducible rfl
    | ((try lift_lets -underBinder); intro x; refine (fun (hx : Keeps r x) => ?_) ?_; clear_value x; on_goal 2 => subst x)
    | ((try lift_lets -underBinder); intro x; subst x)
    | split
    | with_reducible refine Keeps.upd rfl rfl rfl rfl rfl rfl rfl rfl rfl ?_)

theorem chgLog_keeps {r : State} {s : State} (h : Keeps r s) : Keeps r (chgLog s) := by
  unfold chgLog
  repeat' (first
    | with_reducible assumption
    | with_reducible refine logPut_keeps ?_
    | with_reducible rfl
    | ((try lift_lets -underBinder); intro x; refine (fun (hx : Keeps r x) => ?_) ?_; clear_value x; on_goal 2 => subst x)
    | ((try lift_lets -underBinder); intro x; subst x)
    | split
    | with_reducible refine Keeps.upd rfl rfl rfl rfl rfl rfl rfl rfl rfl ?_)

theorem chgEnter_keeps {r : State} {st cause : Nat} {hw : Bool} {s : State} (h : Keeps r s) : Keeps r (chgEnter st cause hw
    s) := by
  unfold chgEnter
  repeat' (first
    | with_reducible assumption
    | with_reducible refine setF_keeps ?_
    | with_reducible refine latchClear_keeps ?_
    | with_reducible refine wr_keeps ?_
    | with_reducible refine latchLeave_keeps ?_
    | with_reducible refine notify_keeps ?_
    | with_reducible refine liftStop_keeps ?_
    | with_reducible refine chgLog_keeps ?_
    | with_reducible rfl
    | ((try lift_lets -underBinder); intro x; refine (fun (hx : Keeps r x) => ?_) ?_; clear_value x; on_goal 2 => subst x)
    | ((try lift_lets -underBinder); intro x; subst x)
    | split
    | with_reducible refine Keeps.upd rfl rfl rfl rfl rfl rfl rfl rfl rfl ?_)

theorem dgOpen_keeps {r : State} {s : State} (h : Keeps r s) : Keeps r (dgOpen s) := by
  unfold dgOpen
  repeat' (first
    | with_reducible assumption
    | with_reducible refine setF_keeps ?_
    | with_reducible rfl
    | ((try lift_lets -underBinder); intro x; refine (fun (hx : Keeps r x) => ?_) ?_; clear_value x; on_goal 2 => subst x)
    | ((try lift_lets -underBinder); intro x; subst x)
    | split
    | with_reducible refine Keeps.upd rfl rfl rfl rfl rfl rfl rfl rfl rfl ?_)

theorem dgClose_keeps {r : State} {vCs : Nat} {s : State} (h : Keeps r s) : Keeps r (dgClose vCs s) := by
  unfold dgClose
  repeat' (first
    | with_reducible assumption
    | with_reducible refine preUs_keeps ?_
    | with_reducible rfl
    | ((try lift_lets -underBinder); intro x; refine (fun (hx : Keeps r x) => ?_) ?_; clear_value x; on_goal 2 => subst x)
    | ((try lift_lets -underBinder); intro x; subst x)
    | split
    | with_reducible refine Keeps.upd rfl rfl rfl rfl rfl rfl rfl rfl rfl ?_)

theorem dgFollow_keeps {r : State} {vCs : Nat} {s : State} (h : Keeps r s) : Keeps r (dgFollow vCs s) := by
  unfold dgFollow
  repeat' (first
    | with_reducible assumption
    | with_reducible refine dgClose_keeps ?_
    | with_reducible refine rampStart_keeps ?_
    | with_reducible refine dgOpen_keeps ?_
    | with_reducible rfl
    | ((try lift_lets -underBinder); intro x; refine (fun (hx : Keeps r x) => ?_) ?_; clear_value x; on_goal 2 => subst x)
    | ((try lift_lets -underBinder); intro x; subst x)
    | split
    | with_reducible refine Keeps.upd rfl rfl rfl rfl rfl rfl rfl rfl rfl ?_)

theorem preStep_keeps {r : State} {s : State} (h : Keeps r s) : Keeps r (preStep s) := by
  unfold preStep
  repeat' (first
    | with_reducible assumption
    | with_reducible refine preUs_keeps ?_
    | with_reducible rfl
    | ((try lift_lets -underBinder); intro x; refine (fun (hx : Keeps r x) => ?_) ?_; clear_value x; on_goal 2 => subst x)
    | ((try lift_lets -underBinder); intro x; subst x)
    | split
    | with_reducible refine Keeps.upd rfl rfl rfl rfl rfl rfl rfl rfl rfl ?_)

theorem dgClosed_keeps {r : State} {s : State} (h : Keeps r s) : Keeps r (dgClosed s) := by
  unfold dgClosed
  repeat' (first
    | with_reducible assumption
    | with_reducible refine setF_keeps ?_
    | with_reducible refine dgOpen_keeps ?_
    | with_reducible rfl
    | ((try lift_lets -underBinder); intro x; refine (fun (hx : Keeps r x) => ?_) ?_; clear_value x; on_goal 2 => subst x)
    | ((try lift_lets -underBinder); intro x; subst x)
    | split
    | with_reducible refine Keeps.upd rfl rfl rfl rfl rfl rfl rfl rfl rfl ?_)

theorem dgOpened_keeps {r : State} {s : State} (h : Keeps r s) : Keeps r (dgOpened s) := by
  unfold dgOpened
  repeat' (first
    | with_reducible assumption
    | with_reducible refine dgOpen_keeps ?_
    | with_reducible rfl
    | ((try lift_lets -underBinder); intro x; refine (fun (hx : Keeps r x) => ?_) ?_; clear_value x; on_goal 2 => subst x)
    | ((try lift_lets -underBinder); intro x; subst x)
    | split
    | with_reducible refine Keeps.upd rfl rfl rfl rfl rfl rfl rfl rfl rfl ?_)

end Sys2Proof.Machine
end

