-- ==== Sys2Proof/Laws/KeepsHubOps.lean ====
section
/-!
SUPPORT. What the operations of Machine/HubOps.lean keep: the queue, and the legality of the state.
-/

namespace Sys2Proof.Machine

open Sys2Proof

set_option linter.unusedTactic false
set_option linter.unreachableTactic false
set_option linter.unusedVariables false

theorem modPort_keeps {r : State} {k : Nat} {f : Port → Port} {s : State} (h : Keeps r s) : Keeps r (modPort k f s) := by
  unfold modPort
  repeat' (first
    | with_reducible assumption
    | with_reducible rfl
    | ((try lift_lets -underBinder); intro x; refine (fun (hx : Keeps r x) => ?_) ?_; clear_value x; on_goal 2 => subst x)
    | ((try lift_lets -underBinder); intro x; subst x)
    | split
    | with_reducible refine Keeps.upd rfl rfl rfl rfl rfl rfl rfl rfl rfl ?_)

theorem portTo_keeps {r : State} {k st : Nat} {s : State} (h : Keeps r s) : Keeps r (portTo k st s) := by
  unfold portTo
  repeat' (first
    | with_reducible assumption
    | with_reducible refine modPort_keeps ?_
    | with_reducible refine setF_keeps ?_
    | with_reducible rfl
    | ((try lift_lets -underBinder); intro x; refine (fun (hx : Keeps r x) => ?_) ?_; clear_value x; on_goal 2 => subst x)
    | ((try lift_lets -underBinder); intro x; subst x)
    | split
    | with_reducible refine Keeps.upd rfl rfl rfl rfl rfl rfl rfl rfl rfl ?_)

theorem portRelease_keeps {r : State} {k : Nat} {s : State} (h : Keeps r s) : Keeps r (portRelease k s) := by
  unfold portRelease
  repeat' (first
    | with_reducible assumption
    | with_reducible refine portTo_keeps ?_
    | with_reducible rfl
    | ((try lift_lets -underBinder); intro x; refine (fun (hx : Keeps r x) => ?_) ?_; clear_value x; on_goal 2 => subst x)
    | ((try lift_lets -underBinder); intro x; subst x)
    | split
    | with_reducible refine Keeps.upd rfl rfl rfl rfl rfl rfl rfl rfl rfl ?_)

theorem raiseHub_keeps {r : State} {src cls : Nat} {s : State} (h : Keeps r s) : Keeps r (raiseHub src cls s) := by
  unfold raiseHub
  repeat' (first
    | with_reducible assumption
    | with_reducible refine raise'_keeps ?_
    | with_reducible rfl
    | ((try lift_lets -underBinder); intro x; refine (fun (hx : Keeps r x) => ?_) ?_; clear_value x; on_goal 2 => subst x)
    | ((try lift_lets -underBinder); intro x; subst x)
    | split
    | with_reducible refine Keeps.upd rfl rfl rfl rfl rfl rfl rfl rfl rfl ?_)

theorem ilimUpdate_keeps {r : State} {s : State} (h : Keeps r s) : Keeps r (ilimUpdate s) := by
  unfold ilimUpdate
  repeat' (first
    | with_reducible assumption
    | with_reducible refine setF_keeps ?_
    | with_reducible rfl
    | ((try lift_lets -underBinder); intro x; refine (fun (hx : Keeps r x) => ?_) ?_; clear_value x; on_goal 2 => subst x)
    | ((try lift_lets -underBinder); intro x; subst x)
    | split
    | with_reducible refine Keeps.upd rfl rfl rfl rfl rfl rfl rfl rfl rfl ?_)

theorem toPack_keeps {r : State} {s : State} (h : Keeps r s) : Keeps r (toPack s) := by
  unfold toPack
  repeat' (first
    | with_reducible assumption
    | with_reducible refine setF_keeps ?_
    | with_reducible rfl
    | ((try lift_lets -underBinder); intro x; refine (fun (hx : Keeps r x) => ?_) ?_; clear_value x; on_goal 2 => subst x)
    | ((try lift_lets -underBinder); intro x; subst x)
    | split
    | with_reducible refine Keeps.upd rfl rfl rfl rfl rfl rfl rfl rfl rfl ?_)

theorem toUnfed_keeps {r : State} {s : State} (h : Keeps r s) : Keeps r (toUnfed s) := by
  unfold toUnfed
  repeat' (first
    | with_reducible assumption
    | with_reducible refine setF_keeps ?_
    | with_reducible rfl
    | ((try lift_lets -underBinder); intro x; refine (fun (hx : Keeps r x) => ?_) ?_; clear_value x; on_goal 2 => subst x)
    | ((try lift_lets -underBinder); intro x; subst x)
    | split
    | with_reducible refine Keeps.upd rfl rfl rfl rfl rfl rfl rfl rfl rfl ?_)

theorem toSource_keeps {r : State} {k : Nat} {armed : Bool} {s : State} (h : Keeps r s) : Keeps r (toSource k armed s) := by
  unfold toSource
  repeat' (first
    | with_reducible assumption
    | with_reducible refine portTo_keeps ?_
    | with_reducible refine setF_keeps ?_
    | with_reducible refine softRestart_keeps ?_
    | with_reducible rfl
    | ((try lift_lets -underBinder); intro x; refine (fun (hx : Keeps r x) => ?_) ?_; clear_value x; on_goal 2 => subst x)
    | ((try lift_lets -underBinder); intro x; subst x)
    | split
    | with_reducible refine Keeps.upd rfl rfl rfl rfl rfl rfl rfl rfl rfl ?_)

theorem releaseLost_keeps {r : State} {l : List Nat} {s : State} (h : Keeps r s) : Keeps r (releaseLost l s) := by
  unfold releaseLost
  repeat' (first
    | with_reducible assumption
    | with_reducible refine portRelease_keeps ?_
    | with_reducible refine Keeps.fold (fun _ _ _ => ?_) ?_
    | with_reducible rfl
    | ((try lift_lets -underBinder); intro x; refine (fun (hx : Keeps r x) => ?_) ?_; clear_value x; on_goal 2 => subst x)
    | ((try lift_lets -underBinder); intro x; subst x)
    | split
    | with_reducible refine Keeps.upd rfl rfl rfl rfl rfl rfl rfl rfl rfl ?_)

theorem direct_keeps {r : State} {k : Nat} {s : State} (h : Keeps r s) : Keeps r (direct k s) := by
  unfold direct
  repeat' (first
    | with_reducible assumption
    | with_reducible refine toSource_keeps ?_
    | with_reducible refine setF_keeps ?_
    | with_reducible refine releaseLost_keeps ?_
    | with_reducible rfl
    | ((try lift_lets -underBinder); intro x; refine (fun (hx : Keeps r x) => ?_) ?_; clear_value x; on_goal 2 => subst x)
    | ((try lift_lets -underBinder); intro x; subst x)
    | split
    | with_reducible refine Keeps.upd rfl rfl rfl rfl rfl rfl rfl rfl rfl ?_)

theorem directOrUnfed_keeps {r : State} {s : State} (h : Keeps r s) : Keeps r (directOrUnfed s) := by
  unfold directOrUnfed
  repeat' (first
    | with_reducible assumption
    | with_reducible refine direct_keeps ?_
    | with_reducible refine toUnfed_keeps ?_
    | with_reducible rfl
    | ((try lift_lets -underBinder); intro x; refine (fun (hx : Keeps r x) => ?_) ?_; clear_value x; on_goal 2 => subst x)
    | ((try lift_lets -underBinder); intro x; subst x)
    | split
    | with_reducible refine Keeps.upd rfl rfl rfl rfl rfl rfl rfl rfl rfl ?_)

theorem handover_keeps {r : State} {lost : Option Nat} {s : State} (h : Keeps r s) : Keeps r (handover lost s) := by
  unfold handover
  repeat' (first
    | with_reducible assumption
    | with_reducible refine toPack_keeps ?_
    | with_reducible refine setF_keeps ?_
    | with_reducible refine handoverRun_keeps ?_
    | with_reducible rfl
    | ((try lift_lets -underBinder); intro x; refine (fun (hx : Keeps r x) => ?_) ?_; clear_value x; on_goal 2 => subst x)
    | ((try lift_lets -underBinder); intro x; subst x)
    | split
    | with_reducible refine Keeps.upd rfl rfl rfl rfl rfl rfl rfl rfl rfl ?_)

theorem countLoss_keeps {r : State} {k : Nat} {s : State} (h : Keeps r s) : Keeps r (countLoss k s) := by
  unfold countLoss
  repeat' (first
    | with_reducible assumption
    | with_reducible refine modPort_keeps ?_
    | with_reducible refine setF_keeps ?_
    | with_reducible rfl
    | ((try lift_lets -underBinder); intro x; refine (fun (hx : Keeps r x) => ?_) ?_; clear_value x; on_goal 2 => subst x)
    | ((try lift_lets -underBinder); intro x; subst x)
    | split
    | with_reducible refine Keeps.upd rfl rfl rfl rfl rfl rfl rfl rfl rfl ?_)

theorem lossEvent_keeps {r : State} {k st : Nat} {s : State} (h : Keeps r s) : Keeps r (lossEvent k st s) := by
  unfold lossEvent
  repeat' (first
    | with_reducible assumption
    | with_reducible refine countLoss_keeps ?_
    | with_reducible refine portTo_keeps ?_
    | with_reducible refine setF_keeps ?_
    | with_reducible refine raiseHub_keeps ?_
    | with_reducible rfl
    | ((try lift_lets -underBinder); intro x; refine (fun (hx : Keeps r x) => ?_) ?_; clear_value x; on_goal 2 => subst x)
    | ((try lift_lets -underBinder); intro x; subst x)
    | split
    | with_reducible refine Keeps.upd rfl rfl rfl rfl rfl rfl rfl rfl rfl ?_)

theorem sourceLoss_keeps {r : State} {k : Nat} {s : State} (h : Keeps r s) : Keeps r (sourceLoss k s) := by
  unfold sourceLoss
  repeat' (first
    | with_reducible assumption
    | with_reducible refine lossEvent_keeps ?_
    | with_reducible refine handover_keeps ?_
    | with_reducible refine directOrUnfed_keeps ?_
    | with_reducible rfl
    | ((try lift_lets -underBinder); intro x; refine (fun (hx : Keeps r x) => ?_) ?_; clear_value x; on_goal 2 => subst x)
    | ((try lift_lets -underBinder); intro x; subst x)
    | split
    | with_reducible refine Keeps.upd rfl rfl rfl rfl rfl rfl rfl rfl rfl ?_)

theorem plannedRelease_keeps {r : State} {k : Nat} {dis : Bool} {s : State} (h : Keeps r s) : Keeps r (plannedRelease k dis
    s) := by
  unfold plannedRelease
  repeat' (first
    | with_reducible assumption
    | with_reducible refine portTo_keeps ?_
    | with_reducible refine portRelease_keeps ?_
    | with_reducible refine handover_keeps ?_
    | with_reducible refine directOrUnfed_keeps ?_
    | with_reducible rfl
    | ((try lift_lets -underBinder); intro x; refine (fun (hx : Keeps r x) => ?_) ?_; clear_value x; on_goal 2 => subst x)
    | ((try lift_lets -underBinder); intro x; subst x)
    | split
    | with_reducible refine Keeps.upd rfl rfl rfl rfl rfl rfl rfl rfl rfl ?_)

theorem handbackStart_keeps {r : State} {k : Nat} {s : State} (h : Keeps r s) : Keeps r (handbackStart k s) := by
  unfold handbackStart
  repeat' (first
    | with_reducible assumption
    | with_reducible refine setF_keeps ?_
    | with_reducible rfl
    | ((try lift_lets -underBinder); intro x; refine (fun (hx : Keeps r x) => ?_) ?_; clear_value x; on_goal 2 => subst x)
    | ((try lift_lets -underBinder); intro x; subst x)
    | split
    | with_reducible refine Keeps.upd rfl rfl rfl rfl rfl rfl rfl rfl rfl ?_)

theorem hubSelect_keeps {r : State} {s : State} (h : Keeps r s) : Keeps r (hubSelect s) := by
  unfold hubSelect
  repeat' (first
    | with_reducible assumption
    | with_reducible refine plannedRelease_keeps ?_
    | with_reducible refine direct_keeps ?_
    | with_reducible refine handbackStart_keeps ?_
    | with_reducible refine toSource_keeps ?_
    | with_reducible rfl
    | ((try lift_lets -underBinder); intro x; refine (fun (hx : Keeps r x) => ?_) ?_; clear_value x; on_goal 2 => subst x)
    | ((try lift_lets -underBinder); intro x; subst x)
    | split
    | with_reducible refine Keeps.upd rfl rfl rfl rfl rfl rfl rfl rfl rfl ?_)

theorem holdEnd_keeps {r : State} {s : State} (h : Keeps r s) : Keeps r (holdEnd s) := by
  unfold holdEnd
  repeat' (first
    | with_reducible assumption
    | with_reducible refine setF_keeps ?_
    | with_reducible refine portRelease_keeps ?_
    | with_reducible rfl
    | ((try lift_lets -underBinder); intro x; refine (fun (hx : Keeps r x) => ?_) ?_; clear_value x; on_goal 2 => subst x)
    | ((try lift_lets -underBinder); intro x; subst x)
    | split
    | with_reducible refine Keeps.upd rfl rfl rfl rfl rfl rfl rfl rfl rfl ?_)

theorem rsvEnd_keeps {r : State} {atOnce : Bool} {s : State} (h : Keeps r s) : Keeps r (rsvEnd atOnce s) := by
  unfold rsvEnd
  repeat' (first
    | with_reducible assumption
    | with_reducible refine setF_keeps ?_
    | with_reducible refine keepCount_keeps ?_
    | with_reducible refine holdEnd_keeps ?_
    | with_reducible refine haltRun_keeps ?_
    | with_reducible refine direct_keeps ?_
    | with_reducible refine toUnfed_keeps ?_
    | with_reducible rfl
    | ((try lift_lets -underBinder); intro x; refine (fun (hx : Keeps r x) => ?_) ?_; clear_value x; on_goal 2 => subst x)
    | ((try lift_lets -underBinder); intro x; subst x)
    | split
    | with_reducible refine Keeps.upd rfl rfl rfl rfl rfl rfl rfl rfl rfl ?_)

theorem unfedRampEnd_keeps {r : State} {s : State} (h : Keeps r s) : Keeps r (unfedRampEnd s) := by
  unfold unfedRampEnd
  repeat' (first
    | with_reducible assumption
    | with_reducible refine haltRun_keeps ?_
    | with_reducible refine toUnfed_keeps ?_
    | with_reducible rfl
    | ((try lift_lets -underBinder); intro x; refine (fun (hx : Keeps r x) => ?_) ?_; clear_value x; on_goal 2 => subst x)
    | ((try lift_lets -underBinder); intro x; subst x)
    | split
    | with_reducible refine Keeps.upd rfl rfl rfl rfl rfl rfl rfl rfl rfl ?_)

theorem rsvCheck_keeps {r : State} {s : State} (h : Keeps r s) : Keeps r (rsvCheck s) := by
  unfold rsvCheck
  repeat' (first
    | with_reducible assumption
    | with_reducible refine rsvEnd_keeps ?_
    | with_reducible rfl
    | ((try lift_lets -underBinder); intro x; refine (fun (hx : Keeps r x) => ?_) ?_; clear_value x; on_goal 2 => subst x)
    | ((try lift_lets -underBinder); intro x; subst x)
    | split
    | with_reducible refine Keeps.upd rfl rfl rfl rfl rfl rfl rfl rfl rfl ?_)

theorem packStartOp_keeps {r : State} {s : State} (h : Keeps r s) : Keeps r (packStartOp s) := by
  unfold packStartOp
  repeat' (first
    | with_reducible assumption
    | with_reducible refine toPack_keeps ?_
    | with_reducible rfl
    | ((try lift_lets -underBinder); intro x; refine (fun (hx : Keeps r x) => ?_) ?_; clear_value x; on_goal 2 => subst x)
    | ((try lift_lets -underBinder); intro x; subst x)
    | split
    | with_reducible refine Keeps.upd rfl rfl rfl rfl rfl rfl rfl rfl rfl ?_)

theorem packUvOp_keeps {r : State} {o : FastObs} {s : State} (h : Keeps r s) : Keeps r (packUvOp o s) := by
  unfold packUvOp
  repeat' (first
    | with_reducible assumption
    | with_reducible refine putFast_keeps ?_
    | with_reducible refine raiseHub_keeps ?_
    | with_reducible refine rsvEnd_keeps ?_
    | with_reducible rfl
    | ((try lift_lets -underBinder); intro x; refine (fun (hx : Keeps r x) => ?_) ?_; clear_value x; on_goal 2 => subst x)
    | ((try lift_lets -underBinder); intro x; subst x)
    | split
    | with_reducible refine Keeps.upd rfl rfl rfl rfl rfl rfl rfl rfl rfl ?_)

theorem handoverEndOp_keeps {r : State} {s : State} (h : Keeps r s) : Keeps r (handoverEndOp s) := by
  unfold handoverEndOp
  repeat' (first
    | with_reducible assumption
    | with_reducible refine holdEnd_keeps ?_
    | with_reducible refine incWrap_keeps ?_
    | with_reducible refine setF_keeps ?_
    | with_reducible refine keepCount_keeps ?_
    | with_reducible refine applyGofs_keeps ?_
    | with_reducible refine rsvCheck_keeps ?_
    | with_reducible refine hubSelect_keeps ?_
    | with_reducible rfl
    | ((try lift_lets -underBinder); intro x; refine (fun (hx : Keeps r x) => ?_) ?_; clear_value x; on_goal 2 => subst x)
    | ((try lift_lets -underBinder); intro x; subst x)
    | split
    | with_reducible refine Keeps.upd rfl rfl rfl rfl rfl rfl rfl rfl rfl ?_)

theorem lostTimeoutOp_keeps {r : State} {s : State} (h : Keeps r s) : Keeps r (lostTimeoutOp s) := by
  unfold lostTimeoutOp
  repeat' (first
    | with_reducible assumption
    | with_reducible refine releaseLost_keeps ?_
    | with_reducible rfl
    | ((try lift_lets -underBinder); intro x; refine (fun (hx : Keeps r x) => ?_) ?_; clear_value x; on_goal 2 => subst x)
    | ((try lift_lets -underBinder); intro x; subst x)
    | split
    | with_reducible refine Keeps.upd rfl rfl rfl rfl rfl rfl rfl rfl rfl ?_)

theorem handbackCloseOp_keeps {r : State} {s : State} (h : Keeps r s) : Keeps r (handbackCloseOp s) := by
  unfold handbackCloseOp
  repeat' (first
    | with_reducible assumption
    | with_reducible rfl
    | ((try lift_lets -underBinder); intro x; refine (fun (hx : Keeps r x) => ?_) ?_; clear_value x; on_goal 2 => subst x)
    | ((try lift_lets -underBinder); intro x; subst x)
    | split
    | with_reducible refine Keeps.upd rfl rfl rfl rfl rfl rfl rfl rfl rfl ?_)

theorem handbackCompleteOp_keeps {r : State} {s : State} (h : Keeps r s) : Keeps r (handbackCompleteOp s) := by
  unfold handbackCompleteOp
  repeat' (first
    | with_reducible assumption
    | with_reducible refine toSource_keeps ?_
    | with_reducible refine incWrap_keeps ?_
    | with_reducible refine setF_keeps ?_
    | with_reducible rfl
    | ((try lift_lets -underBinder); intro x; refine (fun (hx : Keeps r x) => ?_) ?_; clear_value x; on_goal 2 => subst x)
    | ((try lift_lets -underBinder); intro x; subst x)
    | split
    | with_reducible refine Keeps.upd rfl rfl rfl rfl rfl rfl rfl rfl rfl ?_)

theorem handbackEnd_keeps {r : State} {h : HandBack} {s : State} (hk : Keeps r s) : Keeps r (handbackEnd h s) := by
  unfold handbackEnd
  repeat' (first
    | with_reducible assumption
    | with_reducible refine setF_keeps ?_
    | with_reducible rfl
    | ((try lift_lets -underBinder); intro x; refine (fun (hx : Keeps r x) => ?_) ?_; clear_value x; on_goal 2 => subst x)
    | ((try lift_lets -underBinder); intro x; subst x)
    | split
    | with_reducible refine Keeps.upd rfl rfl rfl rfl rfl rfl rfl rfl rfl ?_)

theorem handbackLoss_keeps {r : State} {s : State} (h : Keeps r s) : Keeps r (handbackLoss s) := by
  unfold handbackLoss
  repeat' (first
    | with_reducible assumption
    | with_reducible refine handbackEnd_keeps ?_
    | with_reducible refine lossEvent_keeps ?_
    | with_reducible rfl
    | ((try lift_lets -underBinder); intro x; refine (fun (hx : Keeps r x) => ?_) ?_; clear_value x; on_goal 2 => subst x)
    | ((try lift_lets -underBinder); intro x; subst x)
    | split
    | with_reducible refine Keeps.upd rfl rfl rfl rfl rfl rfl rfl rfl rfl ?_)

theorem s1Open_keeps {r : State} {f : Fld} {s : State} (h : Keeps r s) : Keeps r (s1Open f s) := by
  unfold s1Open
  repeat' (first
    | with_reducible assumption
    | with_reducible refine portTo_keeps ?_
    | with_reducible refine setF_keeps ?_
    | with_reducible rfl
    | ((try lift_lets -underBinder); intro x; refine (fun (hx : Keeps r x) => ?_) ?_; clear_value x; on_goal 2 => subst x)
    | ((try lift_lets -underBinder); intro x; subst x)
    | split
    | with_reducible refine Keeps.upd rfl rfl rfl rfl rfl rfl rfl rfl rfl ?_)

theorem s1Enter_keeps {r : State} {s : State} (h : Keeps r s) : Keeps r (s1Enter s) := by
  unfold s1Enter
  repeat' (first
    | with_reducible assumption
    | with_reducible refine portTo_keeps ?_
    | with_reducible rfl
    | ((try lift_lets -underBinder); intro x; refine (fun (hx : Keeps r x) => ?_) ?_; clear_value x; on_goal 2 => subst x)
    | ((try lift_lets -underBinder); intro x; subst x)
    | split
    | with_reducible refine Keeps.upd rfl rfl rfl rfl rfl rfl rfl rfl rfl ?_)

theorem s1OverOp_keeps {r : State} {vds : Int} {s : State} (h : Keeps r s) : Keeps r (s1OverOp vds s) := by
  unfold s1OverOp
  repeat' (first
    | with_reducible assumption
    | with_reducible refine s1Open_keeps ?_
    | with_reducible rfl
    | ((try lift_lets -underBinder); intro x; refine (fun (hx : Keeps r x) => ?_) ?_; clear_value x; on_goal 2 => subst x)
    | ((try lift_lets -underBinder); intro x; subst x)
    | split
    | with_reducible refine Keeps.upd rfl rfl rfl rfl rfl rfl rfl rfl rfl ?_)

theorem s1ReentryOp_keeps {r : State} {s : State} (h : Keeps r s) : Keeps r (s1ReentryOp s) := by
  unfold s1ReentryOp
  repeat' (first
    | with_reducible assumption
    | with_reducible refine s1Enter_keeps ?_
    | with_reducible rfl
    | ((try lift_lets -underBinder); intro x; refine (fun (hx : Keeps r x) => ?_) ?_; clear_value x; on_goal 2 => subst x)
    | ((try lift_lets -underBinder); intro x; subst x)
    | split
    | with_reducible refine Keeps.upd rfl rfl rfl rfl rfl rfl rfl rfl rfl ?_)

theorem s1Tick_keeps {r : State} {wrote : Bool} {s : State} (h : Keeps r s) : Keeps r (s1Tick wrote s) := by
  unfold s1Tick
  repeat' (first
    | with_reducible assumption
    | with_reducible refine portTo_keeps ?_
    | with_reducible refine setF_keeps ?_
    | with_reducible refine s1Enter_keeps ?_
    | with_reducible rfl
    | ((try lift_lets -underBinder); intro x; refine (fun (hx : Keeps r x) => ?_) ?_; clear_value x; on_goal 2 => subst x)
    | ((try lift_lets -underBinder); intro x; subst x)
    | split
    | with_reducible refine Keeps.upd rfl rfl rfl rfl rfl rfl rfl rfl rfl ?_)

theorem s1BackfeedOp_keeps {r : State} {drop : Int} {s : State} (h : Keeps r s) : Keeps r (s1BackfeedOp drop s) := by
  unfold s1BackfeedOp
  repeat' (first
    | with_reducible assumption
    | with_reducible refine s1Open_keeps ?_
    | with_reducible rfl
    | ((try lift_lets -underBinder); intro x; refine (fun (hx : Keeps r x) => ?_) ?_; clear_value x; on_goal 2 => subst x)
    | ((try lift_lets -underBinder); intro x; subst x)
    | split
    | with_reducible refine Keeps.upd rfl rfl rfl rfl rfl rfl rfl rfl rfl ?_)

theorem reverseTrip_keeps {r : State} {p : Nat} {drop : Int} {o : FastObs} {s : State} (h : Keeps r s) : Keeps r
    (reverseTrip p drop o s) := by
  unfold reverseTrip
  repeat' (first
    | with_reducible assumption
    | with_reducible refine putFast_keeps ?_
    | with_reducible refine s1Open_keeps ?_
    | with_reducible refine handbackLoss_keeps ?_
    | with_reducible refine sourceLoss_keeps ?_
    | with_reducible rfl
    | ((try lift_lets -underBinder); intro x; refine (fun (hx : Keeps r x) => ?_) ?_; clear_value x; on_goal 2 => subst x)
    | ((try lift_lets -underBinder); intro x; subst x)
    | split
    | with_reducible refine Keeps.upd rfl rfl rfl rfl rfl rfl rfl rfl rfl ?_)

theorem armCheck_keeps {r : State} {s : State} (h : Keeps r s) : Keeps r (armCheck s) := by
  unfold armCheck
  repeat' (first
    | with_reducible assumption
    | with_reducible rfl
    | ((try lift_lets -underBinder); intro x; refine (fun (hx : Keeps r x) => ?_) ?_; clear_value x; on_goal 2 => subst x)
    | ((try lift_lets -underBinder); intro x; subst x)
    | split
    | with_reducible refine Keeps.upd rfl rfl rfl rfl rfl rfl rfl rfl rfl ?_)

theorem armFast_keeps {r : State} {o : FastObs} {s : State} (h : Keeps r s) : Keeps r (armFast o s) := by
  unfold armFast
  repeat' (first
    | with_reducible assumption
    | with_reducible refine armCheck_keeps ?_
    | with_reducible refine putFast_keeps ?_
    | with_reducible rfl
    | ((try lift_lets -underBinder); intro x; refine (fun (hx : Keeps r x) => ?_) ?_; clear_value x; on_goal 2 => subst x)
    | ((try lift_lets -underBinder); intro x; subst x)
    | split
    | with_reducible refine Keeps.upd rfl rfl rfl rfl rfl rfl rfl rfl rfl ?_)

theorem hbusFall_keeps {r : State} {o : FastObs} {s : State} (h : Keeps r s) : Keeps r (hbusFall o s) := by
  unfold hbusFall
  repeat' (first
    | with_reducible assumption
    | with_reducible refine armFast_keeps ?_
    | with_reducible refine sourceLoss_keeps ?_
    | with_reducible rfl
    | ((try lift_lets -underBinder); intro x; refine (fun (hx : Keeps r x) => ?_) ?_; clear_value x; on_goal 2 => subst x)
    | ((try lift_lets -underBinder); intro x; subst x)
    | split
    | with_reducible refine Keeps.upd rfl rfl rfl rfl rfl rfl rfl rfl rfl ?_)

theorem hbusOvTripOp_keeps {r : State} {o : FastObs} {s : State} (h : Keeps r s) : Keeps r (hbusOvTripOp o s) := by
  unfold hbusOvTripOp
  repeat' (first
    | with_reducible assumption
    | with_reducible refine putFast_keeps ?_
    | with_reducible refine setF_keeps ?_
    | with_reducible refine raiseHub_keeps ?_
    | with_reducible refine stopFor_keeps ?_
    | with_reducible refine sourceLoss_keeps ?_
    | with_reducible refine handbackLoss_keeps ?_
    | with_reducible refine handbackEnd_keeps ?_
    | with_reducible rfl
    | ((try lift_lets -underBinder); intro x; refine (fun (hx : Keeps r x) => ?_) ?_; clear_value x; on_goal 2 => subst x)
    | ((try lift_lets -underBinder); intro x; subst x)
    | split
    | with_reducible refine Keeps.upd rfl rfl rfl rfl rfl rfl rfl rfl rfl ?_)

theorem hbusOvReleaseOp_keeps {r : State} {o : FastObs} {s : State} (h : Keeps r s) : Keeps r (hbusOvReleaseOp o s) := by
  unfold hbusOvReleaseOp
  repeat' (first
    | with_reducible assumption
    | with_reducible refine putFast_keeps ?_
    | with_reducible refine liftStop_keeps ?_
    | with_reducible rfl
    | ((try lift_lets -underBinder); intro x; refine (fun (hx : Keeps r x) => ?_) ?_; clear_value x; on_goal 2 => subst x)
    | ((try lift_lets -underBinder); intro x; subst x)
    | split
    | with_reducible refine Keeps.upd rfl rfl rfl rfl rfl rfl rfl rfl rfl ?_)

theorem hbusUvTripOp_keeps {r : State} {o : FastObs} {s : State} (h : Keeps r s) : Keeps r (hbusUvTripOp o s) := by
  unfold hbusUvTripOp
  repeat' (first
    | with_reducible assumption
    | with_reducible refine putFast_keeps ?_
    | with_reducible refine setF_keeps ?_
    | with_reducible refine raiseHub_keeps ?_
    | with_reducible rfl
    | ((try lift_lets -underBinder); intro x; refine (fun (hx : Keeps r x) => ?_) ?_; clear_value x; on_goal 2 => subst x)
    | ((try lift_lets -underBinder); intro x; subst x)
    | split
    | with_reducible refine Keeps.upd rfl rfl rfl rfl rfl rfl rfl rfl rfl ?_)

theorem sagHold_keeps {r : State} {s : State} (h : Keeps r s) : Keeps r (sagHold s) := by
  unfold sagHold
  repeat' (first
    | with_reducible assumption
    | with_reducible refine setF_keeps ?_
    | with_reducible rfl
    | ((try lift_lets -underBinder); intro x; refine (fun (hx : Keeps r x) => ?_) ?_; clear_value x; on_goal 2 => subst x)
    | ((try lift_lets -underBinder); intro x; subst x)
    | split
    | with_reducible refine Keeps.upd rfl rfl rfl rfl rfl rfl rfl rfl rfl ?_)

theorem sagShedOp_keeps {r : State} {o : FastObs} {s : State} (h : Keeps r s) : Keeps r (sagShedOp o s) := by
  unfold sagShedOp
  repeat' (first
    | with_reducible assumption
    | with_reducible refine armFast_keeps ?_
    | with_reducible refine sagHold_keeps ?_
    | with_reducible refine modPhases_keeps ?_
    | with_reducible refine incSat_keeps ?_
    | with_reducible refine setF_keeps ?_
    | with_reducible rfl
    | ((try lift_lets -underBinder); intro x; refine (fun (hx : Keeps r x) => ?_) ?_; clear_value x; on_goal 2 => subst x)
    | ((try lift_lets -underBinder); intro x; subst x)
    | split
    | with_reducible refine Keeps.upd rfl rfl rfl rfl rfl rfl rfl rfl rfl ?_)

theorem sagRestartOp_keeps {r : State} {o : FastObs} {s : State} (h : Keeps r s) : Keeps r (sagRestartOp o s) := by
  unfold sagRestartOp
  repeat' (first
    | with_reducible assumption
    | with_reducible refine putFast_keeps ?_
    | with_reducible refine softRestart_keeps ?_
    | with_reducible rfl
    | ((try lift_lets -underBinder); intro x; refine (fun (hx : Keeps r x) => ?_) ?_; clear_value x; on_goal 2 => subst x)
    | ((try lift_lets -underBinder); intro x; subst x)
    | split
    | with_reducible refine Keeps.upd rfl rfl rfl rfl rfl rfl rfl rfl rfl ?_)

theorem qualStep_keeps {r : State} {k : Nat} {s : State} (h : Keeps r s) : Keeps r (qualStep k s) := by
  unfold qualStep
  repeat' (first
    | with_reducible assumption
    | with_reducible refine modPort_keeps ?_
    | with_reducible rfl
    | ((try lift_lets -underBinder); intro x; refine (fun (hx : Keeps r x) => ?_) ?_; clear_value x; on_goal 2 => subst x)
    | ((try lift_lets -underBinder); intro x; subst x)
    | split
    | with_reducible refine Keeps.upd rfl rfl rfl rfl rfl rfl rfl rfl rfl ?_)

theorem outOfWin_keeps {r : State} {k : Nat} {s : State} (h : Keeps r s) : Keeps r (outOfWin k s) := by
  unfold outOfWin
  repeat' (first
    | with_reducible assumption
    | with_reducible refine lossEvent_keeps ?_
    | with_reducible refine handbackLoss_keeps ?_
    | with_reducible refine sourceLoss_keeps ?_
    | with_reducible rfl
    | ((try lift_lets -underBinder); intro x; refine (fun (hx : Keeps r x) => ?_) ?_; clear_value x; on_goal 2 => subst x)
    | ((try lift_lets -underBinder); intro x; subst x)
    | split
    | with_reducible refine Keeps.upd rfl rfl rfl rfl rfl rfl rfl rfl rfl ?_)

theorem vbusBack_keeps {r : State} {mv : Nat} {s : State} (h : Keeps r s) : Keeps r (vbusBack mv s) := by
  unfold vbusBack
  repeat' (first
    | with_reducible assumption
    | with_reducible rfl
    | ((try lift_lets -underBinder); intro x; refine (fun (hx : Keeps r x) => ?_) ?_; clear_value x; on_goal 2 => subst x)
    | ((try lift_lets -underBinder); intro x; subst x)
    | split
    | with_reducible refine Keeps.upd rfl rfl rfl rfl rfl rfl rfl rfl rfl ?_)

theorem measurePort_keeps {r : State} {k mv : Nat} {vds : Int} {s : State} (h : Keeps r s) : Keeps r (measurePort k mv vds
    s) := by
  unfold measurePort
  repeat' (first
    | with_reducible assumption
    | with_reducible refine modPort_keeps ?_
    | with_reducible refine setF_keeps ?_
    | with_reducible refine vbusBack_keeps ?_
    | with_reducible refine outOfWin_keeps ?_
    | with_reducible refine qualStep_keeps ?_
    | with_reducible refine portTo_keeps ?_
    | with_reducible rfl
    | ((try lift_lets -underBinder); intro x; refine (fun (hx : Keeps r x) => ?_) ?_; clear_value x; on_goal 2 => subst x)
    | ((try lift_lets -underBinder); intro x; subst x)
    | split
    | with_reducible refine Keeps.upd rfl rfl rfl rfl rfl rfl rfl rfl rfl ?_)

theorem holdMove_keeps {r : State} {s : State} (h : Keeps r s) : Keeps r (holdMove s) := by
  unfold holdMove
  repeat' (first
    | with_reducible assumption
    | with_reducible rfl
    | ((try lift_lets -underBinder); intro x; refine (fun (hx : Keeps r x) => ?_) ?_; clear_value x; on_goal 2 => subst x)
    | ((try lift_lets -underBinder); intro x; subst x)
    | split
    | with_reducible refine Keeps.upd rfl rfl rfl rfl rfl rfl rfl rfl rfl ?_)

theorem portMeasure_keeps {r : State} {o : PortObs} {s : State} (h : Keeps r s) : Keeps r (portMeasure o s) := by
  unfold portMeasure
  repeat' (first
    | with_reducible assumption
    | with_reducible refine putFast_keeps ?_
    | with_reducible refine measurePort_keeps ?_
    | with_reducible refine s1Enter_keeps ?_
    | with_reducible refine holdMove_keeps ?_
    | with_reducible refine armCheck_keeps ?_
    | with_reducible refine rsvCheck_keeps ?_
    | with_reducible refine hubSelect_keeps ?_
    | with_reducible refine Keeps.fold (fun _ _ _ => ?_) ?_
    | with_reducible rfl
    | ((try lift_lets -underBinder); intro x; refine (fun (hx : Keeps r x) => ?_) ?_; clear_value x; on_goal 2 => subst x)
    | ((try lift_lets -underBinder); intro x; subst x)
    | split
    | with_reducible refine Keeps.upd rfl rfl rfl rfl rfl rfl rfl rfl rfl ?_)

theorem qualDone_keeps {r : State} {k : Nat} {s : State} (h : Keeps r s) : Keeps r (qualDone k s) := by
  unfold qualDone
  repeat' (first
    | with_reducible assumption
    | with_reducible refine hubSelect_keeps ?_
    | with_reducible refine portTo_keeps ?_
    | with_reducible rfl
    | ((try lift_lets -underBinder); intro x; refine (fun (hx : Keeps r x) => ?_) ?_; clear_value x; on_goal 2 => subst x)
    | ((try lift_lets -underBinder); intro x; subst x)
    | split
    | with_reducible refine Keeps.upd rfl rfl rfl rfl rfl rfl rfl rfl rfl ?_)

theorem lockoutEndOp_keeps {r : State} {k : Nat} {s : State} (h : Keeps r s) : Keeps r (lockoutEndOp k s) := by
  unfold lockoutEndOp
  repeat' (first
    | with_reducible assumption
    | with_reducible refine portTo_keeps ?_
    | with_reducible refine modPort_keeps ?_
    | with_reducible refine setF_keeps ?_
    | with_reducible rfl
    | ((try lift_lets -underBinder); intro x; refine (fun (hx : Keeps r x) => ?_) ?_; clear_value x; on_goal 2 => subst x)
    | ((try lift_lets -underBinder); intro x; subst x)
    | split
    | with_reducible refine Keeps.upd rfl rfl rfl rfl rfl rfl rfl rfl rfl ?_)

theorem sidAccept_keeps {r : State} {b : Nat} {s : State} (h : Keeps r s) : Keeps r (sidAccept b s) := by
  unfold sidAccept
  repeat' (first
    | with_reducible assumption
    | with_reducible refine setF_keeps ?_
    | with_reducible rfl
    | ((try lift_lets -underBinder); intro x; refine (fun (hx : Keeps r x) => ?_) ?_; clear_value x; on_goal 2 => subst x)
    | ((try lift_lets -underBinder); intro x; subst x)
    | split
    | with_reducible refine Keeps.upd rfl rfl rfl rfl rfl rfl rfl rfl rfl ?_)

theorem sidReadOp_keeps {r : State} {v : Nat} {s : State} (h : Keeps r s) : Keeps r (sidReadOp v s) := by
  unfold sidReadOp
  repeat' (first
    | with_reducible assumption
    | with_reducible refine setF_keeps ?_
    | with_reducible refine incSat_keeps ?_
    | with_reducible refine sidAccept_keeps ?_
    | with_reducible rfl
    | ((try lift_lets -underBinder); intro x; refine (fun (hx : Keeps r x) => ?_) ?_; clear_value x; on_goal 2 => subst x)
    | ((try lift_lets -underBinder); intro x; subst x)
    | split
    | with_reducible refine Keeps.upd rfl rfl rfl rfl rfl rfl rfl rfl rfl ?_)

theorem sidWindowEnd_keeps {r : State} {s : State} (h : Keeps r s) : Keeps r (sidWindowEnd s) := by
  unfold sidWindowEnd
  repeat' (first
    | with_reducible assumption
    | with_reducible refine sidAccept_keeps ?_
    | with_reducible rfl
    | ((try lift_lets -underBinder); intro x; refine (fun (hx : Keeps r x) => ?_) ?_; clear_value x; on_goal 2 => subst x)
    | ((try lift_lets -underBinder); intro x; subst x)
    | split
    | with_reducible refine Keeps.upd rfl rfl rfl rfl rfl rfl rfl rfl rfl ?_)

theorem sidStuckOp_keeps {r : State} {s : State} (h : Keeps r s) : Keeps r (sidStuckOp s) := by
  unfold sidStuckOp
  repeat' (first
    | with_reducible assumption
    | with_reducible refine setF_keeps ?_
    | with_reducible refine raiseHub_keeps ?_
    | with_reducible rfl
    | ((try lift_lets -underBinder); intro x; refine (fun (hx : Keeps r x) => ?_) ?_; clear_value x; on_goal 2 => subst x)
    | ((try lift_lets -underBinder); intro x; subst x)
    | split
    | with_reducible refine Keeps.upd rfl rfl rfl rfl rfl rfl rfl rfl rfl ?_)

theorem penPort_keeps {r : State} {k : Nat} {s : State} (h : Keeps r s) : Keeps r (penPort k s) := by
  unfold penPort
  repeat' (first
    | with_reducible assumption
    | with_reducible refine plannedRelease_keeps ?_
    | with_reducible refine portTo_keeps ?_
    | with_reducible refine handbackEnd_keeps ?_
    | with_reducible refine countLoss_keeps ?_
    | with_reducible rfl
    | ((try lift_lets -underBinder); intro x; refine (fun (hx : Keeps r x) => ?_) ?_; clear_value x; on_goal 2 => subst x)
    | ((try lift_lets -underBinder); intro x; subst x)
    | split
    | with_reducible refine Keeps.upd rfl rfl rfl rfl rfl rfl rfl rfl rfl ?_)

theorem penTick_keeps {r : State} {s : State} (h : Keeps r s) : Keeps r (penTick s) := by
  unfold penTick
  repeat' (first
    | with_reducible assumption
    | with_reducible refine penPort_keeps ?_
    | with_reducible refine Keeps.fold (fun _ _ _ => ?_) ?_
    | with_reducible rfl
    | ((try lift_lets -underBinder); intro x; refine (fun (hx : Keeps r x) => ?_) ?_; clear_value x; on_goal 2 => subst x)
    | ((try lift_lets -underBinder); intro x; subst x)
    | split
    | with_reducible refine Keeps.upd rfl rfl rfl rfl rfl rfl rfl rfl rfl ?_)

theorem typeZero_keeps {r : State} {k : Nat} {s : State} (h : Keeps r s) : Keeps r (typeZero k s) := by
  unfold typeZero
  repeat' (first
    | with_reducible assumption
    | with_reducible refine setF_keeps ?_
    | with_reducible refine sourceLoss_keeps ?_
    | with_reducible refine handbackLoss_keeps ?_
    | with_reducible rfl
    | ((try lift_lets -underBinder); intro x; refine (fun (hx : Keeps r x) => ?_) ?_; clear_value x; on_goal 2 => subst x)
    | ((try lift_lets -underBinder); intro x; subst x)
    | split
    | with_reducible refine Keeps.upd rfl rfl rfl rfl rfl rfl rfl rfl rfl ?_)

theorem typeTick_keeps {r : State} {s : State} (h : Keeps r s) : Keeps r (typeTick s) := by
  unfold typeTick
  repeat' (first
    | with_reducible assumption
    | with_reducible refine forN_keeps (fun _ _ _ => ?_) ?_
    | with_reducible refine typeZero_keeps ?_
    | with_reducible refine setF_keeps ?_
    | with_reducible rfl
    | ((try lift_lets -underBinder); intro x; refine (fun (hx : Keeps r x) => ?_) ?_; clear_value x; on_goal 2 => subst x)
    | ((try lift_lets -underBinder); intro x; subst x)
    | split
    | with_reducible refine Keeps.upd rfl rfl rfl rfl rfl rfl rfl rfl rfl ?_)

theorem vrefTick_keeps {r : State} {o : FrameObs} {s : State} (h : Keeps r s) : Keeps r (vrefTick o s) := by
  unfold vrefTick
  repeat' (first
    | with_reducible assumption
    | with_reducible refine setF_keeps ?_
    | with_reducible rfl
    | ((try lift_lets -underBinder); intro x; refine (fun (hx : Keeps r x) => ?_) ?_; clear_value x; on_goal 2 => subst x)
    | ((try lift_lets -underBinder); intro x; subst x)
    | split
    | with_reducible refine Keeps.upd rfl rfl rfl rfl rfl rfl rfl rfl rfl ?_)

theorem hubTick_keeps {r : State} {wroteS1 : Bool} {o : FrameObs} {s : State} (h : Keeps r s) : Keeps r (hubTick wroteS1 o
    s) := by
  unfold hubTick
  repeat' (first
    | with_reducible assumption
    | with_reducible refine vrefTick_keeps ?_
    | with_reducible refine penTick_keeps ?_
    | with_reducible refine typeTick_keeps ?_
    | with_reducible refine s1Tick_keeps ?_
    | with_reducible refine rsvCheck_keeps ?_
    | with_reducible refine hubSelect_keeps ?_
    | with_reducible refine ilimUpdate_keeps ?_
    | with_reducible rfl
    | ((try lift_lets -underBinder); intro x; refine (fun (hx : Keeps r x) => ?_) ?_; clear_value x; on_goal 2 => subst x)
    | ((try lift_lets -underBinder); intro x; subst x)
    | split
    | with_reducible refine Keeps.upd rfl rfl rfl rfl rfl rfl rfl rfl rfl ?_)

end Sys2Proof.Machine
end

