-- ==== Sys2Proof/Laws/KeepsChgOps.lean ====
section
/-!
SUPPORT. What the operations of Machine/ChgOps.lean keep: the queue, and the legality of the state.
-/

namespace Sys2Proof.Machine

open Sys2Proof

set_option linter.unusedTactic false
set_option linter.unreachableTactic false
set_option linter.unusedVariables false

theorem modChg_keeps {r : State} {f : Chg → Chg} {s : State} (h : Keeps r s) : Keeps r (modChg f s) := by
  unfold modChg
  repeat' (first
    | with_reducible assumption
    | with_reducible rfl
    | ((try lift_lets -underBinder); intro x; refine (fun (hx : Keeps r x) => ?_) ?_; clear_value x; on_goal 2 => subst x)
    | ((try lift_lets -underBinder); intro x; subst x)
    | split
    | with_reducible refine Keeps.upd rfl rfl rfl rfl rfl rfl rfl rfl rfl ?_)

theorem latchRequest_keeps {r : State} {s : State} (h : Keeps r s) : Keeps r (latchRequest s) := by
  unfold latchRequest
  repeat' (first
    | with_reducible assumption
    | with_reducible refine modChg_keeps ?_
    | with_reducible rfl
    | ((try lift_lets -underBinder); intro x; refine (fun (hx : Keeps r x) => ?_) ?_; clear_value x; on_goal 2 => subst x)
    | ((try lift_lets -underBinder); intro x; subst x)
    | split
    | with_reducible refine Keeps.upd rfl rfl rfl rfl rfl rfl rfl rfl rfl ?_)

theorem latchFill_keeps {r : State} {d : List Byte} {s : State} (h : Keeps r s) : Keeps r (latchFill d s) := by
  unfold latchFill
  repeat' (first
    | with_reducible assumption
    | with_reducible refine wr_keeps ?_
    | with_reducible refine setF_keeps ?_
    | with_reducible refine presStat_keeps ?_
    | with_reducible rfl
    | ((try lift_lets -underBinder); intro x; refine (fun (hx : Keeps r x) => ?_) ?_; clear_value x; on_goal 2 => subst x)
    | ((try lift_lets -underBinder); intro x; subst x)
    | split
    | with_reducible refine Keeps.upd rfl rfl rfl rfl rfl rfl rfl rfl rfl ?_)

theorem latchDone_keeps {r : State} {s : State} (h : Keeps r s) : Keeps r (latchDone s) := by
  unfold latchDone
  repeat' (first
    | with_reducible assumption
    | with_reducible refine modChg_keeps ?_
    | with_reducible refine setF_keeps ?_
    | with_reducible refine ramRead_keeps ?_
    | with_reducible refine ramRead_keeps_eq ?_ (by assumption)
    | with_reducible refine latchFill_keeps ?_
    | with_reducible rfl
    | ((try lift_lets -underBinder); intro x; refine (fun (hx : Keeps r x) => ?_) ?_; clear_value x; on_goal 2 => subst x)
    | ((try lift_lets -underBinder); intro x; subst x)
    | split
    | with_reducible refine Keeps.upd rfl rfl rfl rfl rfl rfl rfl rfl rfl ?_)

theorem tempUpdate_keeps {r : State} {pkt : Option Int} {s : State} (h : Keeps r s) : Keeps r (tempUpdate pkt s) := by
  unfold tempUpdate
  repeat' (first
    | with_reducible assumption
    | with_reducible refine setF_keeps ?_
    | with_reducible refine modChg_keeps ?_
    | with_reducible rfl
    | ((try lift_lets -underBinder); intro x; refine (fun (hx : Keeps r x) => ?_) ?_; clear_value x; on_goal 2 => subst x)
    | ((try lift_lets -underBinder); intro x; subst x)
    | split
    | with_reducible refine Keeps.upd rfl rfl rfl rfl rfl rfl rfl rfl rfl ?_)

theorem bandChange_keeps {r : State} {s : State} (h : Keeps r s) : Keeps r (bandChange s) := by
  unfold bandChange
  repeat' (first
    | with_reducible assumption
    | with_reducible refine setF_keeps ?_
    | with_reducible rfl
    | ((try lift_lets -underBinder); intro x; refine (fun (hx : Keeps r x) => ?_) ?_; clear_value x; on_goal 2 => subst x)
    | ((try lift_lets -underBinder); intro x; subst x)
    | split
    | with_reducible refine Keeps.upd rfl rfl rfl rfl rfl rfl rfl rfl rfl ?_)

theorem queueRow_keeps {r : State} {row cause : Nat} {s : State} (h : Keeps r s) : Keeps r (queueRow row cause s) := by
  unfold queueRow
  repeat' (first
    | with_reducible assumption
    | with_reducible refine modChg_keeps ?_
    | with_reducible rfl
    | ((try lift_lets -underBinder); intro x; refine (fun (hx : Keeps r x) => ?_) ?_; clear_value x; on_goal 2 => subst x)
    | ((try lift_lets -underBinder); intro x; subst x)
    | split
    | with_reducible refine Keeps.upd rfl rfl rfl rfl rfl rfl rfl rfl rfl ?_)

theorem suspendExit_keeps {r : State} {s : State} (h : Keeps r s) : Keeps r (suspendExit s) := by
  unfold suspendExit
  repeat' (first
    | with_reducible assumption
    | with_reducible refine queueRow_keeps ?_
    | with_reducible rfl
    | ((try lift_lets -underBinder); intro x; refine (fun (hx : Keeps r x) => ?_) ?_; clear_value x; on_goal 2 => subst x)
    | ((try lift_lets -underBinder); intro x; subst x)
    | split
    | with_reducible refine Keeps.upd rfl rfl rfl rfl rfl rfl rfl rfl rfl ?_)

theorem tempStale_keeps {r : State} {s : State} (h : Keeps r s) : Keeps r (tempStale s) := by
  unfold tempStale
  repeat' (first
    | with_reducible assumption
    | with_reducible refine setF_keeps ?_
    | with_reducible refine modChg_keeps ?_
    | with_reducible rfl
    | ((try lift_lets -underBinder); intro x; refine (fun (hx : Keeps r x) => ?_) ?_; clear_value x; on_goal 2 => subst x)
    | ((try lift_lets -underBinder); intro x; subst x)
    | split
    | with_reducible refine Keeps.upd rfl rfl rfl rfl rfl rfl rfl rfl rfl ?_)

theorem rtempWrite_keeps {r : State} {v : Nat} {s : State} (h : Keeps r s) : Keeps r (rtempWrite v s) := by
  unfold rtempWrite
  repeat' (first
    | with_reducible assumption
    | with_reducible refine modChg_keeps ?_
    | with_reducible refine wr_keeps ?_
    | with_reducible refine setF_keeps ?_
    | with_reducible refine tempUpdate_keeps ?_
    | with_reducible rfl
    | ((try lift_lets -underBinder); intro x; refine (fun (hx : Keeps r x) => ?_) ?_; clear_value x; on_goal 2 => subst x)
    | ((try lift_lets -underBinder); intro x; subst x)
    | split
    | with_reducible refine Keeps.upd rfl rfl rfl rfl rfl rfl rfl rfl rfl ?_)

theorem setPoints_keeps {r : State} {s : State} (h : Keeps r s) : Keeps r (setPoints s) := by
  unfold setPoints
  repeat' (first
    | with_reducible assumption
    | with_reducible refine modChg_keeps ?_
    | with_reducible refine setF_keeps ?_
    | with_reducible rfl
    | ((try lift_lets -underBinder); intro x; refine (fun (hx : Keeps r x) => ?_) ?_; clear_value x; on_goal 2 => subst x)
    | ((try lift_lets -underBinder); intro x; subst x)
    | split
    | with_reducible refine Keeps.upd rfl rfl rfl rfl rfl rfl rfl rfl rfl ?_)

theorem chgRow3_keeps {r : State} {cause : Nat} {s : State} (h : Keeps r s) : Keeps r (chgRow3 cause s) := by
  unfold chgRow3
  repeat' (first
    | with_reducible assumption
    | with_reducible refine chgEnter_keeps ?_
    | with_reducible refine dgOpen_keeps ?_
    | with_reducible refine rsvCheck_keeps ?_
    | with_reducible rfl
    | ((try lift_lets -underBinder); intro x; refine (fun (hx : Keeps r x) => ?_) ?_; clear_value x; on_goal 2 => subst x)
    | ((try lift_lets -underBinder); intro x; subst x)
    | split
    | with_reducible refine Keeps.upd rfl rfl rfl rfl rfl rfl rfl rfl rfl ?_)

theorem chgRow2_keeps {r : State} {s : State} (h : Keeps r s) : Keeps r (chgRow2 s) := by
  unfold chgRow2
  repeat' (first
    | with_reducible assumption
    | with_reducible refine modChg_keeps ?_
    | with_reducible refine setF_keeps ?_
    | with_reducible refine chgEnter_keeps ?_
    | with_reducible refine dgOpen_keeps ?_
    | with_reducible rfl
    | ((try lift_lets -underBinder); intro x; refine (fun (hx : Keeps r x) => ?_) ?_; clear_value x; on_goal 2 => subst x)
    | ((try lift_lets -underBinder); intro x; subst x)
    | split
    | with_reducible refine Keeps.upd rfl rfl rfl rfl rfl rfl rfl rfl rfl ?_)

theorem removal_keeps {r : State} {by' : Nat} {s : State} (h : Keeps r s) : Keeps r (removal by' s) := by
  unfold removal
  repeat' (first
    | with_reducible assumption
    | with_reducible refine setF_keeps ?_
    | with_reducible refine latchClear_keeps ?_
    | with_reducible refine latchLeave_keeps ?_
    | with_reducible refine notify_keeps ?_
    | with_reducible refine stopFor_keeps ?_
    | with_reducible refine dgOpen_keeps ?_
    | with_reducible refine pkRemoval_keeps ?_
    | with_reducible refine rsvCheck_keeps ?_
    | with_reducible rfl
    | ((try lift_lets -underBinder); intro x; refine (fun (hx : Keeps r x) => ?_) ?_; clear_value x; on_goal 2 => subst x)
    | ((try lift_lets -underBinder); intro x; subst x)
    | split
    | with_reducible refine Keeps.upd rfl rfl rfl rfl rfl rfl rfl rfl rfl ?_)

theorem packOvTripOp_keeps {r : State} {o : FastObs} {s : State} (h : Keeps r s) : Keeps r (packOvTripOp o s) := by
  unfold packOvTripOp
  repeat' (first
    | with_reducible assumption
    | with_reducible refine putFast_keeps ?_
    | with_reducible refine raise'_keeps ?_
    | with_reducible refine stopFor_keeps ?_
    | with_reducible refine modChg_keeps ?_
    | with_reducible refine removal_keeps ?_
    | with_reducible refine rsvCheck_keeps ?_
    | with_reducible refine dgOpen_keeps ?_
    | with_reducible rfl
    | ((try lift_lets -underBinder); intro x; refine (fun (hx : Keeps r x) => ?_) ?_; clear_value x; on_goal 2 => subst x)
    | ((try lift_lets -underBinder); intro x; subst x)
    | split
    | with_reducible refine Keeps.upd rfl rfl rfl rfl rfl rfl rfl rfl rfl ?_)

theorem packOcTripOp_keeps {r : State} {o : FastObs} {s : State} (h : Keeps r s) : Keeps r (packOcTripOp o s) := by
  unfold packOcTripOp
  repeat' (first
    | with_reducible assumption
    | with_reducible refine putFast_keeps ?_
    | with_reducible refine raise'_keeps ?_
    | with_reducible refine stopFor_keeps ?_
    | with_reducible refine modChg_keeps ?_
    | with_reducible refine chgRow3_keeps ?_
    | with_reducible refine rsvCheck_keeps ?_
    | with_reducible rfl
    | ((try lift_lets -underBinder); intro x; refine (fun (hx : Keeps r x) => ?_) ?_; clear_value x; on_goal 2 => subst x)
    | ((try lift_lets -underBinder); intro x; subst x)
    | split
    | with_reducible refine Keeps.upd rfl rfl rfl rfl rfl rfl rfl rfl rfl ?_)

theorem presOpenOp_keeps {r : State} {s : State} (h : Keeps r s) : Keeps r (presOpenOp s) := by
  unfold presOpenOp
  repeat' (first
    | with_reducible assumption
    | with_reducible refine raise'_keeps ?_
    | with_reducible refine removal_keeps ?_
    | with_reducible rfl
    | ((try lift_lets -underBinder); intro x; refine (fun (hx : Keeps r x) => ?_) ?_; clear_value x; on_goal 2 => subst x)
    | ((try lift_lets -underBinder); intro x; subst x)
    | split
    | with_reducible refine Keeps.upd rfl rfl rfl rfl rfl rfl rfl rfl rfl ?_)

theorem collapseOp_keeps {r : State} {o : FastObs} {s : State} (h : Keeps r s) : Keeps r (collapseOp o s) := by
  unfold collapseOp
  repeat' (first
    | with_reducible assumption
    | with_reducible refine putFast_keeps ?_
    | with_reducible refine raise'_keeps ?_
    | with_reducible refine removal_keeps ?_
    | with_reducible rfl
    | ((try lift_lets -underBinder); intro x; refine (fun (hx : Keeps r x) => ?_) ?_; clear_value x; on_goal 2 => subst x)
    | ((try lift_lets -underBinder); intro x; subst x)
    | split
    | with_reducible refine Keeps.upd rfl rfl rfl rfl rfl rfl rfl rfl rfl ?_)

theorem chgLevels_keeps {r : State} {s : State} (h : Keeps r s) : Keeps r (chgLevels s) := by
  unfold chgLevels
  repeat' (first
    | with_reducible assumption
    | with_reducible refine modChg_keeps ?_
    | with_reducible rfl
    | ((try lift_lets -underBinder); intro x; refine (fun (hx : Keeps r x) => ?_) ?_; clear_value x; on_goal 2 => subst x)
    | ((try lift_lets -underBinder); intro x; subst x)
    | split
    | with_reducible refine Keeps.upd rfl rfl rfl rfl rfl rfl rfl rfl rfl ?_)

theorem chgStops_keeps {r : State} {s : State} (h : Keeps r s) : Keeps r (chgStops s) := by
  unfold chgStops
  repeat' (first
    | with_reducible assumption
    | with_reducible refine liftStop_keeps ?_
    | with_reducible rfl
    | ((try lift_lets -underBinder); intro x; refine (fun (hx : Keeps r x) => ?_) ?_; clear_value x; on_goal 2 => subst x)
    | ((try lift_lets -underBinder); intro x; subst x)
    | split
    | with_reducible refine Keeps.upd rfl rfl rfl rfl rfl rfl rfl rfl rfl ?_)

theorem packAbsentOp_keeps {r : State} {s : State} (h : Keeps r s) : Keeps r (packAbsentOp s) := by
  unfold packAbsentOp
  repeat' (first
    | with_reducible assumption
    | with_reducible refine queueRow_keeps ?_
    | with_reducible rfl
    | ((try lift_lets -underBinder); intro x; refine (fun (hx : Keeps r x) => ?_) ?_; clear_value x; on_goal 2 => subst x)
    | ((try lift_lets -underBinder); intro x; subst x)
    | split
    | with_reducible refine Keeps.upd rfl rfl rfl rfl rfl rfl rfl rfl rfl ?_)

theorem packPresenceOp_keeps {r : State} {s : State} (h : Keeps r s) : Keeps r (packPresenceOp s) := by
  unfold packPresenceOp
  repeat' (first
    | with_reducible assumption
    | with_reducible refine queueRow_keeps ?_
    | with_reducible rfl
    | ((try lift_lets -underBinder); intro x; refine (fun (hx : Keeps r x) => ?_) ?_; clear_value x; on_goal 2 => subst x)
    | ((try lift_lets -underBinder); intro x; subst x)
    | split
    | with_reducible refine Keeps.upd rfl rfl rfl rfl rfl rfl rfl rfl rfl ?_)

theorem rowAct_keeps {r0 : State} {r : Nat} {s : State} (h : Keeps r0 s) : Keeps r0 (rowAct r s) := by
  unfold rowAct
  repeat' (first
    | with_reducible assumption
    | with_reducible refine chgRow3_keeps ?_
    | with_reducible refine rampStart_keeps ?_
    | with_reducible refine chgEnter_keeps ?_
    | with_reducible refine setF_keeps ?_
    | with_reducible refine chgLog_keeps ?_
    | with_reducible rfl
    | ((try lift_lets -underBinder); intro x; refine (fun (hx : Keeps r0 x) => ?_) ?_; clear_value x; on_goal 2 => subst x)
    | ((try lift_lets -underBinder); intro x; subst x)
    | split
    | with_reducible refine Keeps.upd rfl rfl rfl rfl rfl rfl rfl rfl rfl ?_)

theorem takeRow_keeps {r : State} {exp : Option Nat} {s : State} (h : Keeps r s) : Keeps r (takeRow exp s) := by
  unfold takeRow
  repeat' (first
    | with_reducible assumption
    | with_reducible refine modChg_keeps ?_
    | with_reducible refine rowAct_keeps ?_
    | with_reducible rfl
    | ((try lift_lets -underBinder); intro x; refine (fun (hx : Keeps r x) => ?_) ?_; clear_value x; on_goal 2 => subst x)
    | ((try lift_lets -underBinder); intro x; subst x)
    | split
    | with_reducible refine Keeps.upd rfl rfl rfl rfl rfl rfl rfl rfl rfl ?_)

theorem chgRequest_keeps {r0 : State} {r : Nat} {s : State} (h : Keeps r0 s) : Keeps r0 (chgRequest r s) := by
  unfold chgRequest
  repeat' (first
    | with_reducible assumption
    | with_reducible refine rampStart_keeps ?_
    | with_reducible refine chgEnter_keeps ?_
    | with_reducible refine setF_keeps ?_
    | with_reducible rfl
    | ((try lift_lets -underBinder); intro x; refine (fun (hx : Keeps r0 x) => ?_) ?_; clear_value x; on_goal 2 => subst x)
    | ((try lift_lets -underBinder); intro x; subst x)
    | split
    | with_reducible refine Keeps.upd rfl rfl rfl rfl rfl rfl rfl rfl rfl ?_)

theorem chgSums_keeps {r : State} {o : FrameObs} {s : State} (h : Keeps r s) : Keeps r (chgSums o s) := by
  unfold chgSums
  repeat' (first
    | with_reducible assumption
    | with_reducible rfl
    | ((try lift_lets -underBinder); intro x; refine (fun (hx : Keeps r x) => ?_) ?_; clear_value x; on_goal 2 => subst x)
    | ((try lift_lets -underBinder); intro x; subst x)
    | split
    | with_reducible refine Keeps.upd rfl rfl rfl rfl rfl rfl rfl rfl rfl ?_)

theorem chgFrame_keeps {r : State} {s : State} (h : Keeps r s) : Keeps r (chgFrame s) := by
  unfold chgFrame
  repeat' (first
    | with_reducible assumption
    | with_reducible refine modChg_keeps ?_
    | with_reducible rfl
    | ((try lift_lets -underBinder); intro x; refine (fun (hx : Keeps r x) => ?_) ?_; clear_value x; on_goal 2 => subst x)
    | ((try lift_lets -underBinder); intro x; subst x)
    | split
    | with_reducible refine Keeps.upd rfl rfl rfl rfl rfl rfl rfl rfl rfl ?_)

theorem chgCount_keeps {r : State} {s : State} (h : Keeps r s) : Keeps r (chgCount s) := by
  unfold chgCount
  repeat' (first
    | with_reducible assumption
    | with_reducible refine wr_keeps ?_
    | with_reducible rfl
    | ((try lift_lets -underBinder); intro x; refine (fun (hx : Keeps r x) => ?_) ?_; clear_value x; on_goal 2 => subst x)
    | ((try lift_lets -underBinder); intro x; subst x)
    | split
    | with_reducible refine Keeps.upd rfl rfl rfl rfl rfl rfl rfl rfl rfl ?_)

theorem chgSuper_keeps {r : State} {s : State} (h : Keeps r s) : Keeps r (chgSuper s) := by
  unfold chgSuper
  repeat' (first
    | with_reducible assumption
    | with_reducible refine chgCount_keeps ?_
    | with_reducible refine setF_keeps ?_
    | with_reducible refine setB_keeps ?_
    | with_reducible refine modChg_keeps ?_
    | with_reducible rfl
    | ((try lift_lets -underBinder); intro x; refine (fun (hx : Keeps r x) => ?_) ?_; clear_value x; on_goal 2 => subst x)
    | ((try lift_lets -underBinder); intro x; subst x)
    | split
    | with_reducible refine Keeps.upd rfl rfl rfl rfl rfl rfl rfl rfl rfl ?_)

theorem rechargeOp_keeps {r : State} {s : State} (h : Keeps r s) : Keeps r (rechargeOp s) := by
  unfold rechargeOp
  repeat' (first
    | with_reducible assumption
    | with_reducible refine setF_keeps ?_
    | with_reducible rfl
    | ((try lift_lets -underBinder); intro x; refine (fun (hx : Keeps r x) => ?_) ?_; clear_value x; on_goal 2 => subst x)
    | ((try lift_lets -underBinder); intro x; subst x)
    | split
    | with_reducible refine Keeps.upd rfl rfl rfl rfl rfl rfl rfl rfl rfl ?_)

theorem lampSync_keeps {r : State} {s : State} (h : Keeps r s) : Keeps r (lampSync s) := by
  unfold lampSync
  repeat' (first
    | with_reducible assumption
    | with_reducible refine modChg_keeps ?_
    | with_reducible rfl
    | ((try lift_lets -underBinder); intro x; refine (fun (hx : Keeps r x) => ?_) ?_; clear_value x; on_goal 2 => subst x)
    | ((try lift_lets -underBinder); intro x; subst x)
    | split
    | with_reducible refine Keeps.upd rfl rfl rfl rfl rfl rfl rfl rfl rfl ?_)

theorem lampStepOp_keeps {r : State} {i : Nat} {s : State} (h : Keeps r s) : Keeps r (lampStepOp i s) := by
  unfold lampStepOp
  repeat' (first
    | with_reducible assumption
    | with_reducible refine modChg_keeps ?_
    | with_reducible rfl
    | ((try lift_lets -underBinder); intro x; refine (fun (hx : Keeps r x) => ?_) ?_; clear_value x; on_goal 2 => subst x)
    | ((try lift_lets -underBinder); intro x; subst x)
    | split
    | with_reducible refine Keeps.upd rfl rfl rfl rfl rfl rfl rfl rfl rfl ?_)

theorem lostTick_keeps {r : State} {s : State} (h : Keeps r s) : Keeps r (lostTick s) := by
  unfold lostTick
  repeat' (first
    | with_reducible assumption
    | with_reducible refine modChg_keeps ?_
    | with_reducible refine setF_keeps ?_
    | with_reducible refine chgLog_keeps ?_
    | with_reducible rfl
    | ((try lift_lets -underBinder); intro x; refine (fun (hx : Keeps r x) => ?_) ?_; clear_value x; on_goal 2 => subst x)
    | ((try lift_lets -underBinder); intro x; subst x)
    | split
    | with_reducible refine Keeps.upd rfl rfl rfl rfl rfl rfl rfl rfl rfl ?_)

theorem rechgTick_keeps {r : State} {s : State} (h : Keeps r s) : Keeps r (rechgTick s) := by
  unfold rechgTick
  repeat' (first
    | with_reducible assumption
    | with_reducible refine setF_keeps ?_
    | with_reducible rfl
    | ((try lift_lets -underBinder); intro x; refine (fun (hx : Keeps r x) => ?_) ?_; clear_value x; on_goal 2 => subst x)
    | ((try lift_lets -underBinder); intro x; subst x)
    | split
    | with_reducible refine Keeps.upd rfl rfl rfl rfl rfl rfl rfl rfl rfl ?_)

theorem chgTick_keeps {r : State} {o : FrameObs} {boundary : Bool} {req : Option Nat} {s : State} (h : Keeps r s) : Keeps r
    (chgTick o boundary req s) := by
  unfold chgTick
  repeat' (first
    | with_reducible assumption
    | with_reducible refine lostTick_keeps ?_
    | with_reducible refine rechgTick_keeps ?_
    | with_reducible refine modChg_keeps ?_
    | with_reducible refine setF_keeps ?_
    | with_reducible refine chgCount_keeps ?_
    | with_reducible refine takeRow_keeps ?_
    | with_reducible refine chgRequest_keeps ?_
    | with_reducible refine dgFollow_keeps ?_
    | with_reducible refine rsvCheck_keeps ?_
    | with_reducible refine setPoints_keeps ?_
    | with_reducible refine chgStops_keeps ?_
    | with_reducible refine lampSync_keeps ?_
    | with_reducible rfl
    | ((try lift_lets -underBinder); intro x; refine (fun (hx : Keeps r x) => ?_) ?_; clear_value x; on_goal 2 => subst x)
    | ((try lift_lets -underBinder); intro x; subst x)
    | split
    | with_reducible refine Keeps.upd rfl rfl rfl rfl rfl rfl rfl rfl rfl ?_)

theorem chgFirst_keeps {r : State} {s : State} (h : Keeps r s) : Keeps r (chgFirst s) := by
  unfold chgFirst
  repeat' (first
    | with_reducible assumption
    | with_reducible refine setF_keeps ?_
    | with_reducible refine chgEnter_keeps ?_
    | with_reducible rfl
    | ((try lift_lets -underBinder); intro x; refine (fun (hx : Keeps r x) => ?_) ?_; clear_value x; on_goal 2 => subst x)
    | ((try lift_lets -underBinder); intro x; subst x)
    | split
    | with_reducible refine Keeps.upd rfl rfl rfl rfl rfl rfl rfl rfl rfl ?_)

theorem govCount_keeps {r : State} {s : State} (h : Keeps r s) : Keeps r (govCount s) := by
  unfold govCount
  repeat' (first
    | with_reducible assumption
    | with_reducible refine modChg_keeps ?_
    | with_reducible rfl
    | ((try lift_lets -underBinder); intro x; refine (fun (hx : Keeps r x) => ?_) ?_; clear_value x; on_goal 2 => subst x)
    | ((try lift_lets -underBinder); intro x; subst x)
    | split
    | with_reducible refine Keeps.upd rfl rfl rfl rfl rfl rfl rfl rfl rfl ?_)

theorem selectorOp_keeps {r : State} {o : FastObs} {s : State} (h : Keeps r s) : Keeps r (selectorOp o s) := by
  unfold selectorOp
  repeat' (first
    | with_reducible assumption
    | with_reducible refine armFast_keeps ?_
    | with_reducible refine selectorUpdate_keeps ?_
    | with_reducible refine unfedRampEnd_keeps ?_
    | with_reducible refine preStep_keeps ?_
    | with_reducible refine chgLevels_keeps ?_
    | with_reducible refine govCount_keeps ?_
    | with_reducible rfl
    | ((try lift_lets -underBinder); intro x; refine (fun (hx : Keeps r x) => ?_) ?_; clear_value x; on_goal 2 => subst x)
    | ((try lift_lets -underBinder); intro x; subst x)
    | split
    | with_reducible refine Keeps.upd rfl rfl rfl rfl rfl rfl rfl rfl rfl ?_)

theorem portMeasureOp_keeps {r : State} {o : PortObs} {s : State} (h : Keeps r s) : Keeps r (portMeasureOp o s) := by
  unfold portMeasureOp
  repeat' (first
    | with_reducible assumption
    | with_reducible refine portMeasure_keeps ?_
    | with_reducible refine chgLevels_keeps ?_
    | with_reducible rfl
    | ((try lift_lets -underBinder); intro x; refine (fun (hx : Keeps r x) => ?_) ?_; clear_value x; on_goal 2 => subst x)
    | ((try lift_lets -underBinder); intro x; subst x)
    | split
    | with_reducible refine Keeps.upd rfl rfl rfl rfl rfl rfl rfl rfl rfl ?_)

end Sys2Proof.Machine
end

