-- ==== Sys2Proof/Laws/KeepsThmOps.lean ====
section
/-!
SUPPORT. What the operations of Machine/ThmOps.lean keep: the queue, and the legality of the state.
-/

namespace Sys2Proof.Machine

open Sys2Proof

set_option linter.unusedTactic false
set_option linter.unreachableTactic false
set_option linter.unusedVariables false

theorem sensStep_keeps {r : State} {o : ThermObs} {n : Nat} {s : State} (h : Keeps r s) : Keeps r (sensStep o n s) := by
  unfold sensStep
  repeat' (first
    | with_reducible assumption
    | with_reducible refine setF_keeps ?_
    | with_reducible rfl
    | ((try lift_lets -underBinder); intro x; refine (fun (hx : Keeps r x) => ?_) ?_; clear_value x; on_goal 2 => subst x)
    | ((try lift_lets -underBinder); intro x; subst x)
    | split
    | with_reducible refine Keeps.upd rfl rfl rfl rfl rfl rfl rfl rfl rfl ?_)

theorem thermTick_keeps {r : State} {s : State} (h : Keeps r s) : Keeps r (thermTick s) := by
  unfold thermTick
  repeat' (first
    | with_reducible assumption
    | with_reducible rfl
    | ((try lift_lets -underBinder); intro x; refine (fun (hx : Keeps r x) => ?_) ?_; clear_value x; on_goal 2 => subst x)
    | ((try lift_lets -underBinder); intro x; subst x)
    | split
    | with_reducible refine Keeps.upd rfl rfl rfl rfl rfl rfl rfl rfl rfl ?_)

theorem thresholds_keeps {r : State} {s : State} (h : Keeps r s) : Keeps r (thresholds s) := by
  unfold thresholds
  repeat' (first
    | with_reducible assumption
    | with_reducible refine setF_keeps ?_
    | with_reducible refine raise'_keeps ?_
    | with_reducible refine when'_keeps (fun _ _ => ?_) ?_
    | with_reducible refine keepCount_keeps ?_
    | with_reducible rfl
    | ((try lift_lets -underBinder); intro x; refine (fun (hx : Keeps r x) => ?_) ?_; clear_value x; on_goal 2 => subst x)
    | ((try lift_lets -underBinder); intro x; subst x)
    | split
    | with_reducible refine Keeps.upd rfl rfl rfl rfl rfl rfl rfl rfl rfl ?_)

theorem coolTimes_keeps {r : State} {s : State} (h : Keeps r s) : Keeps r (coolTimes s) := by
  unfold coolTimes
  repeat' (first
    | with_reducible assumption
    | with_reducible rfl
    | ((try lift_lets -underBinder); intro x; refine (fun (hx : Keeps r x) => ?_) ?_; clear_value x; on_goal 2 => subst x)
    | ((try lift_lets -underBinder); intro x; subst x)
    | split
    | with_reducible refine Keeps.upd rfl rfl rfl rfl rfl rfl rfl rfl rfl ?_)

theorem thermBound_keeps {r : State} {s : State} (h : Keeps r s) : Keeps r (thermBound s) := by
  unfold thermBound
  repeat' (first
    | with_reducible assumption
    | with_reducible refine setF_keeps ?_
    | with_reducible rfl
    | ((try lift_lets -underBinder); intro x; refine (fun (hx : Keeps r x) => ?_) ?_; clear_value x; on_goal 2 => subst x)
    | ((try lift_lets -underBinder); intro x; subst x)
    | split
    | with_reducible refine Keeps.upd rfl rfl rfl rfl rfl rfl rfl rfl rfl ?_)

theorem thermalUpdateOp_keeps {r : State} {o : ThermObs} {s : State} (h : Keeps r s) : Keeps r (thermalUpdateOp o s) := by
  unfold thermalUpdateOp
  repeat' (first
    | with_reducible assumption
    | with_reducible refine forN_keeps (fun _ _ _ => ?_) ?_
    | with_reducible refine sensStep_keeps ?_
    | with_reducible refine wr_keeps ?_
    | with_reducible refine thresholds_keeps ?_
    | with_reducible refine coolTimes_keeps ?_
    | with_reducible refine thermBound_keeps ?_
    | with_reducible refine setF_keeps ?_
    | with_reducible refine tempUpdate_keeps ?_
    | with_reducible rfl
    | ((try lift_lets -underBinder); intro x; refine (fun (hx : Keeps r x) => ?_) ?_; clear_value x; on_goal 2 => subst x)
    | ((try lift_lets -underBinder); intro x; subst x)
    | split
    | with_reducible refine Keeps.upd rfl rfl rfl rfl rfl rfl rfl rfl rfl ?_)

theorem thHardTripOp_keeps {r : State} {die : Int} {s : State} (h : Keeps r s) : Keeps r (thHardTripOp die s) := by
  unfold thHardTripOp
  repeat' (first
    | with_reducible assumption
    | with_reducible refine setF_keeps ?_
    | with_reducible refine raise'_keeps ?_
    | with_reducible refine stopFor_keeps ?_
    | with_reducible refine chgRow3_keeps ?_
    | with_reducible refine rsvCheck_keeps ?_
    | with_reducible rfl
    | ((try lift_lets -underBinder); intro x; refine (fun (hx : Keeps r x) => ?_) ?_; clear_value x; on_goal 2 => subst x)
    | ((try lift_lets -underBinder); intro x; subst x)
    | split
    | with_reducible refine Keeps.upd rfl rfl rfl rfl rfl rfl rfl rfl rfl ?_)

theorem thStopReleaseOp_keeps {r : State} {s : State} (h : Keeps r s) : Keeps r (thStopReleaseOp s) := by
  unfold thStopReleaseOp
  repeat' (first
    | with_reducible assumption
    | with_reducible refine setF_keeps ?_
    | with_reducible rfl
    | ((try lift_lets -underBinder); intro x; refine (fun (hx : Keeps r x) => ?_) ?_; clear_value x; on_goal 2 => subst x)
    | ((try lift_lets -underBinder); intro x; subst x)
    | split
    | with_reducible refine Keeps.upd rfl rfl rfl rfl rfl rfl rfl rfl rfl ?_)

theorem thHardReleaseOp_keeps {r : State} {s : State} (h : Keeps r s) : Keeps r (thHardReleaseOp s) := by
  unfold thHardReleaseOp
  repeat' (first
    | with_reducible assumption
    | with_reducible refine liftStop_keeps ?_
    | with_reducible refine setF_keeps ?_
    | with_reducible rfl
    | ((try lift_lets -underBinder); intro x; refine (fun (hx : Keeps r x) => ?_) ?_; clear_value x; on_goal 2 => subst x)
    | ((try lift_lets -underBinder); intro x; subst x)
    | split
    | with_reducible refine Keeps.upd rfl rfl rfl rfl rfl rfl rfl rfl rfl ?_)

theorem grazeTick_keeps {r : State} {s : State} (h : Keeps r s) : Keeps r (grazeTick s) := by
  unfold grazeTick
  repeat' (first
    | with_reducible assumption
    | with_reducible refine softRestart_keeps ?_
    | with_reducible rfl
    | ((try lift_lets -underBinder); intro x; refine (fun (hx : Keeps r x) => ?_) ?_; clear_value x; on_goal 2 => subst x)
    | ((try lift_lets -underBinder); intro x; subst x)
    | split
    | with_reducible refine Keeps.upd rfl rfl rfl rfl rfl rfl rfl rfl rfl ?_)

theorem grazeSuper_keeps {r : State} {s : State} (h : Keeps r s) : Keeps r (grazeSuper s) := by
  unfold grazeSuper
  repeat' (first
    | with_reducible assumption
    | with_reducible refine setF_keeps ?_
    | with_reducible refine grazeTick_keeps ?_
    | with_reducible rfl
    | ((try lift_lets -underBinder); intro x; refine (fun (hx : Keeps r x) => ?_) ?_; clear_value x; on_goal 2 => subst x)
    | ((try lift_lets -underBinder); intro x; subst x)
    | split
    | with_reducible refine Keeps.upd rfl rfl rfl rfl rfl rfl rfl rfl rfl ?_)

theorem wdgPeriod_keeps {r : State} {ms : Nat} {s : State} (h : Keeps r s) : Keeps r (wdgPeriod ms s) := by
  unfold wdgPeriod
  repeat' (first
    | with_reducible assumption
    | with_reducible refine setF_keeps ?_
    | with_reducible rfl
    | ((try lift_lets -underBinder); intro x; refine (fun (hx : Keeps r x) => ?_) ?_; clear_value x; on_goal 2 => subst x)
    | ((try lift_lets -underBinder); intro x; subst x)
    | split
    | with_reducible refine Keeps.upd rfl rfl rfl rfl rfl rfl rfl rfl rfl ?_)

theorem wdgFirst_keeps {r : State} {s : State} (h : Keeps r s) : Keeps r (wdgFirst s) := by
  unfold wdgFirst
  repeat' (first
    | with_reducible assumption
    | with_reducible refine wdgPeriod_keeps ?_
    | with_reducible rfl
    | ((try lift_lets -underBinder); intro x; refine (fun (hx : Keeps r x) => ?_) ?_; clear_value x; on_goal 2 => subst x)
    | ((try lift_lets -underBinder); intro x; subst x)
    | split
    | with_reducible refine Keeps.upd rfl rfl rfl rfl rfl rfl rfl rfl rfl ?_)

theorem wdgStart_keeps {r : State} {s : State} (h : Keeps r s) : Keeps r (wdgStart s) := by
  unfold wdgStart
  repeat' (first
    | with_reducible assumption
    | with_reducible refine parWrite_keeps ?_
    | with_reducible refine setF_keeps ?_
    | with_reducible refine wdgFirst_keeps ?_
    | with_reducible rfl
    | ((try lift_lets -underBinder); intro x; refine (fun (hx : Keeps r x) => ?_) ?_; clear_value x; on_goal 2 => subst x)
    | ((try lift_lets -underBinder); intro x; subst x)
    | split
    | with_reducible refine Keeps.upd rfl rfl rfl rfl rfl rfl rfl rfl rfl ?_)

theorem wdgHardStart_keeps {r : State} {s : State} (h : Keeps r s) : Keeps r (wdgHardStart s) := by
  unfold wdgHardStart
  repeat' (first
    | with_reducible assumption
    | with_reducible refine wdgStart_keeps ?_
    | with_reducible rfl
    | ((try lift_lets -underBinder); intro x; refine (fun (hx : Keeps r x) => ?_) ?_; clear_value x; on_goal 2 => subst x)
    | ((try lift_lets -underBinder); intro x; subst x)
    | split
    | with_reducible refine Keeps.upd rfl rfl rfl rfl rfl rfl rfl rfl rfl ?_)

theorem wdgValid_keeps {r : State} {s : State} (h : Keeps r s) : Keeps r (wdgValid s) := by
  unfold wdgValid
  repeat' (first
    | with_reducible assumption
    | with_reducible refine setF_keeps ?_
    | with_reducible refine wdgPeriod_keeps ?_
    | with_reducible rfl
    | ((try lift_lets -underBinder); intro x; refine (fun (hx : Keeps r x) => ?_) ?_; clear_value x; on_goal 2 => subst x)
    | ((try lift_lets -underBinder); intro x; subst x)
    | split
    | with_reducible refine Keeps.upd rfl rfl rfl rfl rfl rfl rfl rfl rfl ?_)

theorem wdgKeyWrite_keeps {r : State} {v : Nat} {s : State} (h : Keeps r s) : Keeps r (wdgKeyWrite v s) := by
  unfold wdgKeyWrite
  repeat' (first
    | with_reducible assumption
    | with_reducible refine setF_keeps ?_
    | with_reducible rfl
    | ((try lift_lets -underBinder); intro x; refine (fun (hx : Keeps r x) => ?_) ?_; clear_value x; on_goal 2 => subst x)
    | ((try lift_lets -underBinder); intro x; subst x)
    | split
    | with_reducible refine Keeps.upd rfl rfl rfl rfl rfl rfl rfl rfl rfl ?_)

theorem perWrite_keeps {r : State} {c v : Nat} {s : State} (h : Keeps r s) : Keeps r (perWrite c v s) := by
  unfold perWrite
  repeat' (first
    | with_reducible assumption
    | with_reducible refine wr_keeps ?_
    | with_reducible rfl
    | ((try lift_lets -underBinder); intro x; refine (fun (hx : Keeps r x) => ?_) ?_; clear_value x; on_goal 2 => subst x)
    | ((try lift_lets -underBinder); intro x; subst x)
    | split
    | with_reducible refine Keeps.upd rfl rfl rfl rfl rfl rfl rfl rfl rfl ?_)

theorem wdgCfgWrite_keeps {r : State} {c a v : Nat} {s : State} (h : Keeps r s) : Keeps r (wdgCfgWrite c a v s) := by
  unfold wdgCfgWrite
  repeat' (first
    | with_reducible assumption
    | with_reducible refine parWrite_keeps ?_
    | with_reducible refine perWrite_keeps ?_
    | with_reducible refine wr_keeps ?_
    | with_reducible refine setF_keeps ?_
    | with_reducible rfl
    | ((try lift_lets -underBinder); intro x; refine (fun (hx : Keeps r x) => ?_) ?_; clear_value x; on_goal 2 => subst x)
    | ((try lift_lets -underBinder); intro x; subst x)
    | split
    | with_reducible refine Keeps.upd rfl rfl rfl rfl rfl rfl rfl rfl rfl ?_)

theorem wdgWindowClose_keeps {r : State} {s : State} (h : Keeps r s) : Keeps r (wdgWindowClose s) := by
  unfold wdgWindowClose
  repeat' (first
    | with_reducible assumption
    | with_reducible refine setF_keeps ?_
    | with_reducible rfl
    | ((try lift_lets -underBinder); intro x; refine (fun (hx : Keeps r x) => ?_) ?_; clear_value x; on_goal 2 => subst x)
    | ((try lift_lets -underBinder); intro x; subst x)
    | split
    | with_reducible refine Keeps.upd rfl rfl rfl rfl rfl rfl rfl rfl rfl ?_)

theorem wdgFawn_keeps {r : State} {s : State} (h : Keeps r s) : Keeps r (wdgFawn s) := by
  unfold wdgFawn
  repeat' (first
    | with_reducible assumption
    | with_reducible refine setF_keeps ?_
    | with_reducible rfl
    | ((try lift_lets -underBinder); intro x; refine (fun (hx : Keeps r x) => ?_) ?_; clear_value x; on_goal 2 => subst x)
    | ((try lift_lets -underBinder); intro x; subst x)
    | split
    | with_reducible refine Keeps.upd rfl rfl rfl rfl rfl rfl rfl rfl rfl ?_)

theorem wdgFawnExit_keeps {r : State} {s : State} (h : Keeps r s) : Keeps r (wdgFawnExit s) := by
  unfold wdgFawnExit
  repeat' (first
    | with_reducible assumption
    | with_reducible refine setF_keeps ?_
    | with_reducible refine wdgPeriod_keeps ?_
    | with_reducible rfl
    | ((try lift_lets -underBinder); intro x; refine (fun (hx : Keeps r x) => ?_) ?_; clear_value x; on_goal 2 => subst x)
    | ((try lift_lets -underBinder); intro x; subst x)
    | split
    | with_reducible refine Keeps.upd rfl rfl rfl rfl rfl rfl rfl rfl rfl ?_)

end Sys2Proof.Machine
end

