-- ==== Sys2Proof/Laws/KeepsImpOps.lean ====
section
/-!
SUPPORT. What the operations of Machine/ImpOps.lean keep: the queue, and the legality of the state.
-/

namespace Sys2Proof.Machine

open Sys2Proof

set_option linter.unusedTactic false
set_option linter.unreachableTactic false
set_option linter.unusedVariables false

theorem sweepCheck_keeps {r : State} {a : Nat} {s : State} (h : Keeps r s) : Keeps r (sweepCheck a s).2 := by
  unfold sweepCheck
  repeat' (first
    | with_reducible assumption
    | with_reducible refine ramRead_keeps ?_
    | with_reducible refine ramRead_keeps_eq ?_ (by assumption)
    | with_reducible rfl
    | ((try lift_lets -underBinder); intro x; refine (fun (hx : Keeps r x) => ?_) ?_; clear_value x; on_goal 2 => subst x)
    | ((try lift_lets -underBinder); intro x; subst x)
    | split
    | with_reducible refine Keeps.upd rfl rfl rfl rfl rfl rfl rfl rfl rfl ?_)

theorem sweepCheck_keeps_eq {r u : State} {q : Option (Bool × Bool × Nat × List ImpPt)} {a : Nat} {s : State} (h : Keeps r
    s) (hq : sweepCheck a s = (q, u)) : Keeps r u := by
  have k := sweepCheck_keeps (a := a) h
  rw [hq] at k; exact k

theorem impHeader_keeps {r : State} {res outcome nDone nRetry : Nat} {s : State} (h : Keeps r s) : Keeps r (impHeader res
    outcome nDone nRetry s) := by
  unfold impHeader
  repeat' (first
    | with_reducible assumption
    | with_reducible refine ramStoreBytes_keeps ?_
    | with_reducible refine ramStoreBytes_keeps_eq ?_ (by assumption)
    | with_reducible rfl
    | ((try lift_lets -underBinder); intro x; refine (fun (hx : Keeps r x) => ?_) ?_; clear_value x; on_goal 2 => subst x)
    | ((try lift_lets -underBinder); intro x; subst x)
    | split
    | with_reducible refine Keeps.upd rfl rfl rfl rfl rfl rfl rfl rfl rfl ?_)

theorem impEnd_keeps {r : State} {j : ImpJob} {outcome : Nat} {s : State} (h : Keeps r s) : Keeps r (impEnd j outcome s) := by
  unfold impEnd
  repeat' (first
    | with_reducible assumption
    | with_reducible refine putJob_keeps ?_
    | with_reducible refine impHeader_keeps ?_
    | with_reducible refine setF_keeps ?_
    | with_reducible refine when'_keeps (fun _ _ => ?_) ?_
    | with_reducible refine impIdle_keeps ?_
    | with_reducible refine complete_keeps ?_
    | with_reducible rfl
    | ((try lift_lets -underBinder); intro x; refine (fun (hx : Keeps r x) => ?_) ?_; clear_value x; on_goal 2 => subst x)
    | ((try lift_lets -underBinder); intro x; subst x)
    | split
    | with_reducible refine Keeps.upd rfl rfl rfl rfl rfl rfl rfl rfl rfl ?_)

theorem impRefuse_keeps {r : State} {tag outcome : Nat} {s : State} (h : Keeps r s) : Keeps r (impRefuse tag outcome s) := by
  unfold impRefuse
  repeat' (first
    | with_reducible assumption
    | with_reducible refine setF_keeps ?_
    | with_reducible refine impIdle_keeps ?_
    | with_reducible refine complete_keeps ?_
    | with_reducible rfl
    | ((try lift_lets -underBinder); intro x; refine (fun (hx : Keeps r x) => ?_) ?_; clear_value x; on_goal 2 => subst x)
    | ((try lift_lets -underBinder); intro x; subst x)
    | split
    | with_reducible refine Keeps.upd rfl rfl rfl rfl rfl rfl rfl rfl rfl ?_)

theorem impSweepOp_keeps {r : State} {s : State} (h : Keeps r s) : Keeps r (impSweepOp s) := by
  unfold impSweepOp
  repeat' (first
    | with_reducible assumption
    | with_reducible refine sweepCheck_keeps ?_
    | with_reducible refine sweepCheck_keeps_eq ?_ (by assumption)
    | with_reducible refine impRefuse_keeps ?_
    | with_reducible refine impHeader_keeps ?_
    | with_reducible refine putJob_keeps ?_
    | with_reducible refine setF_keeps ?_
    | with_reducible refine wr_keeps ?_
    | with_reducible rfl
    | ((try lift_lets -underBinder); intro x; refine (fun (hx : Keeps r x) => ?_) ?_; clear_value x; on_goal 2 => subst x)
    | ((try lift_lets -underBinder); intro x; subst x)
    | split
    | with_reducible refine Keeps.upd rfl rfl rfl rfl rfl rfl rfl rfl rfl ?_)

theorem groupStart_keeps {r : State} {j : ImpJob} {s : State} (h : Keeps r s) : Keeps r (groupStart j s) := by
  unfold groupStart
  repeat' (first
    | with_reducible assumption
    | with_reducible refine impEnd_keeps ?_
    | with_reducible refine putJob_keeps ?_
    | with_reducible refine putProbe_keeps ?_
    | with_reducible refine wr_keeps ?_
    | with_reducible refine setF_keeps ?_
    | with_reducible refine setB_keeps ?_
    | with_reducible rfl
    | ((try lift_lets -underBinder); intro x; refine (fun (hx : Keeps r x) => ?_) ?_; clear_value x; on_goal 2 => subst x)
    | ((try lift_lets -underBinder); intro x; subst x)
    | split
    | with_reducible refine Keeps.upd rfl rfl rfl rfl rfl rfl rfl rfl rfl ?_)

theorem leadInEnd_keeps {r : State} {s : State} (h : Keeps r s) : Keeps r (leadInEnd s) := by
  unfold leadInEnd
  repeat' (first
    | with_reducible assumption
    | with_reducible refine setF_keeps ?_
    | with_reducible rfl
    | ((try lift_lets -underBinder); intro x; refine (fun (hx : Keeps r x) => ?_) ?_; clear_value x; on_goal 2 => subst x)
    | ((try lift_lets -underBinder); intro x; subst x)
    | split
    | with_reducible refine Keeps.upd rfl rfl rfl rfl rfl rfl rfl rfl rfl ?_)

theorem impFall_keeps {r : State} {j : ImpJob} {s : State} (h : Keeps r s) : Keeps r (impFall j s) := by
  unfold impFall
  repeat' (first
    | with_reducible assumption
    | with_reducible refine putJob_keeps ?_
    | with_reducible refine impEnd_keeps ?_
    | with_reducible refine putProbe_keeps ?_
    | with_reducible rfl
    | ((try lift_lets -underBinder); intro x; refine (fun (hx : Keeps r x) => ?_) ?_; clear_value x; on_goal 2 => subst x)
    | ((try lift_lets -underBinder); intro x; subst x)
    | split
    | with_reducible refine Keeps.upd rfl rfl rfl rfl rfl rfl rfl rfl rfl ?_)

theorem impTick_keeps {r : State} {str : Bool} {o : FrameObs} {s : State} (h : Keeps r s) : Keeps r (impTick str o s) := by
  unfold impTick
  repeat' (first
    | with_reducible assumption
    | with_reducible refine setF_keeps ?_
    | with_reducible refine impEnd_keeps ?_
    | with_reducible refine groupStart_keeps ?_
    | with_reducible refine impFall_keeps ?_
    | with_reducible refine putJob_keeps ?_
    | with_reducible refine wr_keeps ?_
    | with_reducible rfl
    | ((try lift_lets -underBinder); intro x; refine (fun (hx : Keeps r x) => ?_) ?_; clear_value x; on_goal 2 => subst x)
    | ((try lift_lets -underBinder); intro x; subst x)
    | split
    | with_reducible refine Keeps.upd rfl rfl rfl rfl rfl rfl rfl rfl rfl ?_)

theorem putRecord_keeps {r : State} {res p : Nat} {z : Int × Int × Nat} {vf : Nat} {s : State} (h : Keeps r s) : Keeps r
    (putRecord res p z vf s) := by
  unfold putRecord
  repeat' (first
    | with_reducible assumption
    | with_reducible refine ramStoreBytes_keeps ?_
    | with_reducible refine ramStoreBytes_keeps_eq ?_ (by assumption)
    | with_reducible refine incSat_keeps ?_
    | with_reducible refine setF_keeps ?_
    | with_reducible refine raise'_keeps ?_
    | with_reducible rfl
    | ((try lift_lets -underBinder); intro x; refine (fun (hx : Keeps r x) => ?_) ?_; clear_value x; on_goal 2 => subst x)
    | ((try lift_lets -underBinder); intro x; subst x)
    | split
    | with_reducible refine Keeps.upd rfl rfl rfl rfl rfl rfl rfl rfl rfl ?_)

theorem impCount_keeps {r : State} {j : ImpJob} {s : State} (h : Keeps r s) : Keeps r (impCount j s) := by
  unfold impCount
  repeat' (first
    | with_reducible assumption
    | with_reducible refine ramStoreBytes_keeps ?_
    | with_reducible refine ramStoreBytes_keeps_eq ?_ (by assumption)
    | with_reducible rfl
    | ((try lift_lets -underBinder); intro x; refine (fun (hx : Keeps r x) => ?_) ?_; clear_value x; on_goal 2 => subst x)
    | ((try lift_lets -underBinder); intro x; subst x)
    | split
    | with_reducible refine Keeps.upd rfl rfl rfl rfl rfl rfl rfl rfl rfl ?_)

theorem integrationEnd_keeps {r : State} {s : State} (h : Keeps r s) : Keeps r (integrationEnd s) := by
  unfold integrationEnd
  repeat' (first
    | with_reducible assumption
    | with_reducible refine forN_keeps (fun _ _ _ => ?_) ?_
    | with_reducible refine putRecord_keeps ?_
    | with_reducible refine setF_keeps ?_
    | with_reducible refine groupStart_keeps ?_
    | with_reducible refine impCount_keeps ?_
    | with_reducible refine impEnd_keeps ?_
    | with_reducible rfl
    | ((try lift_lets -underBinder); intro x; refine (fun (hx : Keeps r x) => ?_) ?_; clear_value x; on_goal 2 => subst x)
    | ((try lift_lets -underBinder); intro x; subst x)
    | split
    | with_reducible refine Keeps.upd rfl rfl rfl rfl rfl rfl rfl rfl rfl ?_)

theorem impCancelOp_keeps {r : State} {s : State} (h : Keeps r s) : Keeps r (impCancelOp s) := by
  unfold impCancelOp
  repeat' (first
    | with_reducible assumption
    | with_reducible refine putJob_keeps ?_
    | with_reducible rfl
    | ((try lift_lets -underBinder); intro x; refine (fun (hx : Keeps r x) => ?_) ?_; clear_value x; on_goal 2 => subst x)
    | ((try lift_lets -underBinder); intro x; subst x)
    | split
    | with_reducible refine Keeps.upd rfl rfl rfl rfl rfl rfl rfl rfl rfl ?_)

theorem impFence_keeps {r : State} {s : State} (h : Keeps r s) : Keeps r (impFence s) := by
  unfold impFence
  repeat' (first
    | with_reducible assumption
    | with_reducible refine fenceUnitOp_keeps ?_
    | with_reducible refine putJob_keeps ?_
    | with_reducible refine impIdle_keeps ?_
    | with_reducible refine setF_keeps ?_
    | with_reducible rfl
    | ((try lift_lets -underBinder); intro x; refine (fun (hx : Keeps r x) => ?_) ?_; clear_value x; on_goal 2 => subst x)
    | ((try lift_lets -underBinder); intro x; subst x)
    | split
    | with_reducible refine Keeps.upd rfl rfl rfl rfl rfl rfl rfl rfl rfl ?_)

theorem impGov_keeps {r : State} {s : State} (h : Keeps r s) : Keeps r (impGov s) := by
  unfold impGov
  repeat' (first
    | with_reducible assumption
    | with_reducible refine putJob_keeps ?_
    | with_reducible rfl
    | ((try lift_lets -underBinder); intro x; refine (fun (hx : Keeps r x) => ?_) ?_; clear_value x; on_goal 2 => subst x)
    | ((try lift_lets -underBinder); intro x; subst x)
    | split
    | with_reducible refine Keeps.upd rfl rfl rfl rfl rfl rfl rfl rfl rfl ?_)

theorem adcTick_keeps {r : State} {frm : Nat} {o : FrameObs} {s : State} (h : Keeps r s) : Keeps r (adcTick frm o s) := by
  unfold adcTick
  repeat' (first
    | with_reducible assumption
    | with_reducible refine wr_keeps ?_
    | with_reducible refine setB_keeps ?_
    | with_reducible refine when'_keeps (fun _ _ => ?_) ?_
    | with_reducible refine setF_keeps ?_
    | with_reducible rfl
    | ((try lift_lets -underBinder); intro x; refine (fun (hx : Keeps r x) => ?_) ?_; clear_value x; on_goal 2 => subst x)
    | ((try lift_lets -underBinder); intro x; subst x)
    | split
    | with_reducible refine Keeps.upd rfl rfl rfl rfl rfl rfl rfl rfl rfl ?_)

theorem adcConvOp_keeps {r : State} {vals : List Int} {s : State} (h : Keeps r s) : Keeps r (adcConvOp vals s) := by
  unfold adcConvOp
  repeat' (first
    | with_reducible assumption
    | with_reducible refine complete_keeps ?_
    | with_reducible rfl
    | ((try lift_lets -underBinder); intro x; refine (fun (hx : Keeps r x) => ?_) ?_; clear_value x; on_goal 2 => subst x)
    | ((try lift_lets -underBinder); intro x; subst x)
    | split
    | with_reducible refine Keeps.upd rfl rfl rfl rfl rfl rfl rfl rfl rfl ?_)

end Sys2Proof.Machine
end

