-- ==== Sys2Proof/Laws/KeepsPortOps.lean ====
section
/-!
SUPPORT. What the operations of Machine/PortOps.lean keep: the queue, and the legality of the state.
-/

namespace Sys2Proof.Machine

open Sys2Proof

set_option linter.unusedTactic false
set_option linter.unreachableTactic false
set_option linter.unusedVariables false

theorem presSync_keeps {r : State} {s : State} (h : Keeps r s) : Keeps r (presSync s) := by
  unfold presSync
  repeat' (first
    | with_reducible assumption
    | with_reducible refine setB_keeps ?_
    | with_reducible refine presStat_keeps ?_
    | with_reducible rfl
    | ((try lift_lets -underBinder); intro x; refine (fun (hx : Keeps r x) => ?_) ?_; clear_value x; on_goal 2 => subst x)
    | ((try lift_lets -underBinder); intro x; subst x)
    | split
    | with_reducible refine Keeps.upd rfl rfl rfl rfl rfl rfl rfl rfl rfl ?_)

theorem pktReadOp_keeps {r : State} {v : Nat} {s : State} (h : Keeps r s) : Keeps r (pktReadOp v s) := by
  unfold pktReadOp
  repeat' (first
    | with_reducible assumption
    | with_reducible refine setF_keeps ?_
    | with_reducible refine setB_keeps ?_
    | with_reducible refine presSync_keeps ?_
    | with_reducible rfl
    | ((try lift_lets -underBinder); intro x; refine (fun (hx : Keeps r x) => ?_) ?_; clear_value x; on_goal 2 => subst x)
    | ((try lift_lets -underBinder); intro x; subst x)
    | split
    | with_reducible refine Keeps.upd rfl rfl rfl rfl rfl rfl rfl rfl rfl ?_)

theorem pkiReadOp_keeps {r : State} {v : Nat} {s : State} (h : Keeps r s) : Keeps r (pkiReadOp v s) := by
  unfold pkiReadOp
  repeat' (first
    | with_reducible assumption
    | with_reducible refine setF_keeps ?_
    | with_reducible refine setB_keeps ?_
    | with_reducible refine presSync_keeps ?_
    | with_reducible rfl
    | ((try lift_lets -underBinder); intro x; refine (fun (hx : Keeps r x) => ?_) ?_; clear_value x; on_goal 2 => subst x)
    | ((try lift_lets -underBinder); intro x; subst x)
    | split
    | with_reducible refine Keeps.upd rfl rfl rfl rfl rfl rfl rfl rfl rfl ?_)

theorem modPin_keeps {r : State} {pki : Bool} {f : PkPin → PkPin} {s : State} (h : Keeps r s) : Keeps r (modPin pki f s) := by
  unfold modPin
  repeat' (first
    | with_reducible assumption
    | with_reducible rfl
    | ((try lift_lets -underBinder); intro x; refine (fun (hx : Keeps r x) => ?_) ?_; clear_value x; on_goal 2 => subst x)
    | ((try lift_lets -underBinder); intro x; subst x)
    | split
    | with_reducible refine Keeps.upd rfl rfl rfl rfl rfl rfl rfl rfl rfl ?_)

theorem presChangeOp_keeps {r : State} {pki opened : Bool} {s : State} (h : Keeps r s) : Keeps r (presChangeOp pki opened s)
    := by
  unfold presChangeOp
  repeat' (first
    | with_reducible assumption
    | with_reducible refine modPin_keeps ?_
    | with_reducible refine incSat_keeps ?_
    | with_reducible refine presSync_keeps ?_
    | with_reducible rfl
    | ((try lift_lets -underBinder); intro x; refine (fun (hx : Keeps r x) => ?_) ?_; clear_value x; on_goal 2 => subst x)
    | ((try lift_lets -underBinder); intro x; subst x)
    | split
    | with_reducible refine Keeps.upd rfl rfl rfl rfl rfl rfl rfl rfl rfl ?_)

theorem presWindowEnd_keeps {r : State} {pki : Bool} {s : State} (h : Keeps r s) : Keeps r (presWindowEnd pki s) := by
  unfold presWindowEnd
  repeat' (first
    | with_reducible assumption
    | with_reducible refine modPin_keeps ?_
    | with_reducible refine presSync_keeps ?_
    | with_reducible rfl
    | ((try lift_lets -underBinder); intro x; refine (fun (hx : Keeps r x) => ?_) ?_; clear_value x; on_goal 2 => subst x)
    | ((try lift_lets -underBinder); intro x; subst x)
    | split
    | with_reducible refine Keeps.upd rfl rfl rfl rfl rfl rfl rfl rfl rfl ?_)

theorem presStuckOp_keeps {r : State} {pki : Bool} {s : State} (h : Keeps r s) : Keeps r (presStuckOp pki s) := by
  unfold presStuckOp
  repeat' (first
    | with_reducible assumption
    | with_reducible refine modPin_keeps ?_
    | with_reducible refine setF_keeps ?_
    | with_reducible refine raise'_keeps ?_
    | with_reducible refine presSync_keeps ?_
    | with_reducible rfl
    | ((try lift_lets -underBinder); intro x; refine (fun (hx : Keeps r x) => ?_) ?_; clear_value x; on_goal 2 => subst x)
    | ((try lift_lets -underBinder); intro x; subst x)
    | split
    | with_reducible refine Keeps.upd rfl rfl rfl rfl rfl rfl rfl rfl rfl ?_)

theorem ownApply_keeps {r : State} {me old v : Nat} {busy : Bool} {s : State} (h : Keeps r s) : Keeps r (ownApply me old v
    busy s) := by
  unfold ownApply
  repeat' (first
    | with_reducible assumption
    | with_reducible refine setF_keeps ?_
    | with_reducible refine when'_keeps (fun _ _ => ?_) ?_
    | with_reducible rfl
    | ((try lift_lets -underBinder); intro x; refine (fun (hx : Keeps r x) => ?_) ?_; clear_value x; on_goal 2 => subst x)
    | ((try lift_lets -underBinder); intro x; subst x)
    | split
    | with_reducible refine Keeps.upd rfl rfl rfl rfl rfl rfl rfl rfl rfl ?_)

theorem ownWrite_keeps {r : State} {who : Option EngId} {v : Nat} {s : State} (h : Keeps r s) : Keeps r (ownWrite who v s) := by
  unfold ownWrite
  repeat' (first
    | with_reducible assumption
    | with_reducible refine setF_keeps ?_
    | with_reducible refine ownApply_keeps ?_
    | with_reducible rfl
    | ((try lift_lets -underBinder); intro x; refine (fun (hx : Keeps r x) => ?_) ?_; clear_value x; on_goal 2 => subst x)
    | ((try lift_lets -underBinder); intro x; subst x)
    | split
    | with_reducible refine Keeps.upd rfl rfl rfl rfl rfl rfl rfl rfl rfl ?_)

theorem cellEnd_keeps {r : State} {e : Nat} {edge lvl : Bool} {time : Nat} {s : State} (h : Keeps r s) : Keeps r (cellEnd e
    edge lvl time s) := by
  unfold cellEnd
  repeat' (first
    | with_reducible assumption
    | with_reducible refine putSeq_keeps ?_
    | with_reducible refine setF_keeps ?_
    | with_reducible refine seqResult_keeps ?_
    | with_reducible refine seqFlushTx_keeps ?_
    | with_reducible refine seqStart_keeps ?_
    | with_reducible rfl
    | ((try lift_lets -underBinder); intro x; refine (fun (hx : Keeps r x) => ?_) ?_; clear_value x; on_goal 2 => subst x)
    | ((try lift_lets -underBinder); intro x; subst x)
    | split
    | with_reducible refine Keeps.upd rfl rfl rfl rfl rfl rfl rfl rfl rfl ?_)

theorem seqFlushOp_keeps {r : State} {e : Nat} {s : State} (h : Keeps r s) : Keeps r (seqFlushOp e s) := by
  unfold seqFlushOp
  repeat' (first
    | with_reducible assumption
    | with_reducible refine seqFlush_keeps ?_
    | with_reducible rfl
    | ((try lift_lets -underBinder); intro x; refine (fun (hx : Keeps r x) => ?_) ?_; clear_value x; on_goal 2 => subst x)
    | ((try lift_lets -underBinder); intro x; subst x)
    | split
    | with_reducible refine Keeps.upd rfl rfl rfl rfl rfl rfl rfl rfl rfl ?_)

theorem seqDisableOp_keeps {r : State} {e : Nat} {s : State} (h : Keeps r s) : Keeps r (seqDisableOp e s) := by
  unfold seqDisableOp
  repeat' (first
    | with_reducible assumption
    | with_reducible refine putSeq_keeps ?_
    | with_reducible refine setF_keeps ?_
    | with_reducible rfl
    | ((try lift_lets -underBinder); intro x; refine (fun (hx : Keeps r x) => ?_) ?_; clear_value x; on_goal 2 => subst x)
    | ((try lift_lets -underBinder); intro x; subst x)
    | split
    | with_reducible refine Keeps.upd rfl rfl rfl rfl rfl rfl rfl rfl rfl ?_)

theorem unitRead_keeps {r : State} {a n : Nat} {s : State} (h : Keeps r s) : Keeps r (unitRead a n s).2 := by
  unfold unitRead
  repeat' (first
    | with_reducible assumption
    | with_reducible refine ramRead_keeps ?_
    | with_reducible refine ramRead_keeps_eq ?_ (by assumption)
    | with_reducible rfl
    | ((try lift_lets -underBinder); intro x; refine (fun (hx : Keeps r x) => ?_) ?_; clear_value x; on_goal 2 => subst x)
    | ((try lift_lets -underBinder); intro x; subst x)
    | split
    | with_reducible refine Keeps.upd rfl rfl rfl rfl rfl rfl rfl rfl rfl ?_)

theorem unitRead_keeps_eq {r u : State} {q : List Byte} {a n : Nat} {s : State} (h : Keeps r s) (hq : unitRead a n s = (q,
    u)) : Keeps r u := by
  have k := unitRead_keeps (a := a) (n := n) h
  rw [hq] at k; exact k

theorem pkbEnd_keeps {r : State} {t : TagRec} {d stored cnt bus : Nat} {s : State} (h : Keeps r s) : Keeps r (pkbEnd t d
    stored cnt bus s) := by
  unfold pkbEnd
  repeat' (first
    | with_reducible assumption
    | with_reducible refine setF_keeps ?_
    | with_reducible refine complete_keeps ?_
    | with_reducible rfl
    | ((try lift_lets -underBinder); intro x; refine (fun (hx : Keeps r x) => ?_) ?_; clear_value x; on_goal 2 => subst x)
    | ((try lift_lets -underBinder); intro x; subst x)
    | split
    | with_reducible refine Keeps.upd rfl rfl rfl rfl rfl rfl rfl rfl rfl ?_)

theorem pkbPlace_keeps {r : State} {idx : Nat} {s : State} (h : Keeps r s) : Keeps r (pkbPlace idx s) := by
  unfold pkbPlace
  repeat' (first
    | with_reducible assumption
    | with_reducible refine setF_keeps ?_
    | with_reducible rfl
    | ((try lift_lets -underBinder); intro x; refine (fun (hx : Keeps r x) => ?_) ?_; clear_value x; on_goal 2 => subst x)
    | ((try lift_lets -underBinder); intro x; subst x)
    | split
    | with_reducible refine Keeps.upd rfl rfl rfl rfl rfl rfl rfl rfl rfl ?_)

theorem pkbFree_keeps {r : State} {s : State} (h : Keeps r s) : Keeps r (pkbFree s) := by
  unfold pkbFree
  repeat' (first
    | with_reducible assumption
    | with_reducible refine setF_keeps ?_
    | with_reducible rfl
    | ((try lift_lets -underBinder); intro x; refine (fun (hx : Keeps r x) => ?_) ?_; clear_value x; on_goal 2 => subst x)
    | ((try lift_lets -underBinder); intro x; subst x)
    | split
    | with_reducible refine Keeps.upd rfl rfl rfl rfl rfl rfl rfl rfl rfl ?_)

theorem pkbRecover_keeps {r : State} {low : Bool} {ev : PkbEv} {s : State} (h : Keeps r s) : Keeps r (pkbRecover low ev s) := by
  unfold pkbRecover
  repeat' (first
    | with_reducible assumption
    | with_reducible refine incSat_keeps ?_
    | with_reducible refine setF_keeps ?_
    | with_reducible rfl
    | ((try lift_lets -underBinder); intro x; refine (fun (hx : Keeps r x) => ?_) ?_; clear_value x; on_goal 2 => subst x)
    | ((try lift_lets -underBinder); intro x; subst x)
    | split
    | with_reducible refine Keeps.upd rfl rfl rfl rfl rfl rfl rfl rfl rfl ?_)

theorem pkbAnswered_keeps {r : State} {t : TagRec} {w rx : List Byte} {s : State} (h : Keeps r s) : Keeps r (pkbAnswered t w
    rx s) := by
  unfold pkbAnswered
  repeat' (first
    | with_reducible assumption
    | with_reducible refine pkbEnd_keeps ?_
    | with_reducible refine pkbPlace_keeps ?_
    | with_reducible refine injDone_keeps ?_
    | with_reducible refine opStore_keeps ?_
    | with_reducible refine setF_keeps ?_
    | with_reducible refine incSat_keeps ?_
    | with_reducible refine raise'_keeps ?_
    | with_reducible rfl
    | ((try lift_lets -underBinder); intro x; refine (fun (hx : Keeps r x) => ?_) ?_; clear_value x; on_goal 2 => subst x)
    | ((try lift_lets -underBinder); intro x; subst x)
    | split
    | with_reducible refine Keeps.upd rfl rfl rfl rfl rfl rfl rfl rfl rfl ?_)

theorem pkbOutcome_keeps {r : State} {t : TagRec} {w : List Byte} {ev : PkbEv} {s : State} (h : Keeps r s) : Keeps r
    (pkbOutcome t w ev s) := by
  unfold pkbOutcome
  repeat' (first
    | with_reducible assumption
    | with_reducible refine pkbEnd_keeps ?_
    | with_reducible refine pkbPlace_keeps ?_
    | with_reducible refine incSat_keeps ?_
    | with_reducible refine setF_keeps ?_
    | with_reducible refine raise'_keeps ?_
    | with_reducible refine pkbAnswered_keeps ?_
    | with_reducible rfl
    | ((try lift_lets -underBinder); intro x; refine (fun (hx : Keeps r x) => ?_) ?_; clear_value x; on_goal 2 => subst x)
    | ((try lift_lets -underBinder); intro x; subst x)
    | split
    | with_reducible refine Keeps.upd rfl rfl rfl rfl rfl rfl rfl rfl rfl ?_)

theorem pkbRun_keeps {r : State} {low : Bool} {ev : PkbEv} {s : State} (h : Keeps r s) : Keeps r (pkbRun low ev s) := by
  unfold pkbRun
  repeat' (first
    | with_reducible assumption
    | with_reducible refine pkbEnd_keeps ?_
    | with_reducible refine pkbRecover_keeps ?_
    | with_reducible refine unitRead_keeps ?_
    | with_reducible refine unitRead_keeps_eq ?_ (by assumption)
    | with_reducible refine pkbOutcome_keeps ?_
    | with_reducible refine Keeps.ite_eq ?_ ?_ (by assumption)
    | with_reducible rfl
    | ((try lift_lets -underBinder); intro x; refine (fun (hx : Keeps r x) => ?_) ?_; clear_value x; on_goal 2 => subst x)
    | ((try lift_lets -underBinder); intro x; subst x)
    | split
    | with_reducible refine Keeps.upd rfl rfl rfl rfl rfl rfl rfl rfl rfl ?_)

theorem pkbXferOp_keeps {r : State} {low : Bool} {ev : PkbEv} {s : State} (h : Keeps r s) : Keeps r (pkbXferOp low ev s) := by
  unfold pkbXferOp
  repeat' (first
    | with_reducible assumption
    | with_reducible refine pkbFree_keeps ?_
    | with_reducible refine pkbRun_keeps ?_
    | with_reducible rfl
    | ((try lift_lets -underBinder); intro x; refine (fun (hx : Keeps r x) => ?_) ?_; clear_value x; on_goal 2 => subst x)
    | ((try lift_lets -underBinder); intro x; subst x)
    | split
    | with_reducible refine Keeps.upd rfl rfl rfl rfl rfl rfl rfl rfl rfl ?_)

theorem pkbRetryOp_keeps {r : State} {low : Bool} {ev : PkbEv} {s : State} (h : Keeps r s) : Keeps r (pkbRetryOp low ev s) := by
  unfold pkbRetryOp
  repeat' (first
    | with_reducible assumption
    | with_reducible refine pkbFree_keeps ?_
    | with_reducible refine pkbRun_keeps ?_
    | with_reducible rfl
    | ((try lift_lets -underBinder); intro x; refine (fun (hx : Keeps r x) => ?_) ?_; clear_value x; on_goal 2 => subst x)
    | ((try lift_lets -underBinder); intro x; subst x)
    | split
    | with_reducible refine Keeps.upd rfl rfl rfl rfl rfl rfl rfl rfl rfl ?_)

theorem pkbTimeoutOp_keeps {r : State} {idx : Nat} {s : State} (h : Keeps r s) : Keeps r (pkbTimeoutOp idx s) := by
  unfold pkbTimeoutOp
  repeat' (first
    | with_reducible assumption
    | with_reducible refine pkbEnd_keeps ?_
    | with_reducible refine pkbPlace_keeps ?_
    | with_reducible rfl
    | ((try lift_lets -underBinder); intro x; refine (fun (hx : Keeps r x) => ?_) ?_; clear_value x; on_goal 2 => subst x)
    | ((try lift_lets -underBinder); intro x; subst x)
    | split
    | with_reducible refine Keeps.upd rfl rfl rfl rfl rfl rfl rfl rfl rfl ?_)

theorem pkbFence_keeps {r : State} {s : State} (h : Keeps r s) : Keeps r (pkbFence s) := by
  unfold pkbFence
  repeat' (first
    | with_reducible assumption
    | with_reducible refine fenceUnitOp_keeps ?_
    | with_reducible refine setF_keeps ?_
    | with_reducible refine when'_keeps (fun _ _ => ?_) ?_
    | with_reducible refine ownRelease_keeps ?_
    | with_reducible rfl
    | ((try lift_lets -underBinder); intro x; refine (fun (hx : Keeps r x) => ?_) ?_; clear_value x; on_goal 2 => subst x)
    | ((try lift_lets -underBinder); intro x; subst x)
    | split
    | with_reducible refine Keeps.upd rfl rfl rfl rfl rfl rfl rfl rfl rfl ?_)

theorem pkbUnfence_keeps {r : State} {s : State} (h : Keeps r s) : Keeps r (pkbUnfence s) := by
  unfold pkbUnfence
  repeat' (first
    | with_reducible assumption
    | with_reducible refine setF_keeps ?_
    | with_reducible rfl
    | ((try lift_lets -underBinder); intro x; refine (fun (hx : Keeps r x) => ?_) ?_; clear_value x; on_goal 2 => subst x)
    | ((try lift_lets -underBinder); intro x; subst x)
    | split
    | with_reducible refine Keeps.upd rfl rfl rfl rfl rfl rfl rfl rfl rfl ?_)

end Sys2Proof.Machine
end

