-- ==== Sys2Proof/Laws/KeepsTmrOps.lean ====
section
/-!
SUPPORT. What the operations of Machine/TmrOps.lean keep: the queue, and the legality of the state.
-/

namespace Sys2Proof.Machine

open Sys2Proof

set_option linter.unusedTactic false
set_option linter.unreachableTactic false
set_option linter.unusedVariables false

theorem modTmr_keeps {r : State} {n : Nat} {f : TmrCh → TmrCh} {s : State} (h : Keeps r s) : Keeps r (modTmr n f s) := by
  unfold modTmr
  repeat' (first
    | with_reducible assumption
    | with_reducible rfl
    | ((try lift_lets -underBinder); intro x; refine (fun (hx : Keeps r x) => ?_) ?_; clear_value x; on_goal 2 => subst x)
    | ((try lift_lets -underBinder); intro x; subst x)
    | split
    | with_reducible refine Keeps.upd rfl rfl rfl rfl rfl rfl rfl rfl rfl ?_)

theorem tmrAcc0_keeps {r : State} {n : Nat} {s : State} (h : Keeps r s) : Keeps r (tmrAcc0 n s) := by
  unfold tmrAcc0
  repeat' (first
    | with_reducible assumption
    | with_reducible refine modTmr_keeps ?_
    | with_reducible rfl
    | ((try lift_lets -underBinder); intro x; refine (fun (hx : Keeps r x) => ?_) ?_; clear_value x; on_goal 2 => subst x)
    | ((try lift_lets -underBinder); intro x; subst x)
    | split
    | with_reducible refine Keeps.upd rfl rfl rfl rfl rfl rfl rfl rfl rfl ?_)

theorem tmrUnstage_keeps {r : State} {n : Nat} {s : State} (h : Keeps r s) : Keeps r (tmrUnstage n s) := by
  unfold tmrUnstage
  repeat' (first
    | with_reducible assumption
    | with_reducible refine wr_keeps ?_
    | with_reducible refine parWrite_keeps ?_
    | with_reducible refine setF_keeps ?_
    | with_reducible refine modTmr_keeps ?_
    | with_reducible rfl
    | ((try lift_lets -underBinder); intro x; refine (fun (hx : Keeps r x) => ?_) ?_; clear_value x; on_goal 2 => subst x)
    | ((try lift_lets -underBinder); intro x; subst x)
    | split
    | with_reducible refine Keeps.upd rfl rfl rfl rfl rfl rfl rfl rfl rfl ?_)

theorem tmrOut_keeps {r : State} {n : Nat} {b : Bool} {s : State} (h : Keeps r s) : Keeps r (tmrOut n b s) := by
  unfold tmrOut
  repeat' (first
    | with_reducible assumption
    | with_reducible refine setB_keeps ?_
    | with_reducible rfl
    | ((try lift_lets -underBinder); intro x; refine (fun (hx : Keeps r x) => ?_) ?_; clear_value x; on_goal 2 => subst x)
    | ((try lift_lets -underBinder); intro x; subst x)
    | split
    | with_reducible refine Keeps.upd rfl rfl rfl rfl rfl rfl rfl rfl rfl ?_)

theorem tmrReloadAct_keeps {r : State} {n : Nat} {s : State} (h : Keeps r s) : Keeps r (tmrReloadAct n s) := by
  unfold tmrReloadAct
  repeat' (first
    | with_reducible assumption
    | with_reducible refine tmrOut_keeps ?_
    | with_reducible rfl
    | ((try lift_lets -underBinder); intro x; refine (fun (hx : Keeps r x) => ?_) ?_; clear_value x; on_goal 2 => subst x)
    | ((try lift_lets -underBinder); intro x; subst x)
    | split
    | with_reducible refine Keeps.upd rfl rfl rfl rfl rfl rfl rfl rfl rfl ?_)

theorem tmrMatchAct_keeps {r : State} {n : Nat} {s : State} (h : Keeps r s) : Keeps r (tmrMatchAct n s) := by
  unfold tmrMatchAct
  repeat' (first
    | with_reducible assumption
    | with_reducible refine tmrOut_keeps ?_
    | with_reducible rfl
    | ((try lift_lets -underBinder); intro x; refine (fun (hx : Keeps r x) => ?_) ?_; clear_value x; on_goal 2 => subst x)
    | ((try lift_lets -underBinder); intro x; subst x)
    | split
    | with_reducible refine Keeps.upd rfl rfl rfl rfl rfl rfl rfl rfl rfl ?_)

theorem tmrReload_keeps {r : State} {n : Nat} {s : State} (h : Keeps r s) : Keeps r (tmrReload n s) := by
  unfold tmrReload
  repeat' (first
    | with_reducible assumption
    | with_reducible refine wr_keeps ?_
    | with_reducible refine setF_keeps ?_
    | with_reducible refine tmrUnstage_keeps ?_
    | with_reducible refine tmrReloadAct_keeps ?_
    | with_reducible rfl
    | ((try lift_lets -underBinder); intro x; refine (fun (hx : Keeps r x) => ?_) ?_; clear_value x; on_goal 2 => subst x)
    | ((try lift_lets -underBinder); intro x; subst x)
    | split
    | with_reducible refine Keeps.upd rfl rfl rfl rfl rfl rfl rfl rfl rfl ?_)

theorem tmrEdge_keeps {r : State} {n : Nat} {s : State} (h : Keeps r s) : Keeps r (tmrEdge n s) := by
  unfold tmrEdge
  repeat' (first
    | with_reducible assumption
    | with_reducible refine tmrOut_keeps ?_
    | with_reducible refine tmrReload_keeps ?_
    | with_reducible refine wr_keeps ?_
    | with_reducible refine setF_keeps ?_
    | with_reducible refine tmrMatchAct_keeps ?_
    | with_reducible rfl
    | ((try lift_lets -underBinder); intro x; refine (fun (hx : Keeps r x) => ?_) ?_; clear_value x; on_goal 2 => subst x)
    | ((try lift_lets -underBinder); intro x; subst x)
    | split
    | with_reducible refine Keeps.upd rfl rfl rfl rfl rfl rfl rfl rfl rfl ?_)

theorem tmrSource_keeps {r : State} {n : Nat} {s : State} (h : Keeps r s) : Keeps r (tmrSource n s) := by
  unfold tmrSource
  repeat' (first
    | with_reducible assumption
    | with_reducible refine tmrEdge_keeps ?_
    | with_reducible refine modTmr_keeps ?_
    | with_reducible rfl
    | ((try lift_lets -underBinder); intro x; refine (fun (hx : Keeps r x) => ?_) ?_; clear_value x; on_goal 2 => subst x)
    | ((try lift_lets -underBinder); intro x; subst x)
    | split
    | with_reducible refine Keeps.upd rfl rfl rfl rfl rfl rfl rfl rfl rfl ?_)

theorem tmrRefused_keeps {r : State} {n : Nat} {s : State} (h : Keeps r s) : Keeps r (tmrRefused n s) := by
  unfold tmrRefused
  repeat' (first
    | with_reducible assumption
    | with_reducible refine incSat_keeps ?_
    | with_reducible rfl
    | ((try lift_lets -underBinder); intro x; refine (fun (hx : Keeps r x) => ?_) ?_; clear_value x; on_goal 2 => subst x)
    | ((try lift_lets -underBinder); intro x; subst x)
    | split
    | with_reducible refine Keeps.upd rfl rfl rfl rfl rfl rfl rfl rfl rfl ?_)

theorem tioLvl_keeps {r : State} {k : Nat} {b : Bool} {s : State} (h : Keeps r s) : Keeps r (tioLvl k b s) := by
  unfold tioLvl
  repeat' (first
    | with_reducible assumption
    | with_reducible refine setB_keeps ?_
    | with_reducible rfl
    | ((try lift_lets -underBinder); intro x; refine (fun (hx : Keeps r x) => ?_) ?_; clear_value x; on_goal 2 => subst x)
    | ((try lift_lets -underBinder); intro x; subst x)
    | split
    | with_reducible refine Keeps.upd rfl rfl rfl rfl rfl rfl rfl rfl rfl ?_)

theorem countEdgeOp_keeps {r : State} {n : Nat} {gate : Bool} {gap : Nat} {s : State} (h : Keeps r s) : Keeps r (countEdgeOp
    n gate gap s) := by
  unfold countEdgeOp
  repeat' (first
    | with_reducible assumption
    | with_reducible refine tioLvl_keeps ?_
    | with_reducible refine tmrRefused_keeps ?_
    | with_reducible refine tmrSource_keeps ?_
    | with_reducible rfl
    | ((try lift_lets -underBinder); intro x; refine (fun (hx : Keeps r x) => ?_) ?_; clear_value x; on_goal 2 => subst x)
    | ((try lift_lets -underBinder); intro x; subst x)
    | split
    | with_reducible refine Keeps.upd rfl rfl rfl rfl rfl rfl rfl rfl rfl ?_)

theorem timerReloadOp_keeps {r : State} {n : Nat} {s : State} (h : Keeps r s) : Keeps r (timerReloadOp n s) := by
  unfold timerReloadOp
  repeat' (first
    | with_reducible assumption
    | with_reducible refine tmrEdge_keeps ?_
    | with_reducible rfl
    | ((try lift_lets -underBinder); intro x; refine (fun (hx : Keeps r x) => ?_) ?_; clear_value x; on_goal 2 => subst x)
    | ((try lift_lets -underBinder); intro x; subst x)
    | split
    | with_reducible refine Keeps.upd rfl rfl rfl rfl rfl rfl rfl rfl rfl ?_)

theorem timerMatchOp_keeps {r : State} {n : Nat} {s : State} (h : Keeps r s) : Keeps r (timerMatchOp n s) := by
  unfold timerMatchOp
  repeat' (first
    | with_reducible assumption
    | with_reducible refine tmrEdge_keeps ?_
    | with_reducible rfl
    | ((try lift_lets -underBinder); intro x; refine (fun (hx : Keeps r x) => ?_) ?_; clear_value x; on_goal 2 => subst x)
    | ((try lift_lets -underBinder); intro x; subst x)
    | split
    | with_reducible refine Keeps.upd rfl rfl rfl rfl rfl rfl rfl rfl rfl ?_)

theorem tmrCapture_keeps {r : State} {n : Nat} {s : State} (h : Keeps r s) : Keeps r (tmrCapture n s) := by
  unfold tmrCapture
  repeat' (first
    | with_reducible assumption
    | with_reducible refine setF_keeps ?_
    | with_reducible refine wr_keeps ?_
    | with_reducible rfl
    | ((try lift_lets -underBinder); intro x; refine (fun (hx : Keeps r x) => ?_) ?_; clear_value x; on_goal 2 => subst x)
    | ((try lift_lets -underBinder); intro x; subst x)
    | split
    | with_reducible refine Keeps.upd rfl rfl rfl rfl rfl rfl rfl rfl rfl ?_)

theorem timerCaptureOp_keeps {r : State} {n : Nat} {rising : Bool} {gap : Nat} {s : State} (h : Keeps r s) : Keeps r
    (timerCaptureOp n rising gap s) := by
  unfold timerCaptureOp
  repeat' (first
    | with_reducible assumption
    | with_reducible refine tioLvl_keeps ?_
    | with_reducible refine setF_keeps ?_
    | with_reducible refine tmrRefused_keeps ?_
    | with_reducible refine tmrCapture_keeps ?_
    | with_reducible rfl
    | ((try lift_lets -underBinder); intro x; refine (fun (hx : Keeps r x) => ?_) ?_; clear_value x; on_goal 2 => subst x)
    | ((try lift_lets -underBinder); intro x; subst x)
    | split
    | with_reducible refine Keeps.upd rfl rfl rfl rfl rfl rfl rfl rfl rfl ?_)

theorem tioStuckOp_keeps {r : State} {n : Nat} {s : State} (h : Keeps r s) : Keeps r (tioStuckOp n s) := by
  unfold tioStuckOp
  repeat' (first
    | with_reducible assumption
    | with_reducible refine tioLvl_keeps ?_
    | with_reducible refine setF_keeps ?_
    | with_reducible refine raise'_keeps ?_
    | with_reducible rfl
    | ((try lift_lets -underBinder); intro x; refine (fun (hx : Keeps r x) => ?_) ?_; clear_value x; on_goal 2 => subst x)
    | ((try lift_lets -underBinder); intro x; subst x)
    | split
    | with_reducible refine Keeps.upd rfl rfl rfl rfl rfl rfl rfl rfl rfl ?_)

theorem tmrLoad_keeps {r : State} {n v : Nat} {s : State} (h : Keeps r s) : Keeps r (tmrLoad n v s) := by
  unfold tmrLoad
  repeat' (first
    | with_reducible assumption
    | with_reducible refine wr_keeps ?_
    | with_reducible refine tmrAcc0_keeps ?_
    | with_reducible rfl
    | ((try lift_lets -underBinder); intro x; refine (fun (hx : Keeps r x) => ?_) ?_; clear_value x; on_goal 2 => subst x)
    | ((try lift_lets -underBinder); intro x; subst x)
    | split
    | with_reducible refine Keeps.upd rfl rfl rfl rfl rfl rfl rfl rfl rfl ?_)

theorem tmrCmpWrite_keeps {r : State} {n : Nat} {v : Word} {s : State} (h : Keeps r s) : Keeps r (tmrCmpWrite n v s) := by
  unfold tmrCmpWrite
  repeat' (first
    | with_reducible assumption
    | with_reducible refine modTmr_keeps ?_
    | with_reducible refine setF_keeps ?_
    | with_reducible refine parWrite_keeps ?_
    | with_reducible refine wr_keeps ?_
    | with_reducible rfl
    | ((try lift_lets -underBinder); intro x; refine (fun (hx : Keeps r x) => ?_) ?_; clear_value x; on_goal 2 => subst x)
    | ((try lift_lets -underBinder); intro x; subst x)
    | split
    | with_reducible refine Keeps.upd rfl rfl rfl rfl rfl rfl rfl rfl rfl ?_)

theorem tmrPreWrite_keeps {r : State} {n v : Nat} {s : State} (h : Keeps r s) : Keeps r (tmrPreWrite n v s) := by
  unfold tmrPreWrite
  repeat' (first
    | with_reducible assumption
    | with_reducible refine parWrite_keeps ?_
    | with_reducible refine wr_keeps ?_
    | with_reducible rfl
    | ((try lift_lets -underBinder); intro x; refine (fun (hx : Keeps r x) => ?_) ?_; clear_value x; on_goal 2 => subst x)
    | ((try lift_lets -underBinder); intro x; subst x)
    | split
    | with_reducible refine Keeps.upd rfl rfl rfl rfl rfl rfl rfl rfl rfl ?_)

theorem tmrPerWrite_keeps {r : State} {n v : Nat} {s : State} (h : Keeps r s) : Keeps r (tmrPerWrite n v s) := by
  unfold tmrPerWrite
  repeat' (first
    | with_reducible assumption
    | with_reducible refine parWrite_keeps ?_
    | with_reducible refine wr_keeps ?_
    | with_reducible rfl
    | ((try lift_lets -underBinder); intro x; refine (fun (hx : Keeps r x) => ?_) ?_; clear_value x; on_goal 2 => subst x)
    | ((try lift_lets -underBinder); intro x; subst x)
    | split
    | with_reducible refine Keeps.upd rfl rfl rfl rfl rfl rfl rfl rfl rfl ?_)

theorem tmrCfgWrite_keeps {r : State} {n v : Nat} {s : State} (h : Keeps r s) : Keeps r (tmrCfgWrite n v s) := by
  unfold tmrCfgWrite
  repeat' (first
    | with_reducible assumption
    | with_reducible refine parWrite_keeps ?_
    | with_reducible refine wr_keeps ?_
    | with_reducible refine tmrAcc0_keeps ?_
    | with_reducible refine tmrUnstage_keeps ?_
    | with_reducible refine setF_keeps ?_
    | with_reducible rfl
    | ((try lift_lets -underBinder); intro x; refine (fun (hx : Keeps r x) => ?_) ?_; clear_value x; on_goal 2 => subst x)
    | ((try lift_lets -underBinder); intro x; subst x)
    | split
    | with_reducible refine Keeps.upd rfl rfl rfl rfl rfl rfl rfl rfl rfl ?_)

theorem timerCaptureReadOp_keeps {r : State} {n : Nat} {s : State} (h : Keeps r s) : Keeps r (timerCaptureReadOp n s) := by
  unfold timerCaptureReadOp
  repeat' (first
    | with_reducible assumption
    | with_reducible refine setF_keeps ?_
    | with_reducible rfl
    | ((try lift_lets -underBinder); intro x; refine (fun (hx : Keeps r x) => ?_) ?_; clear_value x; on_goal 2 => subst x)
    | ((try lift_lets -underBinder); intro x; subst x)
    | split
    | with_reducible refine Keeps.upd rfl rfl rfl rfl rfl rfl rfl rfl rfl ?_)

theorem staggerOp_keeps {r : State} {mask : Nat} {s : State} (h : Keeps r s) : Keeps r (staggerOp mask s) := by
  unfold staggerOp
  repeat' (first
    | with_reducible assumption
    | with_reducible refine setF_keeps ?_
    | with_reducible refine tmrLoad_keeps ?_
    | with_reducible refine Keeps.fold (fun _ _ _ => ?_) ?_
    | with_reducible rfl
    | ((try lift_lets -underBinder); intro x; refine (fun (hx : Keeps r x) => ?_) ?_; clear_value x; on_goal 2 => subst x)
    | ((try lift_lets -underBinder); intro x; subst x)
    | split
    | with_reducible refine Keeps.upd rfl rfl rfl rfl rfl rfl rfl rfl rfl ?_)

theorem tmrTick_keeps {r : State} {o : BitVec 8} {s : State} (h : Keeps r s) : Keeps r (tmrTick o s) := by
  unfold tmrTick
  repeat' (first
    | with_reducible assumption
    | with_reducible refine forN_keeps (fun _ _ _ => ?_) ?_
    | with_reducible refine tmrReload_keeps ?_
    | with_reducible refine tmrAcc0_keeps ?_
    | with_reducible refine tmrSource_keeps ?_
    | with_reducible refine tmrCapture_keeps ?_
    | with_reducible refine tioLvl_keeps ?_
    | with_reducible rfl
    | ((try lift_lets -underBinder); intro x; refine (fun (hx : Keeps r x) => ?_) ?_; clear_value x; on_goal 2 => subst x)
    | ((try lift_lets -underBinder); intro x; subst x)
    | split
    | with_reducible refine Keeps.upd rfl rfl rfl rfl rfl rfl rfl rfl rfl ?_)

theorem scanBank_keeps {r : State} {b : Bool} {a n : Nat} {s : State} (h : Keeps r s) : Keeps r (scanBank b a n s).2 := by
  unfold scanBank
  repeat' (first
    | with_reducible assumption
    | with_reducible refine psReadLine_keeps ?_
    | with_reducible refine psReadLine_keeps_eq ?_ (by assumption)
    | with_reducible refine Keeps.fold (fun _ _ _ => ?_) ?_
    | with_reducible refine Keeps.fold2 (fun _ _ _ => ?_) ?_
    | with_reducible refine Keeps.fold2_eq (fun _ _ _ => ?_) ?_ (by assumption)
    | with_reducible rfl
    | ((try lift_lets -underBinder); intro x; refine (fun (hx : Keeps r x) => ?_) ?_; clear_value x; on_goal 2 => subst x)
    | ((try lift_lets -underBinder); intro x; subst x)
    | split
    | with_reducible refine Keeps.upd rfl rfl rfl rfl rfl rfl rfl rfl rfl ?_)

theorem scanBank_keeps_eq {r u : State} {q : (Nat ⊕ List Byte)} {b : Bool} {a n : Nat} {s : State} (h : Keeps r s) (hq :
    scanBank b a n s = (q, u)) : Keeps r u := by
  have k := scanBank_keeps (b := b) (a := a) (n := n) h
  rw [hq] at k; exact k

theorem scanPrefix_keeps {r : State} {p : Nat} {s : State} (h : Keeps r s) : Keeps r (scanPrefix p s).2 := by
  unfold scanPrefix
  repeat' (first
    | with_reducible assumption
    | with_reducible refine ramRead_keeps ?_
    | with_reducible refine ramRead_keeps_eq ?_ (by assumption)
    | with_reducible rfl
    | ((try lift_lets -underBinder); intro x; refine (fun (hx : Keeps r x) => ?_) ?_; clear_value x; on_goal 2 => subst x)
    | ((try lift_lets -underBinder); intro x; subst x)
    | split
    | with_reducible refine Keeps.upd rfl rfl rfl rfl rfl rfl rfl rfl rfl ?_)

theorem scanPrefix_keeps_eq {r u : State} {q : ((Nat × Nat) ⊕ List Byte)} {p : Nat} {s : State} (h : Keeps r s) (hq :
    scanPrefix p s = (q, u)) : Keeps r u := by
  have k := scanPrefix_keeps (p := p) h
  rw [hq] at k; exact k

theorem scanEnd_keeps {r : State} {tag detail res pos : Nat} {s : State} (h : Keeps r s) : Keeps r (scanEnd tag detail res
    pos s) := by
  unfold scanEnd
  repeat' (first
    | with_reducible assumption
    | with_reducible refine setF_keeps ?_
    | with_reducible refine incWrap_keeps ?_
    | with_reducible refine wr_keeps ?_
    | with_reducible refine incSat_keeps ?_
    | with_reducible refine complete_keeps ?_
    | with_reducible rfl
    | ((try lift_lets -underBinder); intro x; refine (fun (hx : Keeps r x) => ?_) ?_; clear_value x; on_goal 2 => subst x)
    | ((try lift_lets -underBinder); intro x; subst x)
    | split
    | with_reducible refine Keeps.upd rfl rfl rfl rfl rfl rfl rfl rfl rfl ?_)

theorem crcScanOp_keeps {r : State} {s : State} (h : Keeps r s) : Keeps r (crcScanOp s) := by
  unfold crcScanOp
  repeat' (first
    | with_reducible assumption
    | with_reducible refine scanPrefix_keeps ?_
    | with_reducible refine scanPrefix_keeps_eq ?_ (by assumption)
    | with_reducible refine scanEnd_keeps ?_
    | with_reducible refine ramRead_keeps ?_
    | with_reducible refine ramRead_keeps_eq ?_ (by assumption)
    | with_reducible refine scanBank_keeps ?_
    | with_reducible refine scanBank_keeps_eq ?_ (by assumption)
    | with_reducible refine opStore_keeps ?_
    | with_reducible refine Keeps.ite_eq ?_ ?_ (by assumption)
    | with_reducible rfl
    | ((try lift_lets -underBinder); intro x; refine (fun (hx : Keeps r x) => ?_) ?_; clear_value x; on_goal 2 => subst x)
    | ((try lift_lets -underBinder); intro x; subst x)
    | split
    | with_reducible refine Keeps.upd rfl rfl rfl rfl rfl rfl rfl rfl rfl ?_)

end Sys2Proof.Machine
end

