-- ==== Sys2Proof/Laws/KeepsTcpOps.lean ====
section
/-!
SUPPORT. What the operations of Machine/TcpOps.lean keep: the queue, and the legality of the state.
-/

namespace Sys2Proof.Machine

open Sys2Proof

set_option linter.unusedTactic false
set_option linter.unreachableTactic false
set_option linter.unusedVariables false

theorem modTcp_keeps {r : State} {f : Tcp → Tcp} {s : State} (h : Keeps r s) : Keeps r (modTcp f s) := by
  unfold modTcp
  repeat' (first
    | with_reducible assumption
    | with_reducible rfl
    | ((try lift_lets -underBinder); intro x; refine (fun (hx : Keeps r x) => ?_) ?_; clear_value x; on_goal 2 => subst x)
    | ((try lift_lets -underBinder); intro x; subst x)
    | split
    | with_reducible refine Keeps.upd rfl rfl rfl rfl rfl rfl rfl rfl rfl ?_)

theorem tcpRes_keeps {r : State} {c : Bool} {code : Nat} {fin : Bool} {s : State} (h : Keeps r s) : Keeps r (tcpRes c code
    fin s) := by
  unfold tcpRes
  repeat' (first
    | with_reducible assumption
    | with_reducible refine setF_keeps ?_
    | with_reducible refine fin_keeps ?_
    | with_reducible rfl
    | ((try lift_lets -underBinder); intro x; refine (fun (hx : Keeps r x) => ?_) ?_; clear_value x; on_goal 2 => subst x)
    | ((try lift_lets -underBinder); intro x; subst x)
    | split
    | with_reducible refine Keeps.upd rfl rfl rfl rfl rfl rfl rfl rfl rfl ?_)

theorem tcpErr_keeps {r : State} {s : State} (h : Keeps r s) : Keeps r (tcpErr s) := by
  unfold tcpErr
  repeat' (first
    | with_reducible assumption
    | with_reducible refine setF_keeps ?_
    | with_reducible refine raise'_keeps ?_
    | with_reducible rfl
    | ((try lift_lets -underBinder); intro x; refine (fun (hx : Keeps r x) => ?_) ?_; clear_value x; on_goal 2 => subst x)
    | ((try lift_lets -underBinder); intro x; subst x)
    | split
    | with_reducible refine Keeps.upd rfl rfl rfl rfl rfl rfl rfl rfl rfl ?_)

theorem tcpSoft_keeps {r : State} {s : State} (h : Keeps r s) : Keeps r (tcpSoft s) := by
  unfold tcpSoft
  repeat' (first
    | with_reducible assumption
    | with_reducible refine setF_keeps ?_
    | with_reducible refine incSat_keeps ?_
    | with_reducible refine modTcp_keeps ?_
    | with_reducible rfl
    | ((try lift_lets -underBinder); intro x; refine (fun (hx : Keeps r x) => ?_) ?_; clear_value x; on_goal 2 => subst x)
    | ((try lift_lets -underBinder); intro x; subst x)
    | split
    | with_reducible refine Keeps.upd rfl rfl rfl rfl rfl rfl rfl rfl rfl ?_)

theorem eprEnd_keeps {r : State} {s : State} (h : Keeps r s) : Keeps r (eprEnd s) := by
  unfold eprEnd
  repeat' (first
    | with_reducible assumption
    | with_reducible refine setF_keeps ?_
    | with_reducible refine modTcp_keeps ?_
    | with_reducible rfl
    | ((try lift_lets -underBinder); intro x; refine (fun (hx : Keeps r x) => ?_) ?_; clear_value x; on_goal 2 => subst x)
    | ((try lift_lets -underBinder); intro x; subst x)
    | split
    | with_reducible refine Keeps.upd rfl rfl rfl rfl rfl rfl rfl rfl rfl ?_)

theorem tcpPut_keeps {r : State} {m : TcpMsg} {cmd : Bool} {s : State} (h : Keeps r s) : Keeps r (tcpPut m cmd s) := by
  unfold tcpPut
  repeat' (first
    | with_reducible assumption
    | with_reducible refine modTcp_keeps ?_
    | with_reducible refine tcpSoft_keeps ?_
    | with_reducible refine eprEnd_keeps ?_
    | with_reducible refine incSat_keeps ?_
    | with_reducible rfl
    | ((try lift_lets -underBinder); intro x; refine (fun (hx : Keeps r x) => ?_) ?_; clear_value x; on_goal 2 => subst x)
    | ((try lift_lets -underBinder); intro x; subst x)
    | split
    | with_reducible refine Keeps.upd rfl rfl rfl rfl rfl rfl rfl rfl rfl ?_)

theorem tcpSend_keeps {r : State} {m : TcpMsg} {cmd : Bool} {s : State} (h : Keeps r s) : Keeps r (tcpSend m cmd s) := by
  unfold tcpSend
  repeat' (first
    | with_reducible assumption
    | with_reducible refine modTcp_keeps ?_
    | with_reducible refine tcpPut_keeps ?_
    | with_reducible rfl
    | ((try lift_lets -underBinder); intro x; refine (fun (hx : Keeps r x) => ?_) ?_; clear_value x; on_goal 2 => subst x)
    | ((try lift_lets -underBinder); intro x; subst x)
    | split
    | with_reducible refine Keeps.upd rfl rfl rfl rfl rfl rfl rfl rfl rfl ?_)

theorem tcpDefer_keeps {r : State} {m : TcpMsg} {cmd : Bool} {s : State} (h : Keeps r s) : Keeps r (tcpDefer m cmd s) := by
  unfold tcpDefer
  repeat' (first
    | with_reducible assumption
    | with_reducible refine plannedRelease_keeps ?_
    | with_reducible refine modTcp_keeps ?_
    | with_reducible rfl
    | ((try lift_lets -underBinder); intro x; refine (fun (hx : Keeps r x) => ?_) ?_; clear_value x; on_goal 2 => subst x)
    | ((try lift_lets -underBinder); intro x; subst x)
    | split
    | with_reducible refine Keeps.upd rfl rfl rfl rfl rfl rfl rfl rfl rfl ?_)

theorem tcpNextN_keeps {r : State} : ∀ {n : Nat} {s : State}, Keeps r s → Keeps r (tcpNextN n s)
  | 0, _, h => h
  | n + 1, s, h => by
    unfold tcpNextN
    split
    · exact h
    · split
      · exact h
      · refine Keeps.ite (tcpNextN_keeps (modTcp_keeps (modTcp_keeps h))) (Keeps.ite (Keeps.ite ?_ ?_) (tcpPut_keeps (modTcp_keeps h)))
        · exact tcpNextN_keeps (tcpRes_keeps (modTcp_keeps h))
        · exact tcpNextN_keeps (tcpDefer_keeps (modTcp_keeps h))

theorem tcpNext_keeps {r : State} {s : State} (h : Keeps r s) : Keeps r (tcpNext s) := tcpNextN_keeps h

theorem tcpSeq_keeps {r : State} {m : TcpMsg} {cmd : Bool} {s : State} (h : Keeps r s) : Keeps r (tcpSeq m cmd s) := by
  unfold tcpSeq
  repeat' (first
    | with_reducible assumption
    | with_reducible refine modTcp_keeps ?_
    | with_reducible refine tcpSend_keeps ?_
    | with_reducible rfl
    | ((try lift_lets -underBinder); intro x; refine (fun (hx : Keeps r x) => ?_) ?_; clear_value x; on_goal 2 => subst x)
    | ((try lift_lets -underBinder); intro x; subst x)
    | split
    | with_reducible refine Keeps.upd rfl rfl rfl rfl rfl rfl rfl rfl rfl ?_)

theorem tcpDrop_keeps {r : State} {s : State} (h : Keeps r s) : Keeps r (tcpDrop s) := by
  unfold tcpDrop
  repeat' (first
    | with_reducible assumption
    | with_reducible refine modTcp_keeps ?_
    | with_reducible rfl
    | ((try lift_lets -underBinder); intro x; refine (fun (hx : Keeps r x) => ?_) ?_; clear_value x; on_goal 2 => subst x)
    | ((try lift_lets -underBinder); intro x; subst x)
    | split
    | with_reducible refine Keeps.upd rfl rfl rfl rfl rfl rfl rfl rfl rfl ?_)

theorem tcpClear_keeps {r : State} {s : State} (h : Keeps r s) : Keeps r (tcpClear s) := by
  unfold tcpClear
  repeat' (first
    | with_reducible assumption
    | with_reducible refine wr_keeps ?_
    | with_reducible refine setF_keeps ?_
    | with_reducible refine tcpDrop_keeps ?_
    | with_reducible refine modTcp_keeps ?_
    | with_reducible rfl
    | ((try lift_lets -underBinder); intro x; refine (fun (hx : Keeps r x) => ?_) ?_; clear_value x; on_goal 2 => subst x)
    | ((try lift_lets -underBinder); intro x; subst x)
    | split
    | with_reducible refine Keeps.upd rfl rfl rfl rfl rfl rfl rfl rfl rfl ?_)

theorem tcpHardReset_keeps {r : State} {s : State} (h : Keeps r s) : Keeps r (tcpHardReset s) := by
  unfold tcpHardReset
  repeat' (first
    | with_reducible assumption
    | with_reducible refine setF_keeps ?_
    | with_reducible refine incSat_keeps ?_
    | with_reducible refine tcpRes_keeps ?_
    | with_reducible refine tcpClear_keeps ?_
    | with_reducible refine modTcp_keeps ?_
    | with_reducible refine typeZero_keeps ?_
    | with_reducible rfl
    | ((try lift_lets -underBinder); intro x; refine (fun (hx : Keeps r x) => ?_) ?_; clear_value x; on_goal 2 => subst x)
    | ((try lift_lets -underBinder); intro x; subst x)
    | split
    | with_reducible refine Keeps.upd rfl rfl rfl rfl rfl rfl rfl rfl rfl ?_)

theorem tcpSendHard_keeps {r : State} {s : State} (h : Keeps r s) : Keeps r (tcpSendHard s) := by
  unfold tcpSendHard
  repeat' (first
    | with_reducible assumption
    | with_reducible refine tcpHardReset_keeps ?_
    | with_reducible rfl
    | ((try lift_lets -underBinder); intro x; refine (fun (hx : Keeps r x) => ?_) ?_; clear_value x; on_goal 2 => subst x)
    | ((try lift_lets -underBinder); intro x; subst x)
    | split
    | with_reducible refine Keeps.upd rfl rfl rfl rfl rfl rfl rfl rfl rfl ?_)

theorem tcpSendSoft_keeps {r : State} {s : State} (h : Keeps r s) : Keeps r (tcpSendSoft s) := by
  unfold tcpSendSoft
  repeat' (first
    | with_reducible assumption
    | with_reducible refine tcpSeq_keeps ?_
    | with_reducible rfl
    | ((try lift_lets -underBinder); intro x; refine (fun (hx : Keeps r x) => ?_) ?_; clear_value x; on_goal 2 => subst x)
    | ((try lift_lets -underBinder); intro x; subst x)
    | split
    | with_reducible refine Keeps.upd rfl rfl rfl rfl rfl rfl rfl rfl rfl ?_)

theorem tcpAsk_keeps {r : State} {m : TcpMsg} {d : TcpDeal} {cmd : Bool} {s : State} (h : Keeps r s) : Keeps r (tcpAsk m d
    cmd s).2 := by
  unfold tcpAsk
  repeat' (first
    | with_reducible assumption
    | with_reducible refine tcpDefer_keeps ?_
    | with_reducible refine tcpSend_keeps ?_
    | with_reducible rfl
    | ((try lift_lets -underBinder); intro x; refine (fun (hx : Keeps r x) => ?_) ?_; clear_value x; on_goal 2 => subst x)
    | ((try lift_lets -underBinder); intro x; subst x)
    | split
    | with_reducible refine Keeps.upd rfl rfl rfl rfl rfl rfl rfl rfl rfl ?_)

theorem tcpAsk_keeps_eq {r u : State} {q : Bool} {m : TcpMsg} {d : TcpDeal} {cmd : Bool} {s : State} (h : Keeps r s) (hq :
    tcpAsk m d cmd s = (q, u)) : Keeps r u := by
  have k := tcpAsk_keeps (m := m) (d := d) (cmd := cmd) h
  rw [hq] at k; exact k

theorem fixedAnswer_keeps {r : State} {s : State} (h : Keeps r s) : Keeps r (fixedAnswer s) := by
  unfold fixedAnswer
  repeat' (first
    | with_reducible assumption
    | with_reducible refine tcpAsk_keeps ?_
    | with_reducible refine tcpAsk_keeps_eq ?_ (by assumption)
    | with_reducible rfl
    | ((try lift_lets -underBinder); intro x; refine (fun (hx : Keeps r x) => ?_) ?_; clear_value x; on_goal 2 => subst x)
    | ((try lift_lets -underBinder); intro x; subst x)
    | split
    | with_reducible refine Keeps.upd rfl rfl rfl rfl rfl rfl rfl rfl rfl ?_)

theorem tcpHear_keeps {r : State} {id : Nat} {f : State → State} {s : State} (hf : ∀ s, Keeps r s → Keeps r (f s)) (h :
    Keeps r s) : Keeps r (tcpHear id f s) := by
  unfold tcpHear
  repeat' (first
    | with_reducible assumption
    | with_reducible refine modTcp_keeps ?_
    | with_reducible refine hf _ ?_
    | with_reducible rfl
    | ((try lift_lets -underBinder); intro x; refine (fun (hx : Keeps r x) => ?_) ?_; clear_value x; on_goal 2 => subst x)
    | ((try lift_lets -underBinder); intro x; subst x)
    | split
    | with_reducible refine Keeps.upd rfl rfl rfl rfl rfl rfl rfl rfl rfl ?_)

theorem tcpDeliver_keeps {r : State} {hdr : BitVec 16} {objs : List Word} {s : State} (h : Keeps r s) : Keeps r (tcpDeliver
    hdr objs s) := by
  unfold tcpDeliver
  repeat' (first
    | with_reducible assumption
    | with_reducible refine setF_keeps ?_
    | with_reducible refine forN_keeps (fun _ _ _ => ?_) ?_
    | with_reducible refine wr_keeps ?_
    | with_reducible rfl
    | ((try lift_lets -underBinder); intro x; refine (fun (hx : Keeps r x) => ?_) ?_; clear_value x; on_goal 2 => subst x)
    | ((try lift_lets -underBinder); intro x; subst x)
    | split
    | with_reducible refine Keeps.upd rfl rfl rfl rfl rfl rfl rfl rfl rfl ?_)

theorem tcpAbandon_keeps {r : State} {s : State} (h : Keeps r s) : Keeps r (tcpAbandon s) := by
  unfold tcpAbandon
  repeat' (first
    | with_reducible assumption
    | with_reducible refine modTcp_keeps ?_
    | with_reducible refine tcpRes_keeps ?_
    | with_reducible rfl
    | ((try lift_lets -underBinder); intro x; refine (fun (hx : Keeps r x) => ?_) ?_; clear_value x; on_goal 2 => subst x)
    | ((try lift_lets -underBinder); intro x; subst x)
    | split
    | with_reducible refine Keeps.upd rfl rfl rfl rfl rfl rfl rfl rfl rfl ?_)

theorem sourceCapsOp_keeps {r : State} {epr : Bool} {hdr : BitVec 16} {objs : List Word} {s : State} (h : Keeps r s) : Keeps
    r (sourceCapsOp epr hdr objs s) := by
  unfold sourceCapsOp
  repeat' (first
    | with_reducible assumption
    | ((with_reducible refine tcpHear_keeps (fun _ _ => ?_) ?_) <;> try dsimp -zeta only)
    | with_reducible refine modTcp_keeps ?_
    | with_reducible refine tcpAbandon_keeps ?_
    | with_reducible refine tcpDeliver_keeps ?_
    | with_reducible refine tcpNext_keeps ?_
    | with_reducible refine fixedAnswer_keeps ?_
    | with_reducible rfl
    | ((try lift_lets -underBinder); intro x; refine (fun (hx : Keeps r x) => ?_) ?_; clear_value x; on_goal 2 => subst x)
    | ((try lift_lets -underBinder); intro x; subst x)
    | split
    | with_reducible refine Keeps.upd rfl rfl rfl rfl rfl rfl rfl rfl rfl ?_)

theorem acceptOp_keeps {r : State} {id : Nat} {s : State} (h : Keeps r s) : Keeps r (acceptOp id s) := by
  unfold acceptOp
  repeat' (first
    | with_reducible assumption
    | ((with_reducible refine tcpHear_keeps (fun _ _ => ?_) ?_) <;> try dsimp -zeta only)
    | with_reducible refine modTcp_keeps ?_
    | with_reducible refine setF_keeps ?_
    | with_reducible refine tcpRes_keeps ?_
    | with_reducible rfl
    | ((try lift_lets -underBinder); intro x; refine (fun (hx : Keeps r x) => ?_) ?_; clear_value x; on_goal 2 => subst x)
    | ((try lift_lets -underBinder); intro x; subst x)
    | split
    | with_reducible refine Keeps.upd rfl rfl rfl rfl rfl rfl rfl rfl rfl ?_)

theorem declineOp_keeps {r : State} {code id : Nat} {s : State} (h : Keeps r s) : Keeps r (declineOp code id s) := by
  unfold declineOp
  repeat' (first
    | with_reducible assumption
    | ((with_reducible refine tcpHear_keeps (fun _ _ => ?_) ?_) <;> try dsimp -zeta only)
    | with_reducible refine tcpRes_keeps ?_
    | with_reducible refine modTcp_keeps ?_
    | with_reducible rfl
    | ((try lift_lets -underBinder); intro x; refine (fun (hx : Keeps r x) => ?_) ?_; clear_value x; on_goal 2 => subst x)
    | ((try lift_lets -underBinder); intro x; subst x)
    | split
    | with_reducible refine Keeps.upd rfl rfl rfl rfl rfl rfl rfl rfl rfl ?_)

theorem psRdyOp_keeps {r : State} {id : Nat} {s : State} (h : Keeps r s) : Keeps r (psRdyOp id s) := by
  unfold psRdyOp
  repeat' (first
    | with_reducible assumption
    | ((with_reducible refine tcpHear_keeps (fun _ _ => ?_) ?_) <;> try dsimp -zeta only)
    | with_reducible refine setB_keeps ?_
    | with_reducible refine setF_keeps ?_
    | with_reducible refine tcpRes_keeps ?_
    | with_reducible refine modTcp_keeps ?_
    | with_reducible rfl
    | ((try lift_lets -underBinder); intro x; refine (fun (hx : Keeps r x) => ?_) ?_; clear_value x; on_goal 2 => subst x)
    | ((try lift_lets -underBinder); intro x; subst x)
    | split
    | with_reducible refine Keeps.upd rfl rfl rfl rfl rfl rfl rfl rfl rfl ?_)

theorem eprModeRxOp_keeps {r : State} {act : EprAct} {hdr : BitVec 16} {objs : List Word} {s : State} (h : Keeps r s) :
    Keeps r (eprModeRxOp act hdr objs s) := by
  unfold eprModeRxOp
  repeat' (first
    | with_reducible assumption
    | ((with_reducible refine tcpHear_keeps (fun _ _ => ?_) ?_) <;> try dsimp -zeta only)
    | with_reducible refine tcpDeliver_keeps ?_
    | with_reducible refine modTcp_keeps ?_
    | with_reducible refine tcpRes_keeps ?_
    | with_reducible refine setF_keeps ?_
    | with_reducible refine eprEnd_keeps ?_
    | with_reducible rfl
    | ((try lift_lets -underBinder); intro x; refine (fun (hx : Keeps r x) => ?_) ?_; clear_value x; on_goal 2 => subst x)
    | ((try lift_lets -underBinder); intro x; subst x)
    | split
    | with_reducible refine Keeps.upd rfl rfl rfl rfl rfl rfl rfl rfl rfl ?_)

theorem softResetRxOp_keeps {r : State} {hdr : BitVec 16} {s : State} (h : Keeps r s) : Keeps r (softResetRxOp hdr s) := by
  unfold softResetRxOp
  repeat' (first
    | with_reducible assumption
    | with_reducible refine tcpSoft_keeps ?_
    | with_reducible refine modTcp_keeps ?_
    | with_reducible refine tcpSend_keeps ?_
    | with_reducible refine tcpDeliver_keeps ?_
    | with_reducible rfl
    | ((try lift_lets -underBinder); intro x; refine (fun (hx : Keeps r x) => ?_) ?_; clear_value x; on_goal 2 => subst x)
    | ((try lift_lets -underBinder); intro x; subst x)
    | split
    | with_reducible refine Keeps.upd rfl rfl rfl rfl rfl rfl rfl rfl rfl ?_)

theorem hardResetRxOp_keeps {r : State} {s : State} (h : Keeps r s) : Keeps r (hardResetRxOp s) := by
  unfold hardResetRxOp
  repeat' (first
    | with_reducible assumption
    | with_reducible refine tcpHardReset_keeps ?_
    | with_reducible rfl
    | ((try lift_lets -underBinder); intro x; refine (fun (hx : Keeps r x) => ?_) ?_; clear_value x; on_goal 2 => subst x)
    | ((try lift_lets -underBinder); intro x; subst x)
    | split
    | with_reducible refine Keeps.upd rfl rfl rfl rfl rfl rfl rfl rfl rfl ?_)

theorem keepAliveAckOp_keeps {r : State} {id : Nat} {s : State} (h : Keeps r s) : Keeps r (keepAliveAckOp id s) := by
  unfold keepAliveAckOp
  repeat' (first
    | with_reducible assumption
    | ((with_reducible refine tcpHear_keeps (fun _ _ => ?_) ?_) <;> try dsimp -zeta only)
    | with_reducible refine modTcp_keeps ?_
    | with_reducible rfl
    | ((try lift_lets -underBinder); intro x; refine (fun (hx : Keeps r x) => ?_) ?_; clear_value x; on_goal 2 => subst x)
    | ((try lift_lets -underBinder); intro x; subst x)
    | split
    | with_reducible refine Keeps.upd rfl rfl rfl rfl rfl rfl rfl rfl rfl ?_)

theorem unsupportedOp_keeps {r : State} {id : Nat} {s : State} (h : Keeps r s) : Keeps r (unsupportedOp id s) := by
  unfold unsupportedOp
  repeat' (first
    | with_reducible assumption
    | ((with_reducible refine tcpHear_keeps (fun _ _ => ?_) ?_) <;> try dsimp -zeta only)
    | with_reducible refine tcpSend_keeps ?_
    | with_reducible rfl
    | ((try lift_lets -underBinder); intro x; refine (fun (hx : Keeps r x) => ?_) ?_; clear_value x; on_goal 2 => subst x)
    | ((try lift_lets -underBinder); intro x; subst x)
    | split
    | with_reducible refine Keeps.upd rfl rfl rfl rfl rfl rfl rfl rfl rfl ?_)

theorem pingOp_keeps {r : State} {id : Nat} {s : State} (h : Keeps r s) : Keeps r (pingOp id s) := by
  unfold pingOp
  repeat' (first
    | with_reducible assumption
    | ((with_reducible refine tcpHear_keeps (fun _ _ => ?_) ?_) <;> try dsimp -zeta only)
    | with_reducible rfl
    | ((try lift_lets -underBinder); intro x; refine (fun (hx : Keeps r x) => ?_) ?_; clear_value x; on_goal 2 => subst x)
    | ((try lift_lets -underBinder); intro x; subst x)
    | split
    | with_reducible refine Keeps.upd rfl rfl rfl rfl rfl rfl rfl rfl rfl ?_)

theorem attachOp_keeps {r : State} {cc2 : Bool} {s : State} (h : Keeps r s) : Keeps r (attachOp cc2 s) := by
  unfold attachOp
  repeat' (first
    | with_reducible assumption
    | with_reducible refine setF_keeps ?_
    | with_reducible refine setB_keeps ?_
    | with_reducible refine modTcp_keeps ?_
    | with_reducible rfl
    | ((try lift_lets -underBinder); intro x; refine (fun (hx : Keeps r x) => ?_) ?_; clear_value x; on_goal 2 => subst x)
    | ((try lift_lets -underBinder); intro x; subst x)
    | split
    | with_reducible refine Keeps.upd rfl rfl rfl rfl rfl rfl rfl rfl rfl ?_)

theorem detachOp_keeps {r : State} {vbus : Bool} {s : State} (h : Keeps r s) : Keeps r (detachOp vbus s) := by
  unfold detachOp
  repeat' (first
    | with_reducible assumption
    | with_reducible refine setF_keeps ?_
    | with_reducible refine tcpRes_keeps ?_
    | with_reducible refine tcpClear_keeps ?_
    | with_reducible refine modTcp_keeps ?_
    | with_reducible rfl
    | ((try lift_lets -underBinder); intro x; refine (fun (hx : Keeps r x) => ?_) ?_; clear_value x; on_goal 2 => subst x)
    | ((try lift_lets -underBinder); intro x; subst x)
    | split
    | with_reducible refine Keeps.upd rfl rfl rfl rfl rfl rfl rfl rfl rfl ?_)

theorem tcpResume_keeps {r : State} {m : TcpMsg} {cmd : Bool} {s : State} (h : Keeps r s) : Keeps r (tcpResume m cmd s) := by
  unfold tcpResume
  repeat' (first
    | with_reducible assumption
    | with_reducible refine tcpAsk_keeps ?_
    | with_reducible refine tcpAsk_keeps_eq ?_ (by assumption)
    | with_reducible refine tcpRes_keeps ?_
    | with_reducible refine tcpSend_keeps ?_
    | with_reducible rfl
    | ((try lift_lets -underBinder); intro x; refine (fun (hx : Keeps r x) => ?_) ?_; clear_value x; on_goal 2 => subst x)
    | ((try lift_lets -underBinder); intro x; subst x)
    | split
    | with_reducible refine Keeps.upd rfl rfl rfl rfl rfl rfl rfl rfl rfl ?_)

theorem tcpUnhold_keeps {r : State} {s : State} (h : Keeps r s) : Keeps r (tcpUnhold s) := by
  unfold tcpUnhold
  repeat' (first
    | with_reducible assumption
    | with_reducible refine tcpResume_keeps ?_
    | with_reducible refine modTcp_keeps ?_
    | with_reducible refine Keeps.fold (fun _ _ _ => ?_) ?_
    | with_reducible rfl
    | ((try lift_lets -underBinder); intro x; refine (fun (hx : Keeps r x) => ?_) ?_; clear_value x; on_goal 2 => subst x)
    | ((try lift_lets -underBinder); intro x; subst x)
    | split
    | with_reducible refine Keeps.upd rfl rfl rfl rfl rfl rfl rfl rfl rfl ?_)

theorem rpReadOp_keeps {r : State} {mv : Nat} {s : State} (h : Keeps r s) : Keeps r (rpReadOp mv s) := by
  unfold rpReadOp
  repeat' (first
    | with_reducible assumption
    | with_reducible refine modTcp_keeps ?_
    | with_reducible refine tcpUnhold_keeps ?_
    | with_reducible refine setF_keeps ?_
    | with_reducible rfl
    | ((try lift_lets -underBinder); intro x; refine (fun (hx : Keeps r x) => ?_) ?_; clear_value x; on_goal 2 => subst x)
    | ((try lift_lets -underBinder); intro x; subst x)
    | split
    | with_reducible refine Keeps.upd rfl rfl rfl rfl rfl rfl rfl rfl rfl ?_)

theorem sinkWaitOp_keeps {r : State} {s : State} (h : Keeps r s) : Keeps r (sinkWaitOp s) := by
  unfold sinkWaitOp
  repeat' (first
    | with_reducible assumption
    | with_reducible refine tcpSendHard_keeps ?_
    | with_reducible refine modTcp_keeps ?_
    | with_reducible refine tcpErr_keeps ?_
    | with_reducible rfl
    | ((try lift_lets -underBinder); intro x; refine (fun (hx : Keeps r x) => ?_) ?_; clear_value x; on_goal 2 => subst x)
    | ((try lift_lets -underBinder); intro x; subst x)
    | split
    | with_reducible refine Keeps.upd rfl rfl rfl rfl rfl rfl rfl rfl rfl ?_)

theorem tcpFailed_keeps {r : State} {m : TcpMsg} {s : State} (h : Keeps r s) : Keeps r (tcpFailed m s) := by
  unfold tcpFailed
  repeat' (first
    | with_reducible assumption
    | with_reducible refine tcpRes_keeps ?_
    | with_reducible refine tcpErr_keeps ?_
    | with_reducible refine modTcp_keeps ?_
    | with_reducible refine tcpSendHard_keeps ?_
    | with_reducible refine tcpNext_keeps ?_
    | with_reducible refine tcpSendSoft_keeps ?_
    | with_reducible rfl
    | ((try lift_lets -underBinder); intro x; refine (fun (hx : Keeps r x) => ?_) ?_; clear_value x; on_goal 2 => subst x)
    | ((try lift_lets -underBinder); intro x; subst x)
    | split
    | with_reducible refine Keeps.upd rfl rfl rfl rfl rfl rfl rfl rfl rfl ?_)

theorem retransmitOp_keeps {r : State} {s : State} (h : Keeps r s) : Keeps r (retransmitOp s) := by
  unfold retransmitOp
  repeat' (first
    | with_reducible assumption
    | with_reducible refine modTcp_keeps ?_
    | with_reducible refine incSat_keeps ?_
    | with_reducible refine tcpFailed_keeps ?_
    | with_reducible rfl
    | ((try lift_lets -underBinder); intro x; refine (fun (hx : Keeps r x) => ?_) ?_; clear_value x; on_goal 2 => subst x)
    | ((try lift_lets -underBinder); intro x; subst x)
    | split
    | with_reducible refine Keeps.upd rfl rfl rfl rfl rfl rfl rfl rfl rfl ?_)

theorem senderResponseOp_keeps {r : State} {s : State} (h : Keeps r s) : Keeps r (senderResponseOp s) := by
  unfold senderResponseOp
  repeat' (first
    | with_reducible assumption
    | with_reducible refine tcpSendHard_keeps ?_
    | with_reducible refine tcpErr_keeps ?_
    | with_reducible rfl
    | ((try lift_lets -underBinder); intro x; refine (fun (hx : Keeps r x) => ?_) ?_; clear_value x; on_goal 2 => subst x)
    | ((try lift_lets -underBinder); intro x; subst x)
    | split
    | with_reducible refine Keeps.upd rfl rfl rfl rfl rfl rfl rfl rfl rfl ?_)

theorem psTransitionOp_keeps {r : State} {s : State} (h : Keeps r s) : Keeps r (psTransitionOp s) := by
  unfold psTransitionOp
  repeat' (first
    | with_reducible assumption
    | with_reducible refine tcpErr_keeps ?_
    | with_reducible refine tcpSendHard_keeps ?_
    | with_reducible rfl
    | ((try lift_lets -underBinder); intro x; refine (fun (hx : Keeps r x) => ?_) ?_; clear_value x; on_goal 2 => subst x)
    | ((try lift_lets -underBinder); intro x; subst x)
    | split
    | with_reducible refine Keeps.upd rfl rfl rfl rfl rfl rfl rfl rfl rfl ?_)

theorem keepAliveOp_keeps {r : State} {s : State} (h : Keeps r s) : Keeps r (keepAliveOp s) := by
  unfold keepAliveOp
  repeat' (first
    | with_reducible assumption
    | with_reducible refine tcpSeq_keeps ?_
    | with_reducible rfl
    | ((try lift_lets -underBinder); intro x; refine (fun (hx : Keeps r x) => ?_) ?_; clear_value x; on_goal 2 => subst x)
    | ((try lift_lets -underBinder); intro x; subst x)
    | split
    | with_reducible refine Keeps.upd rfl rfl rfl rfl rfl rfl rfl rfl rfl ?_)

theorem eprTimeoutOp_keeps {r : State} {s : State} (h : Keeps r s) : Keeps r (eprTimeoutOp s) := by
  unfold eprTimeoutOp
  repeat' (first
    | with_reducible assumption
    | with_reducible refine modTcp_keeps ?_
    | with_reducible rfl
    | ((try lift_lets -underBinder); intro x; refine (fun (hx : Keeps r x) => ?_) ?_; clear_value x; on_goal 2 => subst x)
    | ((try lift_lets -underBinder); intro x; subst x)
    | split
    | with_reducible refine Keeps.upd rfl rfl rfl rfl rfl rfl rfl rfl rfl ?_)

theorem goodCrcOp_keeps {r s : State} (h : Keeps r s) : Keeps r (goodCrcOp s) := by
  unfold goodCrcOp
  split
  · exact h
  · rename_i m _ _
    refine tcpNext_keeps ?_
    cases m <;> dsimp only <;> repeat' (first
      | with_reducible assumption
      | with_reducible refine tcpRes_keeps ?_
      | with_reducible refine modTcp_keeps ?_
      | split)

theorem tcpStart_keeps {r : State} {s : State} (h : Keeps r s) : Keeps r (tcpStart s) := by
  unfold tcpStart
  repeat' (first
    | with_reducible assumption
    | with_reducible refine setF_keeps ?_
    | with_reducible rfl
    | ((try lift_lets -underBinder); intro x; refine (fun (hx : Keeps r x) => ?_) ?_; clear_value x; on_goal 2 => subst x)
    | ((try lift_lets -underBinder); intro x; subst x)
    | split
    | with_reducible refine Keeps.upd rfl rfl rfl rfl rfl rfl rfl rfl rfl ?_)

theorem tcpRefuse_keeps {r : State} {code : Nat} {s : State} (h : Keeps r s) : Keeps r (tcpRefuse code s) := by
  unfold tcpRefuse
  repeat' (first
    | with_reducible assumption
    | with_reducible refine setF_keeps ?_
    | with_reducible rfl
    | ((try lift_lets -underBinder); intro x; refine (fun (hx : Keeps r x) => ?_) ?_; clear_value x; on_goal 2 => subst x)
    | ((try lift_lets -underBinder); intro x; subst x)
    | split
    | with_reducible refine Keeps.upd rfl rfl rfl rfl rfl rfl rfl rfl rfl ?_)

theorem tcpCommand_keeps {r : State} {m : TcpMsg} {s : State} (h : Keeps r s) : Keeps r (tcpCommand m s) := by
  unfold tcpCommand
  repeat' (first
    | with_reducible assumption
    | with_reducible refine tcpSeq_keeps ?_
    | with_reducible refine tcpStart_keeps ?_
    | with_reducible rfl
    | ((try lift_lets -underBinder); intro x; refine (fun (hx : Keeps r x) => ?_) ?_; clear_value x; on_goal 2 => subst x)
    | ((try lift_lets -underBinder); intro x; subst x)
    | split
    | with_reducible refine Keeps.upd rfl rfl rfl rfl rfl rfl rfl rfl rfl ?_)

theorem requestOp_keeps {r : State} {epr : Bool} {s : State} (h : Keeps r s) : Keeps r (requestOp epr s) := by
  unfold requestOp
  repeat' (first
    | with_reducible assumption
    | with_reducible refine setF_keeps ?_
    | with_reducible refine tcpRefuse_keeps ?_
    | with_reducible refine modTcp_keeps ?_
    | with_reducible refine tcpStart_keeps ?_
    | with_reducible refine tcpAsk_keeps ?_
    | with_reducible refine tcpAsk_keeps_eq ?_ (by assumption)
    | with_reducible rfl
    | ((try lift_lets -underBinder); intro x; refine (fun (hx : Keeps r x) => ?_) ?_; clear_value x; on_goal 2 => subst x)
    | ((try lift_lets -underBinder); intro x; subst x)
    | split
    | with_reducible refine Keeps.upd rfl rfl rfl rfl rfl rfl rfl rfl rfl ?_)

theorem requestReleasedOp_keeps {r : State} {s : State} (h : Keeps r s) : Keeps r (requestReleasedOp s) := by
  unfold requestReleasedOp
  repeat' (first
    | with_reducible assumption
    | with_reducible refine modTcp_keeps ?_
    | with_reducible refine tcpSend_keeps ?_
    | with_reducible rfl
    | ((try lift_lets -underBinder); intro x; refine (fun (hx : Keeps r x) => ?_) ?_; clear_value x; on_goal 2 => subst x)
    | ((try lift_lets -underBinder); intro x; subst x)
    | split
    | with_reducible refine Keeps.upd rfl rfl rfl rfl rfl rfl rfl rfl rfl ?_)

theorem getSourceCapOp_keeps {r : State} {s : State} (h : Keeps r s) : Keeps r (getSourceCapOp s) := by
  unfold getSourceCapOp
  repeat' (first
    | with_reducible assumption
    | with_reducible refine setF_keeps ?_
    | with_reducible refine tcpCommand_keeps ?_
    | with_reducible rfl
    | ((try lift_lets -underBinder); intro x; refine (fun (hx : Keeps r x) => ?_) ?_; clear_value x; on_goal 2 => subst x)
    | ((try lift_lets -underBinder); intro x; subst x)
    | split
    | with_reducible refine Keeps.upd rfl rfl rfl rfl rfl rfl rfl rfl rfl ?_)

theorem eprEnterOp_keeps {r : State} {s : State} (h : Keeps r s) : Keeps r (eprEnterOp s) := by
  unfold eprEnterOp
  repeat' (first
    | with_reducible assumption
    | with_reducible refine setF_keeps ?_
    | with_reducible refine tcpCommand_keeps ?_
    | with_reducible refine tcpRefuse_keeps ?_
    | with_reducible rfl
    | ((try lift_lets -underBinder); intro x; refine (fun (hx : Keeps r x) => ?_) ?_; clear_value x; on_goal 2 => subst x)
    | ((try lift_lets -underBinder); intro x; subst x)
    | split
    | with_reducible refine Keeps.upd rfl rfl rfl rfl rfl rfl rfl rfl rfl ?_)

theorem eprExitOp_keeps {r : State} {s : State} (h : Keeps r s) : Keeps r (eprExitOp s) := by
  unfold eprExitOp
  repeat' (first
    | with_reducible assumption
    | with_reducible refine setF_keeps ?_
    | with_reducible refine tcpCommand_keeps ?_
    | with_reducible rfl
    | ((try lift_lets -underBinder); intro x; refine (fun (hx : Keeps r x) => ?_) ?_; clear_value x; on_goal 2 => subst x)
    | ((try lift_lets -underBinder); intro x; subst x)
    | split
    | with_reducible refine Keeps.upd rfl rfl rfl rfl rfl rfl rfl rfl rfl ?_)

theorem softResetOp_keeps {r : State} {s : State} (h : Keeps r s) : Keeps r (softResetOp s) := by
  unfold softResetOp
  repeat' (first
    | with_reducible assumption
    | with_reducible refine setF_keeps ?_
    | with_reducible refine tcpCommand_keeps ?_
    | with_reducible rfl
    | ((try lift_lets -underBinder); intro x; refine (fun (hx : Keeps r x) => ?_) ?_; clear_value x; on_goal 2 => subst x)
    | ((try lift_lets -underBinder); intro x; subst x)
    | split
    | with_reducible refine Keeps.upd rfl rfl rfl rfl rfl rfl rfl rfl rfl ?_)

theorem hardResetOp_keeps {r : State} {s : State} (h : Keeps r s) : Keeps r (hardResetOp s) := by
  unfold hardResetOp
  repeat' (first
    | with_reducible assumption
    | with_reducible refine setF_keeps ?_
    | with_reducible refine tcpHardReset_keeps ?_
    | with_reducible rfl
    | ((try lift_lets -underBinder); intro x; refine (fun (hx : Keeps r x) => ?_) ?_; clear_value x; on_goal 2 => subst x)
    | ((try lift_lets -underBinder); intro x; subst x)
    | split
    | with_reducible refine Keeps.upd rfl rfl rfl rfl rfl rfl rfl rfl rfl ?_)

theorem tcpFence_keeps {r : State} {s : State} (h : Keeps r s) : Keeps r (tcpFence s) := by
  unfold tcpFence
  repeat' (first
    | with_reducible assumption
    | with_reducible refine tcpRes_keeps ?_
    | with_reducible refine setF_keeps ?_
    | with_reducible refine tcpDrop_keeps ?_
    | with_reducible refine modTcp_keeps ?_
    | with_reducible rfl
    | ((try lift_lets -underBinder); intro x; refine (fun (hx : Keeps r x) => ?_) ?_; clear_value x; on_goal 2 => subst x)
    | ((try lift_lets -underBinder); intro x; subst x)
    | split
    | with_reducible refine Keeps.upd rfl rfl rfl rfl rfl rfl rfl rfl rfl ?_)

theorem tcpPowerOn_keeps {r : State} {att : Option Bool} {s : State} (h : Keeps r s) : Keeps r (tcpPowerOn att s) := by
  unfold tcpPowerOn
  repeat' (first
    | with_reducible assumption
    | with_reducible refine setF_keeps ?_
    | with_reducible refine setB_keeps ?_
    | with_reducible refine modTcp_keeps ?_
    | with_reducible rfl
    | ((try lift_lets -underBinder); intro x; refine (fun (hx : Keeps r x) => ?_) ?_; clear_value x; on_goal 2 => subst x)
    | ((try lift_lets -underBinder); intro x; subst x)
    | split
    | with_reducible refine Keeps.upd rfl rfl rfl rfl rfl rfl rfl rfl rfl ?_)

theorem tcpUnfence_keeps {r : State} {s : State} (h : Keeps r s) : Keeps r (tcpUnfence s) := by
  unfold tcpUnfence
  repeat' (first
    | with_reducible assumption
    | with_reducible refine tcpSendSoft_keeps ?_
    | with_reducible refine modTcp_keeps ?_
    | with_reducible rfl
    | ((try lift_lets -underBinder); intro x; refine (fun (hx : Keeps r x) => ?_) ?_; clear_value x; on_goal 2 => subst x)
    | ((try lift_lets -underBinder); intro x; subst x)
    | split
    | with_reducible refine Keeps.upd rfl rfl rfl rfl rfl rfl rfl rfl rfl ?_)

end Sys2Proof.Machine
end

