-- ==== Sys2Proof/Laws/KeepsLnkOps.lean ====
section
/-!
SUPPORT. What the operations of Machine/LnkOps.lean keep: the queue, and the legality of the state.
-/

namespace Sys2Proof.Machine

open Sys2Proof

set_option linter.unusedTactic false
set_option linter.unreachableTactic false
set_option linter.unusedVariables false

theorem modLnk_keeps {r : State} {f : Lnk → Lnk} {s : State} (h : Keeps r s) : Keeps r (modLnk f s) := by
  unfold modLnk
  repeat' (first
    | with_reducible assumption
    | with_reducible rfl
    | ((try lift_lets -underBinder); intro x; refine (fun (hx : Keeps r x) => ?_) ?_; clear_value x; on_goal 2 => subst x)
    | ((try lift_lets -underBinder); intro x; subst x)
    | split
    | with_reducible refine Keeps.upd rfl rfl rfl rfl rfl rfl rfl rfl rfl ?_)

theorem lnkCrcBad_keeps {r : State} {s : State} (h : Keeps r s) : Keeps r (lnkCrcBad s) := by
  unfold lnkCrcBad
  repeat' (first
    | with_reducible assumption
    | with_reducible refine setF_keeps ?_
    | with_reducible refine incSat_keeps ?_
    | with_reducible refine raise'_keeps ?_
    | with_reducible rfl
    | ((try lift_lets -underBinder); intro x; refine (fun (hx : Keeps r x) => ?_) ?_; clear_value x; on_goal 2 => subst x)
    | ((try lift_lets -underBinder); intro x; subst x)
    | split
    | with_reducible refine Keeps.upd rfl rfl rfl rfl rfl rfl rfl rfl rfl ?_)

theorem lnkRef_keeps {r : State} {s : State} (h : Keeps r s) : Keeps r (lnkRef s) := by
  unfold lnkRef
  repeat' (first
    | with_reducible assumption
    | with_reducible refine setF_keeps ?_
    | with_reducible refine notify_keeps ?_
    | with_reducible rfl
    | ((try lift_lets -underBinder); intro x; refine (fun (hx : Keeps r x) => ?_) ?_; clear_value x; on_goal 2 => subst x)
    | ((try lift_lets -underBinder); intro x; subst x)
    | split
    | with_reducible refine Keeps.upd rfl rfl rfl rfl rfl rfl rfl rfl rfl ?_)

theorem lnkCheck_keeps {r : State} {err : Bool} {pre covered : List Byte} {crc : Nat} {s : State} (h : Keeps r s) : Keeps r
    (lnkCheck err pre covered crc s).2 := by
  unfold lnkCheck
  repeat' (first
    | with_reducible assumption
    | with_reducible refine injDone_keeps ?_
    | with_reducible refine lnkCrcBad_keeps ?_
    | with_reducible rfl
    | ((try lift_lets -underBinder); intro x; refine (fun (hx : Keeps r x) => ?_) ?_; clear_value x; on_goal 2 => subst x)
    | ((try lift_lets -underBinder); intro x; subst x)
    | split
    | with_reducible refine Keeps.upd rfl rfl rfl rfl rfl rfl rfl rfl rfl ?_)

theorem lnkCheck_keeps_eq {r u : State} {q : Bool} {err : Bool} {pre covered : List Byte} {crc : Nat} {s : State} (h : Keeps
    r s) (hq : lnkCheck err pre covered crc s = (q, u)) : Keeps r u := by
  have k := lnkCheck_keeps (err := err) (pre := pre) (covered := covered) (crc := crc) h
  rw [hq] at k; exact k

theorem lnkSlotWrite_keeps {r : State} {n k st len peer mseq : Nat} {frm : Word} {pay : List Byte} {s : State} (h : Keeps r
    s) : Keeps r (lnkSlotWrite n k st len peer mseq frm pay s) := by
  unfold lnkSlotWrite
  repeat' (first
    | with_reducible assumption
    | with_reducible refine ramStoreBytes_keeps ?_
    | with_reducible refine ramStoreBytes_keeps_eq ?_ (by assumption)
    | with_reducible rfl
    | ((try lift_lets -underBinder); intro x; refine (fun (hx : Keeps r x) => ?_) ?_; clear_value x; on_goal 2 => subst x)
    | ((try lift_lets -underBinder); intro x; subst x)
    | split
    | with_reducible refine Keeps.upd rfl rfl rfl rfl rfl rfl rfl rfl rfl ?_)

theorem lnkStatus_keeps {r : State} {t : LnkTx} {st : Nat} {s : State} (h : Keeps r s) : Keeps r (lnkStatus t st s) := by
  unfold lnkStatus
  repeat' (first
    | with_reducible assumption
    | with_reducible refine ramStoreBytes_keeps ?_
    | with_reducible refine ramStoreBytes_keeps_eq ?_ (by assumption)
    | with_reducible rfl
    | ((try lift_lets -underBinder); intro x; refine (fun (hx : Keeps r x) => ?_) ?_; clear_value x; on_goal 2 => subst x)
    | ((try lift_lets -underBinder); intro x; subst x)
    | split
    | with_reducible refine Keeps.upd rfl rfl rfl rfl rfl rfl rfl rfl rfl ?_)

theorem lnkDeliver_keeps {r : State} {cls st peer mseq len : Nat} {all : Bool} {pay : List Byte} {s : State} (h : Keeps r s)
    : Keeps r (lnkDeliver cls st peer mseq len all pay s).2 := by
  unfold lnkDeliver
  repeat' (first
    | with_reducible assumption
    | with_reducible refine lnkSlotWrite_keeps ?_
    | with_reducible refine modLnk_keeps ?_
    | with_reducible rfl
    | ((try lift_lets -underBinder); intro x; refine (fun (hx : Keeps r x) => ?_) ?_; clear_value x; on_goal 2 => subst x)
    | ((try lift_lets -underBinder); intro x; subst x)
    | split
    | with_reducible refine Keeps.upd rfl rfl rfl rfl rfl rfl rfl rfl rfl ?_)

theorem lnkDeliver_keeps_eq {r u : State} {q : Bool} {cls st peer mseq len : Nat} {all : Bool} {pay : List Byte} {s : State}
    (h : Keeps r s) (hq : lnkDeliver cls st peer mseq len all pay s = (q, u)) : Keeps r u := by
  have k := lnkDeliver_keeps (cls := cls) (st := st) (peer := peer) (mseq := mseq) (len := len) (all := all) (pay := pay) h
  rw [hq] at k; exact k

theorem lnkFinish_keeps {r : State} {t : LnkTx} {st : Nat} {s : State} (h : Keeps r s) : Keeps r (lnkFinish t st s) := by
  unfold lnkFinish
  repeat' (first
    | with_reducible assumption
    | with_reducible refine lnkStatus_keeps ?_
    | with_reducible refine modLnk_keeps ?_
    | with_reducible refine incSat_keeps ?_
    | with_reducible rfl
    | ((try lift_lets -underBinder); intro x; refine (fun (hx : Keeps r x) => ?_) ?_; clear_value x; on_goal 2 => subst x)
    | ((try lift_lets -underBinder); intro x; subst x)
    | split
    | with_reducible refine Keeps.upd rfl rfl rfl rfl rfl rfl rfl rfl rfl ?_)

theorem lnkAbort_keeps {r : State} {all : Bool} {s : State} (h : Keeps r s) : Keeps r (lnkAbort all s) := by
  unfold lnkAbort
  repeat' (first
    | with_reducible assumption
    | with_reducible refine lnkFinish_keeps ?_
    | with_reducible refine Keeps.fold (fun _ _ _ => ?_) ?_
    | with_reducible rfl
    | ((try lift_lets -underBinder); intro x; refine (fun (hx : Keeps r x) => ?_) ?_; clear_value x; on_goal 2 => subst x)
    | ((try lift_lets -underBinder); intro x; subst x)
    | split
    | with_reducible refine Keeps.upd rfl rfl rfl rfl rfl rfl rfl rfl rfl ?_)

theorem lnkClk_keeps {r : State} {s : State} (h : Keeps r s) : Keeps r (lnkClk s) := by
  unfold lnkClk
  repeat' (first
    | with_reducible assumption
    | with_reducible refine setF_keeps ?_
    | with_reducible rfl
    | ((try lift_lets -underBinder); intro x; refine (fun (hx : Keeps r x) => ?_) ?_; clear_value x; on_goal 2 => subst x)
    | ((try lift_lets -underBinder); intro x; subst x)
    | split
    | with_reducible refine Keeps.upd rfl rfl rfl rfl rfl rfl rfl rfl rfl ?_)

theorem lnkTo_keeps {r0 : State} {r : Nat} {s : State} (h : Keeps r0 s) : Keeps r0 (lnkTo r s) := by
  unfold lnkTo
  repeat' (first
    | with_reducible assumption
    | with_reducible refine setF_keeps ?_
    | with_reducible refine setB_keeps ?_
    | with_reducible refine modLnk_keeps ?_
    | with_reducible refine lnkAbort_keeps ?_
    | with_reducible refine lnkClk_keeps ?_
    | with_reducible rfl
    | ((try lift_lets -underBinder); intro x; refine (fun (hx : Keeps r0 x) => ?_) ?_; clear_value x; on_goal 2 => subst x)
    | ((try lift_lets -underBinder); intro x; subst x)
    | split
    | with_reducible refine Keeps.upd rfl rfl rfl rfl rfl rfl rfl rfl rfl ?_)

theorem lnkTrain_keeps {r : State} {s : State} (h : Keeps r s) : Keeps r (lnkTrain s) := by
  unfold lnkTrain
  repeat' (first
    | with_reducible assumption
    | with_reducible refine modLnk_keeps ?_
    | with_reducible refine setF_keeps ?_
    | with_reducible refine lnkTo_keeps ?_
    | with_reducible rfl
    | ((try lift_lets -underBinder); intro x; refine (fun (hx : Keeps r x) => ?_) ?_; clear_value x; on_goal 2 => subst x)
    | ((try lift_lets -underBinder); intro x; subst x)
    | split
    | with_reducible refine Keeps.upd rfl rfl rfl rfl rfl rfl rfl rfl rfl ?_)

theorem lnkAlone_keeps {r : State} {s : State} (h : Keeps r s) : Keeps r (lnkAlone s) := by
  unfold lnkAlone
  repeat' (first
    | with_reducible assumption
    | with_reducible refine modLnk_keeps ?_
    | with_reducible refine setF_keeps ?_
    | with_reducible refine lnkTo_keeps ?_
    | with_reducible rfl
    | ((try lift_lets -underBinder); intro x; refine (fun (hx : Keeps r x) => ?_) ?_; clear_value x; on_goal 2 => subst x)
    | ((try lift_lets -underBinder); intro x; subst x)
    | split
    | with_reducible refine Keeps.upd rfl rfl rfl rfl rfl rfl rfl rfl rfl ?_)

theorem linkEnableOp_keeps {r : State} {en : Bool} {s : State} (h : Keeps r s) : Keeps r (linkEnableOp en s) := by
  unfold linkEnableOp
  repeat' (first
    | with_reducible assumption
    | with_reducible refine setB_keeps ?_
    | with_reducible refine lnkTrain_keeps ?_
    | with_reducible refine lnkAlone_keeps ?_
    | with_reducible rfl
    | ((try lift_lets -underBinder); intro x; refine (fun (hx : Keeps r x) => ?_) ?_; clear_value x; on_goal 2 => subst x)
    | ((try lift_lets -underBinder); intro x; subst x)
    | split
    | with_reducible refine Keeps.upd rfl rfl rfl rfl rfl rfl rfl rfl rfl ?_)

theorem lnkFawn_keeps {r : State} {s : State} (h : Keeps r s) : Keeps r (lnkFawn s) := by
  unfold lnkFawn
  repeat' (first
    | with_reducible assumption
    | with_reducible refine lnkAbort_keeps ?_
    | with_reducible refine lnkTo_keeps ?_
    | with_reducible refine lnkTrain_keeps ?_
    | with_reducible rfl
    | ((try lift_lets -underBinder); intro x; refine (fun (hx : Keeps r x) => ?_) ?_; clear_value x; on_goal 2 => subst x)
    | ((try lift_lets -underBinder); intro x; subst x)
    | split
    | with_reducible refine Keeps.upd rfl rfl rfl rfl rfl rfl rfl rfl rfl ?_)

theorem lockLossOp_keeps {r : State} {s : State} (h : Keeps r s) : Keeps r (lockLossOp s) := by
  unfold lockLossOp
  repeat' (first
    | with_reducible assumption
    | with_reducible refine setF_keeps ?_
    | with_reducible refine lnkClk_keeps ?_
    | with_reducible refine modLnk_keeps ?_
    | with_reducible rfl
    | ((try lift_lets -underBinder); intro x; refine (fun (hx : Keeps r x) => ?_) ?_; clear_value x; on_goal 2 => subst x)
    | ((try lift_lets -underBinder); intro x; subst x)
    | split
    | with_reducible refine Keeps.upd rfl rfl rfl rfl rfl rfl rfl rfl rfl ?_)

theorem linkTrainingOp_keeps {r : State} {lat : Nat} {s : State} (h : Keeps r s) : Keeps r (linkTrainingOp lat s) := by
  unfold linkTrainingOp
  repeat' (first
    | with_reducible assumption
    | with_reducible refine lnkClk_keeps ?_
    | with_reducible refine setF_keeps ?_
    | with_reducible refine modLnk_keeps ?_
    | with_reducible rfl
    | ((try lift_lets -underBinder); intro x; refine (fun (hx : Keeps r x) => ?_) ?_; clear_value x; on_goal 2 => subst x)
    | ((try lift_lets -underBinder); intro x; subst x)
    | split
    | with_reducible refine Keeps.upd rfl rfl rfl rfl rfl rfl rfl rfl rfl ?_)

theorem becomeLead_keeps {r : State} {s : State} (h : Keeps r s) : Keeps r (becomeLead s) := by
  unfold becomeLead
  repeat' (first
    | with_reducible assumption
    | with_reducible refine setF_keeps ?_
    | with_reducible refine lnkTo_keeps ?_
    | with_reducible refine incSat_keeps ?_
    | with_reducible refine lnkRef_keeps ?_
    | with_reducible refine modLnk_keeps ?_
    | with_reducible rfl
    | ((try lift_lets -underBinder); intro x; refine (fun (hx : Keeps r x) => ?_) ?_; clear_value x; on_goal 2 => subst x)
    | ((try lift_lets -underBinder); intro x; subst x)
    | split
    | with_reducible refine Keeps.upd rfl rfl rfl rfl rfl rfl rfl rfl rfl ?_)

theorem claimStartOp_keeps {r : State} {s : State} (h : Keeps r s) : Keeps r (claimStartOp s) := by
  unfold claimStartOp
  repeat' (first
    | with_reducible assumption
    | with_reducible refine modLnk_keeps ?_
    | with_reducible refine lnkTo_keeps ?_
    | with_reducible rfl
    | ((try lift_lets -underBinder); intro x; refine (fun (hx : Keeps r x) => ?_) ?_; clear_value x; on_goal 2 => subst x)
    | ((try lift_lets -underBinder); intro x; subst x)
    | split
    | with_reducible refine Keeps.upd rfl rfl rfl rfl rfl rfl rfl rfl rfl ?_)

theorem claimAfterLossOp_keeps {r : State} {s : State} (h : Keeps r s) : Keeps r (claimAfterLossOp s) := by
  unfold claimAfterLossOp
  repeat' (first
    | with_reducible assumption
    | with_reducible refine modLnk_keeps ?_
    | with_reducible refine lnkTo_keeps ?_
    | with_reducible rfl
    | ((try lift_lets -underBinder); intro x; refine (fun (hx : Keeps r x) => ?_) ?_; clear_value x; on_goal 2 => subst x)
    | ((try lift_lets -underBinder); intro x; subst x)
    | split
    | with_reducible refine Keeps.upd rfl rfl rfl rfl rfl rfl rfl rfl rfl ?_)

theorem claimCheck_keeps {r : State} {s : State} (h : Keeps r s) : Keeps r (claimCheck s) := by
  unfold claimCheck
  repeat' (first
    | with_reducible assumption
    | with_reducible refine lnkTrain_keeps ?_
    | with_reducible rfl
    | ((try lift_lets -underBinder); intro x; refine (fun (hx : Keeps r x) => ?_) ?_; clear_value x; on_goal 2 => subst x)
    | ((try lift_lets -underBinder); intro x; subst x)
    | split
    | with_reducible refine Keeps.upd rfl rfl rfl rfl rfl rfl rfl rfl rfl ?_)

theorem lnkLost_keeps {r : State} {s : State} (h : Keeps r s) : Keeps r (lnkLost s) := by
  unfold lnkLost
  repeat' (first
    | with_reducible assumption
    | with_reducible refine setF_keeps ?_
    | with_reducible refine notify_keeps ?_
    | with_reducible refine incSat_keeps ?_
    | with_reducible refine modLnk_keeps ?_
    | with_reducible refine raise'_keeps ?_
    | with_reducible rfl
    | ((try lift_lets -underBinder); intro x; refine (fun (hx : Keeps r x) => ?_) ?_; clear_value x; on_goal 2 => subst x)
    | ((try lift_lets -underBinder); intro x; subst x)
    | split
    | with_reducible refine Keeps.upd rfl rfl rfl rfl rfl rfl rfl rfl rfl ?_)

theorem beaconLossOp_keeps {r : State} {s : State} (h : Keeps r s) : Keeps r (beaconLossOp s) := by
  unfold beaconLossOp
  repeat' (first
    | with_reducible assumption
    | with_reducible refine lnkLost_keeps ?_
    | with_reducible rfl
    | ((try lift_lets -underBinder); intro x; refine (fun (hx : Keeps r x) => ?_) ?_; clear_value x; on_goal 2 => subst x)
    | ((try lift_lets -underBinder); intro x; subst x)
    | split
    | with_reducible refine Keeps.upd rfl rfl rfl rfl rfl rfl rfl rfl rfl ?_)

theorem headerLossOp_keeps {r : State} {s : State} (h : Keeps r s) : Keeps r (headerLossOp s) := by
  unfold headerLossOp
  repeat' (first
    | with_reducible assumption
    | with_reducible refine lnkLost_keeps ?_
    | with_reducible rfl
    | ((try lift_lets -underBinder); intro x; refine (fun (hx : Keeps r x) => ?_) ?_; clear_value x; on_goal 2 => subst x)
    | ((try lift_lets -underBinder); intro x; subst x)
    | split
    | with_reducible refine Keeps.upd rfl rfl rfl rfl rfl rfl rfl rfl rfl ?_)

theorem lnkAlloc_keeps {r : State} {t : Nat × Nat} {s : State} (h : Keeps r s) : Keeps r (lnkAlloc t s) := by
  unfold lnkAlloc
  repeat' (first
    | with_reducible assumption
    | with_reducible refine setF_keeps ?_
    | with_reducible refine setB_keeps ?_
    | with_reducible rfl
    | ((try lift_lets -underBinder); intro x; refine (fun (hx : Keeps r x) => ?_) ?_; clear_value x; on_goal 2 => subst x)
    | ((try lift_lets -underBinder); intro x; subst x)
    | split
    | with_reducible refine Keeps.upd rfl rfl rfl rfl rfl rfl rfl rfl rfl ?_)

theorem lnkRows_keeps {r : State} {s : State} (h : Keeps r s) : Keeps r (lnkRows s) := by
  unfold lnkRows
  repeat' (first
    | with_reducible assumption
    | with_reducible refine lnkAlloc_keeps ?_
    | with_reducible rfl
    | ((try lift_lets -underBinder); intro x; refine (fun (hx : Keeps r x) => ?_) ?_; clear_value x; on_goal 2 => subst x)
    | ((try lift_lets -underBinder); intro x; subst x)
    | split
    | with_reducible refine Keeps.upd rfl rfl rfl rfl rfl rfl rfl rfl rfl ?_)

theorem lnkTermTick_keeps {r : State} {s : State} (h : Keeps r s) : Keeps r (lnkTermTick s) := by
  unfold lnkTermTick
  repeat' (first
    | with_reducible assumption
    | with_reducible refine lnkRows_keeps ?_
    | with_reducible refine modLnk_keeps ?_
    | with_reducible refine setB_keeps ?_
    | with_reducible refine lnkAlloc_keeps ?_
    | with_reducible rfl
    | ((try lift_lets -underBinder); intro x; refine (fun (hx : Keeps r x) => ?_) ?_; clear_value x; on_goal 2 => subst x)
    | ((try lift_lets -underBinder); intro x; subst x)
    | split
    | with_reducible refine Keeps.upd rfl rfl rfl rfl rfl rfl rfl rfl rfl ?_)

theorem applyLevels_keeps {r : State} {budv shed : Bool} {l0 l1 l2 l3 : Nat} {s : State} (h : Keeps r s) : Keeps r
    (applyLevels budv shed l0 l1 l2 l3 s) := by
  unfold applyLevels
  repeat' (first
    | with_reducible assumption
    | with_reducible refine setB_keeps ?_
    | with_reducible refine setF_keeps ?_
    | with_reducible refine lnkAlloc_keeps ?_
    | with_reducible refine modLnk_keeps ?_
    | with_reducible rfl
    | ((try lift_lets -underBinder); intro x; refine (fun (hx : Keeps r x) => ?_) ?_; clear_value x; on_goal 2 => subst x)
    | ((try lift_lets -underBinder); intro x; subst x)
    | split
    | with_reducible refine Keeps.upd rfl rfl rfl rfl rfl rfl rfl rfl rfl ?_)

theorem lnkMeasured_keeps {r : State} {s : State} (h : Keeps r s) : Keeps r (lnkMeasured s) := by
  unfold lnkMeasured
  repeat' (first
    | with_reducible assumption
    | with_reducible refine setF_keeps ?_
    | with_reducible refine modLnk_keeps ?_
    | with_reducible rfl
    | ((try lift_lets -underBinder); intro x; refine (fun (hx : Keeps r x) => ?_) ?_; clear_value x; on_goal 2 => subst x)
    | ((try lift_lets -underBinder); intro x; subst x)
    | split
    | with_reducible refine Keeps.upd rfl rfl rfl rfl rfl rfl rfl rfl rfl ?_)

theorem lnkHop_keeps {r : State} {hopc hopd : Nat} {s : State} (h : Keeps r s) : Keeps r (lnkHop hopc hopd s) := by
  unfold lnkHop
  repeat' (first
    | with_reducible assumption
    | with_reducible refine modLnk_keeps ?_
    | with_reducible refine lnkMeasured_keeps ?_
    | with_reducible rfl
    | ((try lift_lets -underBinder); intro x; refine (fun (hx : Keeps r x) => ?_) ?_; clear_value x; on_goal 2 => subst x)
    | ((try lift_lets -underBinder); intro x; subst x)
    | split
    | with_reducible refine Keeps.upd rfl rfl rfl rfl rfl rfl rfl rfl rfl ?_)

theorem lnkForward_keeps {r : State} {bs : List Byte} {s : State} (h : Keeps r s) : Keeps r (lnkForward bs s) := by
  unfold lnkForward
  repeat' (first
    | with_reducible assumption
    | with_reducible refine modLnk_keeps ?_
    | with_reducible rfl
    | ((try lift_lets -underBinder); intro x; refine (fun (hx : Keeps r x) => ?_) ?_; clear_value x; on_goal 2 => subst x)
    | ((try lift_lets -underBinder); intro x; subst x)
    | split
    | with_reducible refine Keeps.upd rfl rfl rfl rfl rfl rfl rfl rfl rfl ?_)

theorem claimForward_keeps {r : State} {bs : List Byte} {s : State} (h : Keeps r s) : Keeps r (claimForward bs s) := by
  unfold claimForward
  repeat' (first
    | with_reducible assumption
    | with_reducible refine modLnk_keeps ?_
    | with_reducible rfl
    | ((try lift_lets -underBinder); intro x; refine (fun (hx : Keeps r x) => ?_) ?_; clear_value x; on_goal 2 => subst x)
    | ((try lift_lets -underBinder); intro x; subst x)
    | split
    | with_reducible refine Keeps.upd rfl rfl rfl rfl rfl rfl rfl rfl rfl ?_)

theorem lnkAlign_keeps {r : State} {frm fidx : Nat} {arr : Int} {s : State} (h : Keeps r s) : Keeps r (lnkAlign frm fidx arr
    s) := by
  unfold lnkAlign
  repeat' (first
    | with_reducible assumption
    | with_reducible refine modLnk_keeps ?_
    | with_reducible refine setF_keeps ?_
    | with_reducible rfl
    | ((try lift_lets -underBinder); intro x; refine (fun (hx : Keeps r x) => ?_) ?_; clear_value x; on_goal 2 => subst x)
    | ((try lift_lets -underBinder); intro x; subst x)
    | split
    | with_reducible refine Keeps.upd rfl rfl rfl rfl rfl rfl rfl rfl rfl ?_)

theorem lnkClaim_keeps {r : State} {bs : List Byte} {s : State} (h : Keeps r s) : Keeps r (lnkClaim bs s) := by
  unfold lnkClaim
  repeat' (first
    | with_reducible assumption
    | with_reducible refine claimForward_keeps ?_
    | with_reducible refine modLnk_keeps ?_
    | with_reducible refine lnkTo_keeps ?_
    | with_reducible refine becomeLead_keeps ?_
    | with_reducible rfl
    | ((try lift_lets -underBinder); intro x; refine (fun (hx : Keeps r x) => ?_) ?_; clear_value x; on_goal 2 => subst x)
    | ((try lift_lets -underBinder); intro x; subst x)
    | split
    | with_reducible refine Keeps.upd rfl rfl rfl rfl rfl rfl rfl rfl rfl ?_)

theorem leadRecord_keeps {r0 : State} {frm : Word} {j : Nat} {r : List Byte × Bool} {s : State} (h : Keeps r0 s) : Keeps r0
    (leadRecord frm j r s) := by
  unfold leadRecord
  repeat' (first
    | with_reducible assumption
    | with_reducible refine lnkCheck_keeps ?_
    | with_reducible refine lnkCheck_keeps_eq ?_ (by assumption)
    | with_reducible refine modLnk_keeps ?_
    | with_reducible rfl
    | ((try lift_lets -underBinder); intro x; refine (fun (hx : Keeps r0 x) => ?_) ?_; clear_value x; on_goal 2 => subst x)
    | ((try lift_lets -underBinder); intro x; subst x)
    | split
    | with_reducible refine Keeps.upd rfl rfl rfl rfl rfl rfl rfl rfl rfl ?_)

theorem leadRecords_keeps {r : State} {recs : List (List Byte × Bool)} {s : State} (h : Keeps r s) : Keeps r (leadRecords
    recs s) := by
  unfold leadRecords
  repeat' (first
    | with_reducible assumption
    | with_reducible refine leadRecord_keeps ?_
    | with_reducible refine Keeps.fold (fun _ _ _ => ?_) ?_
    | with_reducible rfl
    | ((try lift_lets -underBinder); intro x; refine (fun (hx : Keeps r x) => ?_) ?_; clear_value x; on_goal 2 => subst x)
    | ((try lift_lets -underBinder); intro x; subst x)
    | split
    | with_reducible refine Keeps.upd rfl rfl rfl rfl rfl rfl rfl rfl rfl ?_)

theorem leadHeader_keeps {r : State} {bs : List Byte} {recs : List (List Byte × Bool)} {s : State} (h : Keeps r s) : Keeps r
    (leadHeader bs recs s) := by
  unfold leadHeader
  repeat' (first
    | with_reducible assumption
    | with_reducible refine modLnk_keeps ?_
    | with_reducible refine leadRecords_keeps ?_
    | with_reducible rfl
    | ((try lift_lets -underBinder); intro x; refine (fun (hx : Keeps r x) => ?_) ?_; clear_value x; on_goal 2 => subst x)
    | ((try lift_lets -underBinder); intro x; subst x)
    | split
    | with_reducible refine Keeps.upd rfl rfl rfl rfl rfl rfl rfl rfl rfl ?_)

theorem beaconOp_keeps {r : State} {bs : List Byte} {err : Bool} {lead : Nat} {arr : Int} {recs : List (List Byte × Bool)}
    {s : State} (h : Keeps r s) : Keeps r (beaconOp bs err lead arr recs s) := by
  unfold beaconOp
  repeat' (first
    | with_reducible assumption
    | with_reducible refine lnkCheck_keeps ?_
    | with_reducible refine lnkCheck_keeps_eq ?_ (by assumption)
    | with_reducible refine leadRecords_keeps ?_
    | with_reducible refine setF_keeps ?_
    | with_reducible refine lnkClaim_keeps ?_
    | with_reducible refine leadHeader_keeps ?_
    | with_reducible refine modLnk_keeps ?_
    | with_reducible refine incSat_keeps ?_
    | with_reducible refine lnkRef_keeps ?_
    | with_reducible refine setB_keeps ?_
    | with_reducible refine lnkTo_keeps ?_
    | with_reducible refine lnkHop_keeps ?_
    | with_reducible refine lnkAlign_keeps ?_
    | with_reducible refine lnkForward_keeps ?_
    | with_reducible rfl
    | ((try lift_lets -underBinder); intro x; refine (fun (hx : Keeps r x) => ?_) ?_; clear_value x; on_goal 2 => subst x)
    | ((try lift_lets -underBinder); intro x; subst x)
    | split
    | with_reducible refine Keeps.upd rfl rfl rfl rfl rfl rfl rfl rfl rfl ?_)

theorem lnkOrder_keeps {r : State} {bs : List Byte} {s : State} (h : Keeps r s) : Keeps r (lnkOrder bs s) := by
  unfold lnkOrder
  repeat' (first
    | with_reducible assumption
    | with_reducible refine modLnk_keeps ?_
    | with_reducible refine setF_keeps ?_
    | with_reducible refine incSat_keeps ?_
    | with_reducible refine lnkDeliver_keeps ?_
    | with_reducible refine lnkDeliver_keeps_eq ?_ (by assumption)
    | with_reducible rfl
    | ((try lift_lets -underBinder); intro x; refine (fun (hx : Keeps r x) => ?_) ?_; clear_value x; on_goal 2 => subst x)
    | ((try lift_lets -underBinder); intro x; subst x)
    | split
    | with_reducible refine Keeps.upd rfl rfl rfl rfl rfl rfl rfl rfl rfl ?_)

theorem lnkJoin_keeps {r : State} {s : State} (h : Keeps r s) : Keeps r (lnkJoin s) := by
  unfold lnkJoin
  repeat' (first
    | with_reducible assumption
    | with_reducible refine setF_keeps ?_
    | with_reducible refine lnkTo_keeps ?_
    | with_reducible rfl
    | ((try lift_lets -underBinder); intro x; refine (fun (hx : Keeps r x) => ?_) ?_; clear_value x; on_goal 2 => subst x)
    | ((try lift_lets -underBinder); intro x; subst x)
    | split
    | with_reducible refine Keeps.upd rfl rfl rfl rfl rfl rfl rfl rfl rfl ?_)

theorem commandSlotOp_keeps {r : State} {bs : List Byte} {err : Bool} {s : State} (h : Keeps r s) : Keeps r (commandSlotOp
    bs err s) := by
  unfold commandSlotOp
  repeat' (first
    | with_reducible assumption
    | with_reducible refine lnkCheck_keeps ?_
    | with_reducible refine lnkCheck_keeps_eq ?_ (by assumption)
    | with_reducible refine lnkRef_keeps ?_
    | with_reducible refine setF_keeps ?_
    | with_reducible refine modLnk_keeps ?_
    | with_reducible refine lnkOrder_keeps ?_
    | with_reducible refine applyLevels_keeps ?_
    | with_reducible refine lnkJoin_keeps ?_
    | with_reducible rfl
    | ((try lift_lets -underBinder); intro x; refine (fun (hx : Keeps r x) => ?_) ?_; clear_value x; on_goal 2 => subst x)
    | ((try lift_lets -underBinder); intro x; subst x)
    | split
    | with_reducible refine Keeps.upd rfl rfl rfl rfl rfl rfl rfl rfl rfl ?_)

theorem budgetRecordOp_keeps {r : State} {s : State} (h : Keeps r s) : Keeps r (budgetRecordOp s) := by
  unfold budgetRecordOp
  repeat' (first
    | with_reducible assumption
    | with_reducible refine lnkTo_keeps ?_
    | with_reducible refine modLnk_keeps ?_
    | with_reducible refine setF_keeps ?_
    | with_reducible rfl
    | ((try lift_lets -underBinder); intro x; refine (fun (hx : Keeps r x) => ?_) ?_; clear_value x; on_goal 2 => subst x)
    | ((try lift_lets -underBinder); intro x; subst x)
    | split
    | with_reducible refine Keeps.upd rfl rfl rfl rfl rfl rfl rfl rfl rfl ?_)

theorem rollEnd_keeps {r : State} {s : State} (h : Keeps r s) : Keeps r (rollEnd s) := by
  unfold rollEnd
  repeat' (first
    | with_reducible assumption
    | with_reducible refine modLnk_keeps ?_
    | with_reducible rfl
    | ((try lift_lets -underBinder); intro x; refine (fun (hx : Keeps r x) => ?_) ?_; clear_value x; on_goal 2 => subst x)
    | ((try lift_lets -underBinder); intro x; subst x)
    | split
    | with_reducible refine Keeps.upd rfl rfl rfl rfl rfl rfl rfl rfl rfl ?_)

theorem rollcallOp_keeps {r : State} {s : State} (h : Keeps r s) : Keeps r (rollcallOp s) := by
  unfold rollcallOp
  repeat' (first
    | with_reducible assumption
    | with_reducible refine modLnk_keeps ?_
    | with_reducible refine setF_keeps ?_
    | with_reducible refine incSat_keeps ?_
    | with_reducible rfl
    | ((try lift_lets -underBinder); intro x; refine (fun (hx : Keeps r x) => ?_) ?_; clear_value x; on_goal 2 => subst x)
    | ((try lift_lets -underBinder); intro x; subst x)
    | split
    | with_reducible refine Keeps.upd rfl rfl rfl rfl rfl rfl rfl rfl rfl ?_)

theorem rollRequestOp_keeps {r : State} {s : State} (h : Keeps r s) : Keeps r (rollRequestOp s) := by
  unfold rollRequestOp
  repeat' (first
    | with_reducible assumption
    | with_reducible refine modLnk_keeps ?_
    | with_reducible rfl
    | ((try lift_lets -underBinder); intro x; refine (fun (hx : Keeps r x) => ?_) ?_; clear_value x; on_goal 2 => subst x)
    | ((try lift_lets -underBinder); intro x; subst x)
    | split
    | with_reducible refine Keeps.upd rfl rfl rfl rfl rfl rfl rfl rfl rfl ?_)

theorem leadOrder_keeps {r : State} {s : State} (h : Keeps r s) : Keeps r (leadOrder s).2 := by
  unfold leadOrder
  repeat' (first
    | with_reducible assumption
    | with_reducible refine modLnk_keeps ?_
    | with_reducible refine setF_keeps ?_
    | with_reducible refine ramStoreBytes_keeps ?_
    | with_reducible refine ramStoreBytes_keeps_eq ?_ (by assumption)
    | with_reducible refine lnkFinish_keeps ?_
    | with_reducible rfl
    | ((try lift_lets -underBinder); intro x; refine (fun (hx : Keeps r x) => ?_) ?_; clear_value x; on_goal 2 => subst x)
    | ((try lift_lets -underBinder); intro x; subst x)
    | split
    | with_reducible refine Keeps.upd rfl rfl rfl rfl rfl rfl rfl rfl rfl ?_)

theorem leadOrder_keeps_eq {r u : State} {q : (Nat × List Byte)} {s : State} (h : Keeps r s) (hq : leadOrder s = (q, u)) :
    Keeps r u := by
  have k := leadOrder_keeps  h
  rw [hq] at k; exact k

theorem leadTick_keeps {r : State} {first : Bool} {s : State} (h : Keeps r s) : Keeps r (leadTick first s) := by
  unfold leadTick
  repeat' (first
    | with_reducible assumption
    | with_reducible refine setB_keeps ?_
    | with_reducible refine modLnk_keeps ?_
    | with_reducible refine rollEnd_keeps ?_
    | with_reducible refine lnkRef_keeps ?_
    | with_reducible refine setF_keeps ?_
    | with_reducible refine leadOrder_keeps ?_
    | with_reducible refine leadOrder_keeps_eq ?_ (by assumption)
    | with_reducible refine lnkOrder_keeps ?_
    | with_reducible refine applyLevels_keeps ?_
    | with_reducible rfl
    | ((try lift_lets -underBinder); intro x; refine (fun (hx : Keeps r x) => ?_) ?_; clear_value x; on_goal 2 => subst x)
    | ((try lift_lets -underBinder); intro x; subst x)
    | split
    | with_reducible refine Keeps.upd rfl rfl rfl rfl rfl rfl rfl rfl rfl ?_)

theorem lnkTick_keeps {r : State} {first : Bool} {s : State} (h : Keeps r s) : Keeps r (lnkTick first s) := by
  unfold lnkTick
  repeat' (first
    | with_reducible assumption
    | with_reducible refine claimCheck_keeps ?_
    | with_reducible refine modLnk_keeps ?_
    | with_reducible refine lnkTermTick_keeps ?_
    | with_reducible refine leadTick_keeps ?_
    | with_reducible rfl
    | ((try lift_lets -underBinder); intro x; refine (fun (hx : Keeps r x) => ?_) ?_; clear_value x; on_goal 2 => subst x)
    | ((try lift_lets -underBinder); intro x; subst x)
    | split
    | with_reducible refine Keeps.upd rfl rfl rfl rfl rfl rfl rfl rfl rfl ?_)

theorem msgCheck_keeps {r : State} {bs : List Byte} {err : Bool} {s : State} (h : Keeps r s) : Keeps r (msgCheck bs err s).2
    := by
  unfold msgCheck
  repeat' (first
    | with_reducible assumption
    | with_reducible refine lnkCheck_keeps ?_
    | with_reducible refine lnkCheck_keeps_eq ?_ (by assumption)
    | with_reducible rfl
    | ((try lift_lets -underBinder); intro x; refine (fun (hx : Keeps r x) => ?_) ?_; clear_value x; on_goal 2 => subst x)
    | ((try lift_lets -underBinder); intro x; subst x)
    | split
    | with_reducible refine Keeps.upd rfl rfl rfl rfl rfl rfl rfl rfl rfl ?_)

theorem msgCheck_keeps_eq {r u : State} {q : Bool} {bs : List Byte} {err : Bool} {s : State} (h : Keeps r s) (hq : msgCheck
    bs err s = (q, u)) : Keeps r u := by
  have k := msgCheck_keeps (bs := bs) (err := err) h
  rw [hq] at k; exact k

theorem msgDeliver_keeps {r : State} {bs : List Byte} {s : State} (h : Keeps r s) : Keeps r (msgDeliver bs s).2 := by
  unfold msgDeliver
  repeat' (first
    | with_reducible assumption
    | with_reducible refine lnkDeliver_keeps ?_
    | with_reducible refine lnkDeliver_keeps_eq ?_ (by assumption)
    | with_reducible rfl
    | ((try lift_lets -underBinder); intro x; refine (fun (hx : Keeps r x) => ?_) ?_; clear_value x; on_goal 2 => subst x)
    | ((try lift_lets -underBinder); intro x; subst x)
    | split
    | with_reducible refine Keeps.upd rfl rfl rfl rfl rfl rfl rfl rfl rfl ?_)

theorem msgDeliver_keeps_eq {r u : State} {q : List Byte} {bs : List Byte} {s : State} (h : Keeps r s) (hq : msgDeliver bs s
    = (q, u)) : Keeps r u := by
  have k := msgDeliver_keeps (bs := bs) h
  rw [hq] at k; exact k

theorem messageOp_keeps {r : State} {bs : List Byte} {err pre : Bool} {s : State} (h : Keeps r s) : Keeps r (messageOp bs
    err pre s) := by
  unfold messageOp
  repeat' (first
    | with_reducible assumption
    | with_reducible refine msgCheck_keeps ?_
    | with_reducible refine msgCheck_keeps_eq ?_ (by assumption)
    | with_reducible refine msgDeliver_keeps ?_
    | with_reducible refine msgDeliver_keeps_eq ?_ (by assumption)
    | with_reducible refine modLnk_keeps ?_
    | with_reducible rfl
    | ((try lift_lets -underBinder); intro x; refine (fun (hx : Keeps r x) => ?_) ?_; clear_value x; on_goal 2 => subst x)
    | ((try lift_lets -underBinder); intro x; subst x)
    | split
    | with_reducible refine Keeps.upd rfl rfl rfl rfl rfl rfl rfl rfl rfl ?_)

theorem messageReturnSourceOp_keeps {r : State} {bs : List Byte} {err : Bool} {s : State} (h : Keeps r s) : Keeps r
    (messageReturnSourceOp bs err s) := by
  unfold messageReturnSourceOp
  repeat' (first
    | with_reducible assumption
    | with_reducible refine msgCheck_keeps ?_
    | with_reducible refine msgCheck_keeps_eq ?_ (by assumption)
    | with_reducible refine modLnk_keeps ?_
    | with_reducible refine lnkFinish_keeps ?_
    | with_reducible rfl
    | ((try lift_lets -underBinder); intro x; refine (fun (hx : Keeps r x) => ?_) ?_; clear_value x; on_goal 2 => subst x)
    | ((try lift_lets -underBinder); intro x; subst x)
    | split
    | with_reducible refine Keeps.upd rfl rfl rfl rfl rfl rfl rfl rfl rfl ?_)

theorem messageReturnLeadOp_keeps {r s : State} {bs : List Byte} {err : Bool} (h : Keeps r s) :
    Keeps r (messageReturnLeadOp bs err s) := by
  unfold messageReturnLeadOp
  split
  · exact h
  · have k1 := msgCheck_keeps (bs := bs) (err := err) h
    generalize msgCheck bs err s = p at k1 ⊢
    obtain ⟨ok, s1⟩ := p
    dsimp only at k1 ⊢
    split
    · exact k1
    · split
      · split <;> [exact lnkFinish_keeps k1; exact k1]
      · have k2 : Keeps r (if msgMine bs s1 = true then msgDeliver bs s1 else (bs, s1)).2 := by
          split <;> [exact msgDeliver_keeps k1; exact k1]
        generalize (if msgMine bs s1 = true then msgDeliver bs s1 else (bs, s1)) = p at k2 ⊢
        obtain ⟨m, s2⟩ := p
        dsimp only at k2 ⊢
        repeat' (first
          | with_reducible assumption
          | with_reducible refine incSat_keeps ?_
          | with_reducible refine modLnk_keeps ?_
          | split)

theorem messageSendOp_keeps {r : State} {k : Nat} {cut : Bool} {s : State} (h : Keeps r s) : Keeps r (messageSendOp k cut s)
    := by
  unfold messageSendOp
  repeat' (first
    | with_reducible assumption
    | with_reducible refine incSat_keeps ?_
    | with_reducible refine modLnk_keeps ?_
    | with_reducible refine ramStoreBytes_keeps ?_
    | with_reducible refine ramStoreBytes_keeps_eq ?_ (by assumption)
    | with_reducible rfl
    | ((try lift_lets -underBinder); intro x; refine (fun (hx : Keeps r x) => ?_) ?_; clear_value x; on_goal 2 => subst x)
    | ((try lift_lets -underBinder); intro x; subst x)
    | split
    | with_reducible refine Keeps.upd rfl rfl rfl rfl rfl rfl rfl rfl rfl ?_)

theorem messageTimeoutOp_keeps {r : State} {s : State} (h : Keeps r s) : Keeps r (messageTimeoutOp s) := by
  unfold messageTimeoutOp
  repeat' (first
    | with_reducible assumption
    | with_reducible refine lnkFinish_keeps ?_
    | with_reducible refine Keeps.fold (fun _ _ _ => ?_) ?_
    | with_reducible rfl
    | ((try lift_lets -underBinder); intro x; refine (fun (hx : Keeps r x) => ?_) ?_; clear_value x; on_goal 2 => subst x)
    | ((try lift_lets -underBinder); intro x; subst x)
    | split
    | with_reducible refine Keeps.upd rfl rfl rfl rfl rfl rfl rfl rfl rfl ?_)

theorem lnkSend1_keeps {r : State} {t : TagRec} {s : State} (h : Keeps r s) : Keeps r (lnkSend1 t s) := by
  unfold lnkSend1
  repeat' (first
    | with_reducible assumption
    | with_reducible refine complete_keeps ?_
    | with_reducible refine unitRead_keeps ?_
    | with_reducible refine unitRead_keeps_eq ?_ (by assumption)
    | with_reducible refine lnkSlotWrite_keeps ?_
    | with_reducible refine modLnk_keeps ?_
    | with_reducible rfl
    | ((try lift_lets -underBinder); intro x; refine (fun (hx : Keeps r x) => ?_) ?_; clear_value x; on_goal 2 => subst x)
    | ((try lift_lets -underBinder); intro x; subst x)
    | split
    | with_reducible refine Keeps.upd rfl rfl rfl rfl rfl rfl rfl rfl rfl ?_)

theorem lnkSendOp_keeps {r : State} {s : State} (h : Keeps r s) : Keeps r (lnkSendOp s) := by
  unfold lnkSendOp
  repeat' (first
    | with_reducible assumption
    | with_reducible refine lnkSend1_keeps ?_
    | with_reducible refine Keeps.fold (fun _ _ _ => ?_) ?_
    | with_reducible rfl
    | ((try lift_lets -underBinder); intro x; refine (fun (hx : Keeps r x) => ?_) ?_; clear_value x; on_goal 2 => subst x)
    | ((try lift_lets -underBinder); intro x; subst x)
    | split
    | with_reducible refine Keeps.upd rfl rfl rfl rfl rfl rfl rfl rfl rfl ?_)

theorem lnkRecv1_keeps {r : State} {t : TagRec} {s : State} (h : Keeps r s) : Keeps r (lnkRecv1 t s) := by
  unfold lnkRecv1
  repeat' (first
    | with_reducible assumption
    | with_reducible refine complete_keeps ?_
    | with_reducible refine unitRead_keeps ?_
    | with_reducible refine unitRead_keeps_eq ?_ (by assumption)
    | with_reducible refine opStore_keeps ?_
    | with_reducible refine ramStoreBytes_keeps ?_
    | with_reducible refine ramStoreBytes_keeps_eq ?_ (by assumption)
    | with_reducible refine modLnk_keeps ?_
    | with_reducible rfl
    | ((try lift_lets -underBinder); intro x; refine (fun (hx : Keeps r x) => ?_) ?_; clear_value x; on_goal 2 => subst x)
    | ((try lift_lets -underBinder); intro x; subst x)
    | split
    | with_reducible refine Keeps.upd rfl rfl rfl rfl rfl rfl rfl rfl rfl ?_)

theorem lnkRecvOp_keeps {r : State} {s : State} (h : Keeps r s) : Keeps r (lnkRecvOp s) := by
  unfold lnkRecvOp
  repeat' (first
    | with_reducible assumption
    | with_reducible refine lnkRecv1_keeps ?_
    | with_reducible refine Keeps.fold (fun _ _ _ => ?_) ?_
    | with_reducible rfl
    | ((try lift_lets -underBinder); intro x; refine (fun (hx : Keeps r x) => ?_) ?_; clear_value x; on_goal 2 => subst x)
    | ((try lift_lets -underBinder); intro x; subst x)
    | split
    | with_reducible refine Keeps.upd rfl rfl rfl rfl rfl rfl rfl rfl rfl ?_)

theorem lnkFence_keeps {r : State} {s : State} (h : Keeps r s) : Keeps r (lnkFence s) := by
  unfold lnkFence
  repeat' (first
    | with_reducible assumption
    | with_reducible refine fenceUnitOp_keeps ?_
    | with_reducible refine lnkAlone_keeps ?_
    | with_reducible refine Keeps.fold (fun _ _ _ => ?_) ?_
    | with_reducible rfl
    | ((try lift_lets -underBinder); intro x; refine (fun (hx : Keeps r x) => ?_) ?_; clear_value x; on_goal 2 => subst x)
    | ((try lift_lets -underBinder); intro x; subst x)
    | split
    | with_reducible refine Keeps.upd rfl rfl rfl rfl rfl rfl rfl rfl rfl ?_)

theorem lnkUnfence_keeps {r : State} {s : State} (h : Keeps r s) : Keeps r (lnkUnfence s) := by
  unfold lnkUnfence
  repeat' (first
    | with_reducible assumption
    | with_reducible refine lnkTrain_keeps ?_
    | with_reducible rfl
    | ((try lift_lets -underBinder); intro x; refine (fun (hx : Keeps r x) => ?_) ?_; clear_value x; on_goal 2 => subst x)
    | ((try lift_lets -underBinder); intro x; subst x)
    | split
    | with_reducible refine Keeps.upd rfl rfl rfl rfl rfl rfl rfl rfl rfl ?_)

end Sys2Proof.Machine
end

