-- ==== Sys2Proof/Laws/KeepsStoreOps.lean ====
section
/-!
SUPPORT. What the operations of Machine/StoreOps.lean keep: the queue, and the legality of the state.
-/

namespace Sys2Proof.Machine

open Sys2Proof

set_option linter.unusedTactic false
set_option linter.unreachableTactic false
set_option linter.unusedVariables false

theorem psReadLines_keeps {r : State} {b : Bool} {lo n : Nat} {s : State} (h : Keeps r s) : Keeps r (psReadLines b lo n s).2
    := by
  unfold psReadLines
  repeat' (first
    | with_reducible assumption
    | with_reducible refine psReadLine_keeps ?_
    | with_reducible refine psReadLine_keeps_eq ?_ (by assumption)
    | with_reducible refine Keeps.fold (fun _ _ _ => ?_) ?_
    | with_reducible refine Keeps.fold2 (fun _ _ _ => ?_) ?_
    | with_reducible refine Keeps.fold2_eq (fun _ _ _ => ?_) ?_ (by assumption)
    | with_reducible rfl
    | ((try lift_lets -underBinder); intro x; refine (fun (hx : Keeps r x) => ?_) ?_; clear_value x; on_goal 2 => subst x)
    | ((try lift_lets -underBinder); intro x; subst x)
    | split
    | with_reducible refine Keeps.upd rfl rfl rfl rfl rfl rfl rfl rfl rfl ?_)

theorem psReadLines_keeps_eq {r u : State} {q : Bool} {b : Bool} {lo n : Nat} {s : State} (h : Keeps r s) (hq : psReadLines
    b lo n s = (q, u)) : Keeps r u := by
  have k := psReadLines_keeps (b := b) (lo := lo) (n := n) h
  rw [hq] at k; exact k

theorem imageCheck_keeps {r : State} {b : Bool} {s : State} (h : Keeps r s) : Keeps r (imageCheck b s).2 := by
  unfold imageCheck
  repeat' (first
    | with_reducible assumption
    | with_reducible refine psReadLines_keeps ?_
    | with_reducible refine psReadLines_keeps_eq ?_ (by assumption)
    | with_reducible rfl
    | ((try lift_lets -underBinder); intro x; refine (fun (hx : Keeps r x) => ?_) ?_; clear_value x; on_goal 2 => subst x)
    | ((try lift_lets -underBinder); intro x; subst x)
    | split
    | with_reducible refine Keeps.upd rfl rfl rfl rfl rfl rfl rfl rfl rfl ?_)

theorem imageCheck_keeps_eq {r u : State} {q : Nat} {b : Bool} {s : State} (h : Keeps r s) (hq : imageCheck b s = (q, u)) :
    Keeps r u := by
  have k := imageCheck_keeps (b := b) h
  rw [hq] at k; exact k

theorem putMarker_keeps {r : State} {active trial tbank : Bool} {s : State} (h : Keeps r s) : Keeps r (putMarker active
    trial tbank s) := by
  unfold putMarker
  repeat' (first
    | with_reducible assumption
    | with_reducible refine modStore_keeps ?_ ?_
    | with_reducible rfl
    | ((try lift_lets -underBinder); intro x; refine (fun (hx : Keeps r x) => ?_) ?_; clear_value x; on_goal 2 => subst x)
    | ((try lift_lets -underBinder); intro x; subst x)
    | split
    | with_reducible refine Keeps.upd rfl rfl rfl rfl rfl rfl rfl rfl rfl ?_)

theorem markerRead_keeps {r : State} {c : Nat} {s : State} (h : Keeps r s) : Keeps r (markerRead c s).2 := by
  unfold markerRead
  repeat' (first
    | with_reducible assumption
    | with_reducible refine injDone_keeps ?_
    | with_reducible refine raise'_keeps ?_
    | with_reducible refine incSat_keeps ?_
    | with_reducible refine setF_keeps ?_
    | with_reducible rfl
    | ((try lift_lets -underBinder); intro x; refine (fun (hx : Keeps r x) => ?_) ?_; clear_value x; on_goal 2 => subst x)
    | ((try lift_lets -underBinder); intro x; subst x)
    | split
    | with_reducible refine Keeps.upd rfl rfl rfl rfl rfl rfl rfl rfl rfl ?_)

theorem markerRead_keeps_eq {r u : State} {q : Nat} {c : Nat} {s : State} (h : Keeps r s) (hq : markerRead c s = (q, u)) :
    Keeps r u := by
  have k := markerRead_keeps (c := c) h
  rw [hq] at k; exact k

theorem psLines_keeps {r : State} {src dst n : Nat} {bad : Option Nat} {b : Bool} : ∀ {m k : Nat} {s : State}, Keeps r s →
    Keeps r (psLines src dst n bad b m k s).2
  | 0, _, _, h => h
  | m + 1, k, s, h => by
    unfold psLines
    have g := ramRead_keeps (who := none) (a := src + 64 * k) (n := 64) h
    generalize ramRead none (src + 64 * k) 64 s = p at g ⊢
    obtain ⟨q, s1⟩ := p
    cases q with
    | inl x => exact g
    | inr bs =>
      dsimp only at g ⊢
      have g2 : Keeps r (if k = 0 then s1 |> setF (psValid b) 0 |> setF (psFail b) 0 else s1) := by
        split <;> [exact setF_keeps (setF_keeps g); exact g]
      split
      · exact raise'_keeps (Keeps.upd rfl rfl rfl rfl rfl rfl rfl rfl rfl (lineFlipPut_keeps (psWrite_keeps g2)))
      · exact psLines_keeps (m := m) (lineProgram_keeps g2)

theorem psLines_keeps_eq {r u : State} {q : Nat × Nat} {src dst n : Nat} {bad : Option Nat} {b : Bool} {m k : Nat} {s : State}
    (h : Keeps r s) (e : psLines src dst n bad b m k s = (q, u)) : Keeps r u := by
  have g := psLines_keeps (src := src) (dst := dst) (n := n) (bad := bad) (b := b) (m := m) (k := k) h
  rw [e] at g; exact g

theorem psWriteOp_keeps {r : State} {bad : Option Nat} {s : State} (h : Keeps r s) : Keeps r (psWriteOp bad s) := by
  unfold psWriteOp
  repeat' (first
    | with_reducible assumption
    | with_reducible refine complete_keeps ?_
    | with_reducible refine psLines_keeps ?_
    | with_reducible refine psLines_keeps_eq ?_ (by assumption)
    | with_reducible rfl
    | ((try lift_lets -underBinder); intro x; refine (fun (hx : Keeps r x) => ?_) ?_; clear_value x; on_goal 2 => subst x)
    | ((try lift_lets -underBinder); intro x; subst x)
    | split
    | with_reducible refine Keeps.upd rfl rfl rfl rfl rfl rfl rfl rfl rfl ?_)

theorem markerCut_keeps {r : State} {s : State} (h : Keeps r s) : Keeps r (markerCut s) := by
  unfold markerCut
  repeat' (first
    | with_reducible assumption
    | with_reducible refine modStore_keeps ?_ ?_
    | with_reducible rfl
    | ((try lift_lets -underBinder); intro x; refine (fun (hx : Keeps r x) => ?_) ?_; clear_value x; on_goal 2 => subst x)
    | ((try lift_lets -underBinder); intro x; subst x)
    | split
    | with_reducible refine Keeps.upd rfl rfl rfl rfl rfl rfl rfl rfl rfl ?_)

theorem psCut_keeps {r : State} {s : State} (h : Keeps r s) : Keeps r (psCut s) := by
  unfold psCut
  repeat' (first
    | with_reducible assumption
    | with_reducible refine psLines_keeps ?_
    | with_reducible refine psLines_keeps_eq ?_ (by assumption)
    | with_reducible refine useSeed_keeps ?_
    | with_reducible rfl
    | ((try lift_lets -underBinder); intro x; refine (fun (hx : Keeps r x) => ?_) ?_; clear_value x; on_goal 2 => subst x)
    | ((try lift_lets -underBinder); intro x; subst x)
    | split
    | with_reducible refine Keeps.upd rfl rfl rfl rfl rfl rfl rfl rfl rfl ?_)

theorem withdrawArm_keeps {r : State} {s : State} (h : Keeps r s) : Keeps r (withdrawArm s) := by
  unfold withdrawArm
  repeat' (first
    | with_reducible assumption
    | with_reducible refine modStore_keeps ?_ ?_
    | with_reducible refine setF_keeps ?_
    | with_reducible rfl
    | ((try lift_lets -underBinder); intro x; refine (fun (hx : Keeps r x) => ?_) ?_; clear_value x; on_goal 2 => subst x)
    | ((try lift_lets -underBinder); intro x; subst x)
    | split
    | with_reducible refine Keeps.upd rfl rfl rfl rfl rfl rfl rfl rfl rfl ?_)

theorem disarmOp_keeps {r : State} {s : State} (h : Keeps r s) : Keeps r (disarmOp s) := by
  unfold disarmOp
  repeat' (first
    | with_reducible assumption
    | with_reducible refine withdrawArm_keeps ?_
    | with_reducible rfl
    | ((try lift_lets -underBinder); intro x; refine (fun (hx : Keeps r x) => ?_) ?_; clear_value x; on_goal 2 => subst x)
    | ((try lift_lets -underBinder); intro x; subst x)
    | split
    | with_reducible refine Keeps.upd rfl rfl rfl rfl rfl rfl rfl rfl rfl ?_)

theorem scrubNext_keeps {r : State} {s : State} (h : Keeps r s) : Keeps r (scrubNext s) := by
  unfold scrubNext
  repeat' (first
    | with_reducible assumption
    | with_reducible refine incWrap_keeps ?_
    | with_reducible refine modStore_keeps ?_ ?_
    | with_reducible refine setF_keeps ?_
    | with_reducible refine setB_keeps ?_
    | with_reducible rfl
    | ((try lift_lets -underBinder); intro x; refine (fun (hx : Keeps r x) => ?_) ?_; clear_value x; on_goal 2 => subst x)
    | ((try lift_lets -underBinder); intro x; subst x)
    | split
    | with_reducible refine Keeps.upd rfl rfl rfl rfl rfl rfl rfl rfl rfl ?_)

theorem scrubMarker_keeps {r : State} {c : Nat} {s : State} (h : Keeps r s) : Keeps r (scrubMarker c s) := by
  unfold scrubMarker
  repeat' (first
    | with_reducible assumption
    | with_reducible refine markerRead_keeps ?_
    | with_reducible refine markerRead_keeps_eq ?_ (by assumption)
    | with_reducible refine modStore_keeps ?_ ?_
    | with_reducible rfl
    | ((try lift_lets -underBinder); intro x; refine (fun (hx : Keeps r x) => ?_) ?_; clear_value x; on_goal 2 => subst x)
    | ((try lift_lets -underBinder); intro x; subst x)
    | split
    | with_reducible refine Keeps.upd rfl rfl rfl rfl rfl rfl rfl rfl rfl ?_)

theorem scrubOp_keeps {r s : State} (h : Keeps r s) : Keeps r (scrubOp s) := by
  unfold scrubOp
  dsimp only
  split
  · exact scrubNext_keeps (scrubMarker_keeps h)
  · generalize decide (1024 ≤ s.store.scrubPos) = b
    generalize s.store.scrubPos % 1024 = l
    generalize lineErrAt b l s = st
    have g := lineDecode_keeps (b := b) (l := l) h
    generalize lineDecode b l s = p at g ⊢
    obtain ⟨n, s1⟩ := p
    dsimp only at g ⊢
    refine scrubNext_keeps ?_
    split
    · exact g
    · split
      · split
        · exact lineProgram_keeps (psCorr_keeps g)
        · exact psCorr_keeps g
      · split
        · have k := setF_keeps (f := psValid b) (x := 0) (psUncor_keeps (unit := none) (b := b) (l := l) g)
          split
          · exact withdrawArm_keeps k
          · exact k
        · exact psUncor_keeps g

theorem armRefuse_keeps {r : State} {c : Nat} {s : State} (h : Keeps r s) : Keeps r (armRefuse c s) := by
  unfold armRefuse
  repeat' (first
    | with_reducible assumption
    | with_reducible refine setF_keeps ?_
    | with_reducible rfl
    | ((try lift_lets -underBinder); intro x; refine (fun (hx : Keeps r x) => ?_) ?_; clear_value x; on_goal 2 => subst x)
    | ((try lift_lets -underBinder); intro x; subst x)
    | split
    | with_reducible refine Keeps.upd rfl rfl rfl rfl rfl rfl rfl rfl rfl ?_)

theorem armOp_keeps {r : State} {s : State} (h : Keeps r s) : Keeps r (armOp s) := by
  unfold armOp
  repeat' (first
    | with_reducible assumption
    | with_reducible refine armRefuse_keeps ?_
    | with_reducible refine modStore_keeps ?_ ?_
    | with_reducible refine setF_keeps ?_
    | with_reducible rfl
    | ((try lift_lets -underBinder); intro x; refine (fun (hx : Keeps r x) => ?_) ?_; clear_value x; on_goal 2 => subst x)
    | ((try lift_lets -underBinder); intro x; subst x)
    | split
    | with_reducible refine Keeps.upd rfl rfl rfl rfl rfl rfl rfl rfl rfl ?_)

theorem armDoneOp_keeps {r : State} {s : State} (h : Keeps r s) : Keeps r (armDoneOp s) := by
  unfold armDoneOp
  repeat' (first
    | with_reducible assumption
    | with_reducible refine imageCheck_keeps ?_
    | with_reducible refine imageCheck_keeps_eq ?_ (by assumption)
    | with_reducible refine modStore_keeps ?_ ?_
    | with_reducible refine setF_keeps ?_
    | with_reducible rfl
    | ((try lift_lets -underBinder); intro x; refine (fun (hx : Keeps r x) => ?_) ?_; clear_value x; on_goal 2 => subst x)
    | ((try lift_lets -underBinder); intro x; subst x)
    | split
    | with_reducible refine Keeps.upd rfl rfl rfl rfl rfl rfl rfl rfl rfl ?_)

theorem swapRecord_keeps {r : State} {old new : Nat} {kind : Nat} {s : State} (h : Keeps r s) : Keeps r (swapRecord old new
    kind s) := by
  unfold swapRecord
  repeat' (first
    | with_reducible assumption
    | with_reducible refine ramStoreBytes_keeps ?_
    | with_reducible refine ramStoreBytes_keeps_eq ?_ (by assumption)
    | with_reducible rfl
    | ((try lift_lets -underBinder); intro x; refine (fun (hx : Keeps r x) => ?_) ?_; clear_value x; on_goal 2 => subst x)
    | ((try lift_lets -underBinder); intro x; subst x)
    | split
    | with_reducible refine Keeps.upd rfl rfl rfl rfl rfl rfl rfl rfl rfl ?_)

theorem restartIn_keeps {r : State} {b : Bool} {kind : Nat} {s : State} (h : Keeps r s) : Keeps r (restartIn b kind s) := by
  unfold restartIn
  repeat' (first
    | with_reducible assumption
    | with_reducible refine setB_keeps ?_
    | with_reducible refine wr_keeps ?_
    | with_reducible refine modStore_keeps ?_ ?_
    | with_reducible refine resetAllEngines_keeps ?_
    | with_reducible refine setF_keeps ?_
    | with_reducible refine swapRecord_keeps ?_
    | with_reducible rfl
    | ((try lift_lets -underBinder); intro x; refine (fun (hx : Keeps r x) => ?_) ?_; clear_value x; on_goal 2 => subst x)
    | ((try lift_lets -underBinder); intro x; subst x)
    | split
    | with_reducible refine Keeps.upd rfl rfl rfl rfl rfl rfl rfl rfl rfl ?_)

theorem windowFailed_keeps {r : State} {mask : Nat} {b : Bool} {s : State} (h : Keeps r s) : Keeps r (windowFailed mask b s)
    := by
  unfold windowFailed
  repeat' (first
    | with_reducible assumption
    | with_reducible refine modStore_keeps ?_ ?_
    | with_reducible refine setF_keeps ?_
    | with_reducible refine raise'_keeps ?_
    | with_reducible rfl
    | ((try lift_lets -underBinder); intro x; refine (fun (hx : Keeps r x) => ?_) ?_; clear_value x; on_goal 2 => subst x)
    | ((try lift_lets -underBinder); intro x; subst x)
    | split
    | with_reducible refine Keeps.upd rfl rfl rfl rfl rfl rfl rfl rfl rfl ?_)

theorem windowFawn_keeps {r : State} {s : State} (h : Keeps r s) : Keeps r (windowFawn s) := by
  unfold windowFawn
  repeat' (first
    | with_reducible assumption
    | with_reducible refine windowFailed_keeps ?_
    | with_reducible refine setB_keeps ?_
    | with_reducible refine wr_keeps ?_
    | with_reducible refine putMarker_keeps ?_
    | with_reducible rfl
    | ((try lift_lets -underBinder); intro x; refine (fun (hx : Keeps r x) => ?_) ?_; clear_value x; on_goal 2 => subst x)
    | ((try lift_lets -underBinder); intro x; subst x)
    | split
    | with_reducible refine Keeps.upd rfl rfl rfl rfl rfl rfl rfl rfl rfl ?_)

theorem windowWdg_keeps {r : State} {s : State} (h : Keeps r s) : Keeps r (windowWdg s) := by
  unfold windowWdg
  repeat' (first
    | with_reducible assumption
    | with_reducible refine modStore_keeps ?_ ?_
    | with_reducible rfl
    | ((try lift_lets -underBinder); intro x; refine (fun (hx : Keeps r x) => ?_) ?_; clear_value x; on_goal 2 => subst x)
    | ((try lift_lets -underBinder); intro x; subst x)
    | split
    | with_reducible refine Keeps.upd rfl rfl rfl rfl rfl rfl rfl rfl rfl ?_)

end Sys2Proof.Machine
end

