-- ==== Sys2Proof/Laws/KeepsCollect.lean ====
section
/-!
SUPPORT. What the operations of Machine/Collect.lean keep: the queue, and the legality of the state.
-/

namespace Sys2Proof.Machine

open Sys2Proof

set_option linter.unusedTactic false
set_option linter.unreachableTactic false
set_option linter.unusedVariables false

theorem logWrite_keeps {r : State} {e : LogEnt} {s : State} (h : Keeps r s) : Keeps r (logWrite e s) := by
  unfold logWrite
  repeat' (first
    | with_reducible assumption
    | with_reducible refine incSat_keeps ?_
    | with_reducible refine setF_keeps ?_
    | with_reducible refine modFlt_keeps ?_ ?_ ?_
    | with_reducible refine wr_keeps ?_
    | with_reducible exact Or.inl rfl
    | with_reducible exact Or.inr (List.length_take_le _ _)
    | with_reducible rfl
    | ((try lift_lets -underBinder); intro x; refine (fun (hx : Keeps r x) => ?_) ?_; clear_value x; on_goal 2 => subst x)
    | ((try lift_lets -underBinder); intro x; subst x)
    | split
    | with_reducible refine Keeps.upd rfl rfl rfl rfl rfl rfl rfl rfl rfl ?_)

theorem flushLog_keeps {r : State} {s : State} (h : Keeps r s) : Keeps r (flushLog s) := by
  unfold flushLog
  repeat' (first
    | with_reducible assumption
    | with_reducible refine logWrite_keeps ?_
    | with_reducible refine Keeps.fold (fun _ _ _ => ?_) ?_
    | with_reducible rfl
    | ((try lift_lets -underBinder); intro x; refine (fun (hx : Keeps r x) => ?_) ?_; clear_value x; on_goal 2 => subst x)
    | ((try lift_lets -underBinder); intro x; subst x)
    | split
    | with_reducible refine Keeps.upd rfl rfl rfl rfl rfl rfl rfl rfl rfl ?_)

theorem logSelectOp_keeps {r : State} {slot : Nat} {s : State} (h : Keeps r s) : Keeps r (logSelectOp slot s) := by
  unfold logSelectOp
  repeat' (first
    | with_reducible assumption
    | with_reducible refine modFlt_keeps ?_ ?_ ?_
    | with_reducible refine setF_keeps ?_
    | with_reducible exact Or.inl rfl
    | with_reducible rfl
    | ((try lift_lets -underBinder); intro x; refine (fun (hx : Keeps r x) => ?_) ?_; clear_value x; on_goal 2 => subst x)
    | ((try lift_lets -underBinder); intro x; subst x)
    | split
    | with_reducible refine Keeps.upd rfl rfl rfl rfl rfl rfl rfl rfl rfl ?_)

theorem logClearOp_keeps {r : State} {s : State} (h : Keeps r s) : Keeps r (logClearOp s) :=
  modFlt_keeps (Or.inr (Nat.zero_le _)) (Or.inl rfl) (wr_keeps (setF_keeps (setF_keeps (setF_keeps h))))

theorem logPutOp_keeps {r : State} {who : Option EngId} {v : Nat} {s : State} (h : Keeps r s) : Keeps r (logPutOp who v s) := by
  unfold logPutOp
  repeat' (first
    | with_reducible assumption
    | with_reducible refine logPut_keeps ?_
    | with_reducible rfl
    | ((try lift_lets -underBinder); intro x; refine (fun (hx : Keeps r x) => ?_) ?_; clear_value x; on_goal 2 => subst x)
    | ((try lift_lets -underBinder); intro x; subst x)
    | split
    | with_reducible refine Keeps.upd rfl rfl rfl rfl rfl rfl rfl rfl rfl ?_)

theorem promote_keeps {r : State} {n : Nat} {s : State} (h : Keeps r s) : Keeps r (promote n s) := by
  unfold promote
  repeat' (first
    | with_reducible assumption
    | with_reducible refine setF_keeps ?_
    | with_reducible refine incSat_keeps ?_
    | with_reducible rfl
    | ((try lift_lets -underBinder); intro x; refine (fun (hx : Keeps r x) => ?_) ?_; clear_value x; on_goal 2 => subst x)
    | ((try lift_lets -underBinder); intro x; subst x)
    | split
    | with_reducible refine Keeps.upd rfl rfl rfl rfl rfl rfl rfl rfl rfl ?_)

theorem pendClear_keeps {r : State} {hi : Bool} {v : Nat} {s : State} (h : Keeps r s) : Keeps r (pendClear hi v s) := by
  unfold pendClear
  repeat' (first
    | with_reducible assumption
    | with_reducible refine forN_keeps (fun _ _ _ => ?_) ?_
    | with_reducible refine setF_keeps ?_
    | with_reducible refine modFlt_keeps ?_ ?_ ?_
    | with_reducible exact Or.inl rfl
    | with_reducible rfl
    | ((try lift_lets -underBinder); intro x; refine (fun (hx : Keeps r x) => ?_) ?_; clear_value x; on_goal 2 => subst x)
    | ((try lift_lets -underBinder); intro x; subst x)
    | split
    | with_reducible refine Keeps.upd rfl rfl rfl rfl rfl rfl rfl rfl rfl ?_)

theorem sevEnd_keeps {r : State} {n : Nat} {s : State} (h : Keeps r s) : Keeps r (sevEnd n s) := by
  unfold sevEnd
  repeat' (first
    | with_reducible assumption
    | with_reducible refine modFlt_keeps ?_ ?_ ?_
    | with_reducible refine setF_keeps ?_
    | with_reducible refine setB_keeps ?_
    | with_reducible refine promote_keeps ?_
    | with_reducible exact Or.inl rfl
    | with_reducible rfl
    | ((try lift_lets -underBinder); intro x; refine (fun (hx : Keeps r x) => ?_) ?_; clear_value x; on_goal 2 => subst x)
    | ((try lift_lets -underBinder); intro x; subst x)
    | split
    | with_reducible refine Keeps.upd rfl rfl rfl rfl rfl rfl rfl rfl rfl ?_)

theorem sevClear_keeps {r : State} {hi : Bool} {v : Nat} {s : State} (h : Keeps r s) : Keeps r (sevClear hi v s) := by
  unfold sevClear
  repeat' (first
    | with_reducible assumption
    | with_reducible refine forN_keeps (fun _ _ _ => ?_) ?_
    | with_reducible refine sevEnd_keeps ?_
    | with_reducible rfl
    | ((try lift_lets -underBinder); intro x; refine (fun (hx : Keeps r x) => ?_) ?_; clear_value x; on_goal 2 => subst x)
    | ((try lift_lets -underBinder); intro x; subst x)
    | split
    | with_reducible refine Keeps.upd rfl rfl rfl rfl rfl rfl rfl rfl rfl ?_)

theorem errSync_keeps {r : State} {s : State} (h : Keeps r s) : Keeps r (errSync s) := by
  unfold errSync
  repeat' (first
    | with_reducible assumption
    | with_reducible rfl
    | ((try lift_lets -underBinder); intro x; refine (fun (hx : Keeps r x) => ?_) ?_; clear_value x; on_goal 2 => subst x)
    | ((try lift_lets -underBinder); intro x; subst x)
    | split
    | with_reducible refine Keeps.upd rfl rfl rfl rfl rfl rfl rfl rfl rfl ?_)

theorem errToggleOp_keeps {r : State} {s : State} (h : Keeps r s) : Keeps r (errToggleOp s) := by
  unfold errToggleOp
  repeat' (first
    | with_reducible assumption
    | with_reducible rfl
    | ((try lift_lets -underBinder); intro x; refine (fun (hx : Keeps r x) => ?_) ?_; clear_value x; on_goal 2 => subst x)
    | ((try lift_lets -underBinder); intro x; subst x)
    | split
    | with_reducible refine Keeps.upd rfl rfl rfl rfl rfl rfl rfl rfl rfl ?_)

theorem causeNote_keeps {r : State} {cause src : Nat} {s : State} (h : Keeps r s) : Keeps r (causeNote cause src s) := by
  unfold causeNote
  repeat' (first
    | with_reducible assumption
    | with_reducible refine modFlt_keeps ?_ ?_ ?_
    | with_reducible exact Or.inl rfl
    | with_reducible rfl
    | ((try lift_lets -underBinder); intro x; refine (fun (hx : Keeps r x) => ?_) ?_; clear_value x; on_goal 2 => subst x)
    | ((try lift_lets -underBinder); intro x; subst x)
    | split
    | with_reducible refine Keeps.upd rfl rfl rfl rfl rfl rfl rfl rfl rfl ?_)

theorem fawnAgain_keeps {r : State} {cause src : Nat} {s : State} (h : Keeps r s) : Keeps r (fawnAgain cause src s) := by
  unfold fawnAgain
  repeat' (first
    | with_reducible assumption
    | with_reducible refine logPut_keeps ?_
    | with_reducible refine causeNote_keeps ?_
    | with_reducible refine modFlt_keeps ?_ ?_ ?_
    | with_reducible refine setF_keeps ?_
    | with_reducible exact Or.inl rfl
    | with_reducible rfl
    | ((try lift_lets -underBinder); intro x; refine (fun (hx : Keeps r x) => ?_) ?_; clear_value x; on_goal 2 => subst x)
    | ((try lift_lets -underBinder); intro x; subst x)
    | split
    | with_reducible refine Keeps.upd rfl rfl rfl rfl rfl rfl rfl rfl rfl ?_)

theorem fawnEnter_keeps {r : State} {cause src : Nat} {s : State} (h : Keeps r s) : Keeps r (fawnEnter cause src s) := by
  unfold fawnEnter
  repeat' (first
    | with_reducible assumption
    | with_reducible refine fawnAgain_keeps ?_
    | with_reducible refine causeNote_keeps ?_
    | with_reducible refine setF_keeps ?_
    | with_reducible refine logPut_keeps ?_
    | with_reducible refine notify_keeps ?_
    | with_reducible refine modFlt_keeps ?_ ?_ ?_
    | with_reducible refine pkFawn_keeps ?_
    | with_reducible refine withdrawArm_keeps ?_
    | with_reducible refine windowFawn_keeps ?_
    | with_reducible refine chgRow2_keeps ?_
    | with_reducible refine haltEngine_keeps ?_
    | with_reducible refine wdgFawn_keeps ?_
    | with_reducible refine lnkFawn_keeps ?_
    | with_reducible refine dgFollow_keeps ?_
    | with_reducible refine rsvCheck_keeps ?_
    | with_reducible refine lampSync_keeps ?_
    | with_reducible refine errSync_keeps ?_
    | with_reducible refine Keeps.fold (fun _ _ _ => ?_) ?_
    | with_reducible exact Or.inl rfl
    | with_reducible rfl
    | ((try lift_lets -underBinder); intro x; refine (fun (hx : Keeps r x) => ?_) ?_; clear_value x; on_goal 2 => subst x)
    | ((try lift_lets -underBinder); intro x; subst x)
    | split
    | with_reducible refine Keeps.upd rfl rfl rfl rfl rfl rfl rfl rfl rfl ?_)

theorem fenceUnit_keeps {r : State} {u : Nat} {s : State} (h : Keeps r s) : Keeps r (fenceUnit u s) := by
  unfold fenceUnit
  repeat' (first
    | with_reducible assumption
    | with_reducible refine setF_keeps ?_
    | with_reducible refine logPut_keeps ?_
    | with_reducible refine fenceEngine_keeps ?_
    | with_reducible refine pkbFence_keeps ?_
    | with_reducible refine tcpFence_keeps ?_
    | with_reducible refine impFence_keeps ?_
    | with_reducible refine lnkFence_keeps ?_
    | with_reducible refine fencePhase_keeps ?_
    | with_reducible refine fawnEnter_keeps ?_
    | with_reducible rfl
    | ((try lift_lets -underBinder); intro x; refine (fun (hx : Keeps r x) => ?_) ?_; clear_value x; on_goal 2 => subst x)
    | ((try lift_lets -underBinder); intro x; subst x)
    | split
    | with_reducible refine Keeps.upd rfl rfl rfl rfl rfl rfl rfl rfl rfl ?_)

theorem startNext_keeps {r : State} {e : EngId} {s : State} (h : Keeps r s) : Keeps r (startNext e s) := by
  unfold startNext
  repeat' (first
    | with_reducible assumption
    | with_reducible refine modFlt_keeps ?_ ?_ ?_
    | with_reducible exact Or.inl rfl
    | with_reducible rfl
    | ((try lift_lets -underBinder); intro x; refine (fun (hx : Keeps r x) => ?_) ?_; clear_value x; on_goal 2 => subst x)
    | ((try lift_lets -underBinder); intro x; subst x)
    | split
    | with_reducible refine Keeps.upd rfl rfl rfl rfl rfl rfl rfl rfl rfl ?_)

theorem fawnUnfence_keeps {r : State} {u : Nat} {s : State} (h : Keeps r s) : Keeps r (fawnUnfence u s) := by
  unfold fawnUnfence
  repeat' (first
    | with_reducible assumption
    | with_reducible refine setF_keeps ?_
    | with_reducible refine logPut_keeps ?_
    | with_reducible refine engRings_keeps ?_
    | with_reducible refine engMarks_keeps ?_
    | with_reducible refine modEng_keeps ?_
    | with_reducible rfl
    | ((try lift_lets -underBinder); intro x; refine (fun (hx : Keeps r x) => ?_) ?_; clear_value x; on_goal 2 => subst x)
    | ((try lift_lets -underBinder); intro x; subst x)
    | split
    | with_reducible refine Keeps.upd rfl rfl rfl rfl rfl rfl rfl rfl rfl ?_)

theorem releaseEngine_keeps {r : State} {e : EngId} {s : State} (h : Keeps r s) : Keeps r (releaseEngine e s) := by
  unfold releaseEngine
  repeat' (first
    | with_reducible assumption
    | with_reducible refine setF_keeps ?_
    | with_reducible refine startEngine_keeps ?_
    | with_reducible refine resetEngine_keeps ?_
    | with_reducible refine startNext_keeps ?_
    | with_reducible rfl
    | ((try lift_lets -underBinder); intro x; refine (fun (hx : Keeps r x) => ?_) ?_; clear_value x; on_goal 2 => subst x)
    | ((try lift_lets -underBinder); intro x; subst x)
    | split
    | with_reducible refine Keeps.upd rfl rfl rfl rfl rfl rfl rfl rfl rfl ?_)

theorem releaseUnit_keeps {r : State} {u : Nat} {s : State} (h : Keeps r s) : Keeps r (releaseUnit u s) := by
  unfold releaseUnit
  repeat' (first
    | with_reducible assumption
    | with_reducible refine setF_keeps ?_
    | with_reducible refine logPut_keeps ?_
    | with_reducible refine releaseEngine_keeps ?_
    | with_reducible refine pkbUnfence_keeps ?_
    | with_reducible refine tcpUnfence_keeps ?_
    | with_reducible refine lnkUnfence_keeps ?_
    | with_reducible refine releasePhase_keeps ?_
    | with_reducible rfl
    | ((try lift_lets -underBinder); intro x; refine (fun (hx : Keeps r x) => ?_) ?_; clear_value x; on_goal 2 => subst x)
    | ((try lift_lets -underBinder); intro x; subst x)
    | split
    | with_reducible refine Keeps.upd rfl rfl rfl rfl rfl rfl rfl rfl rfl ?_)

theorem releaseNow_keeps {r : State} {u : Nat} {s : State} (h : Keeps r s) : Keeps r (releaseNow u s) := by
  unfold releaseNow
  repeat' (first
    | with_reducible assumption
    | with_reducible refine fenceUnit_keeps ?_
    | with_reducible refine releaseUnit_keeps ?_
    | with_reducible rfl
    | ((try lift_lets -underBinder); intro x; refine (fun (hx : Keeps r x) => ?_) ?_; clear_value x; on_goal 2 => subst x)
    | ((try lift_lets -underBinder); intro x; subst x)
    | split
    | with_reducible refine Keeps.upd rfl rfl rfl rfl rfl rfl rfl rfl rfl ?_)

theorem fenceReleaseOp_keeps {r : State} {who : Option EngId} {v : Nat} {s : State} (h : Keeps r s) : Keeps r
    (fenceReleaseOp who v s) := by
  unfold fenceReleaseOp
  repeat' (first
    | with_reducible assumption
    | with_reducible refine forN_keeps (fun _ _ _ => ?_) ?_
    | with_reducible refine setF_keeps ?_
    | with_reducible refine releaseNow_keeps ?_
    | with_reducible rfl
    | ((try lift_lets -underBinder); intro x; refine (fun (hx : Keeps r x) => ?_) ?_; clear_value x; on_goal 2 => subst x)
    | ((try lift_lets -underBinder); intro x; subst x)
    | split
    | with_reducible refine Keeps.upd rfl rfl rfl rfl rfl rfl rfl rfl rfl ?_)

theorem winCount_keeps {r : State} {n : Nat} {s : State} (h : Keeps r s) : Keeps r (winCount n s).2 := by
  unfold winCount
  repeat' (first
    | with_reducible assumption
    | with_reducible refine modFlt_keeps ?_ ?_ ?_
    | with_reducible exact Or.inl rfl
    | with_reducible rfl
    | ((try lift_lets -underBinder); intro x; refine (fun (hx : Keeps r x) => ?_) ?_; clear_value x; on_goal 2 => subst x)
    | ((try lift_lets -underBinder); intro x; subst x)
    | split
    | with_reducible refine Keeps.upd rfl rfl rfl rfl rfl rfl rfl rfl rfl ?_)

theorem winCount_keeps_eq {r u : State} {q : Nat} {n : Nat} {s : State} (h : Keeps r s) (hq : winCount n s = (q, u)) : Keeps
    r u := by
  have k := winCount_keeps (n := n) h
  rw [hq] at k; exact k

theorem evPut_keeps {r : State} {w : EvWas} {s : State} (h : Keeps r s) : Keeps r (evPut w s) := by
  unfold evPut
  repeat' (first
    | with_reducible assumption
    | with_reducible refine modFlt_keeps ?_ ?_ ?_
    | with_reducible exact Or.inl rfl
    | with_reducible rfl
    | ((try lift_lets -underBinder); intro x; refine (fun (hx : Keeps r x) => ?_) ?_; clear_value x; on_goal 2 => subst x)
    | ((try lift_lets -underBinder); intro x; subst x)
    | split
    | with_reducible refine Keeps.upd rfl rfl rfl rfl rfl rfl rfl rfl rfl ?_)

theorem eventEntry_keeps {r : State} {e : FEv} {react : Nat} {severe promoted : Bool} {s : State} (h : Keeps r s) : Keeps r
    (eventEntry e react severe promoted s) := by
  unfold eventEntry
  repeat' (first
    | with_reducible assumption
    | with_reducible refine incSat_keeps ?_
    | with_reducible refine modFlt_keeps ?_ ?_ ?_
    | with_reducible refine logPut_keeps ?_
    | with_reducible exact Or.inl rfl
    | with_reducible exact Or.inr (List.length_take_le _ _)
    | with_reducible rfl
    | ((try lift_lets -underBinder); intro x; refine (fun (hx : Keeps r x) => ?_) ?_; clear_value x; on_goal 2 => subst x)
    | ((try lift_lets -underBinder); intro x; subst x)
    | split
    | with_reducible refine Keeps.upd rfl rfl rfl rfl rfl rfl rfl rfl rfl ?_)

theorem stopMark_keeps {r : State} {n : Nat} {s : State} (h : Keeps r s) : Keeps r (stopMark n s) := by
  unfold stopMark
  repeat' (first
    | with_reducible assumption
    | with_reducible refine modFlt_keeps ?_ ?_ ?_
    | with_reducible exact Or.inl rfl
    | with_reducible rfl
    | ((try lift_lets -underBinder); intro x; refine (fun (hx : Keeps r x) => ?_) ?_; clear_value x; on_goal 2 => subst x)
    | ((try lift_lets -underBinder); intro x; subst x)
    | split
    | with_reducible refine Keeps.upd rfl rfl rfl rfl rfl rfl rfl rfl rfl ?_)

theorem safeStop_keeps {r : State} {n : Nat} {s : State} (h : Keeps r s) : Keeps r (safeStop n s) := by
  unfold safeStop
  repeat' (first
    | with_reducible assumption
    | with_reducible refine stopMark_keeps ?_
    | with_reducible refine chgRow3_keeps ?_
    | with_reducible rfl
    | ((try lift_lets -underBinder); intro x; refine (fun (hx : Keeps r x) => ?_) ?_; clear_value x; on_goal 2 => subst x)
    | ((try lift_lets -underBinder); intro x; subst x)
    | split
    | with_reducible refine Keeps.upd rfl rfl rfl rfl rfl rfl rfl rfl rfl ?_)

theorem fawnBelow_keeps {r : State} {e : FEv} {s : State} (h : Keeps r s) : Keeps r (fawnBelow e s) := by
  unfold fawnBelow
  repeat' (first
    | with_reducible assumption
    | with_reducible refine fenceUnit_keeps ?_
    | with_reducible refine stopMark_keeps ?_
    | with_reducible rfl
    | ((try lift_lets -underBinder); intro x; refine (fun (hx : Keeps r x) => ?_) ?_; clear_value x; on_goal 2 => subst x)
    | ((try lift_lets -underBinder); intro x; subst x)
    | split
    | with_reducible refine Keeps.upd rfl rfl rfl rfl rfl rfl rfl rfl rfl ?_)

theorem handleEvent_keeps {r s : State} {e : FEv} (h : Keeps r s) : Keeps r (handleEvent e s).1 := by
  unfold handleEvent
  repeat' (first
    | with_reducible assumption
    | with_reducible refine setF_keeps ?_
    | with_reducible refine winCount_keeps ?_
    | with_reducible refine winCount_keeps_eq ?_ (by assumption)
    | with_reducible refine promote_keeps ?_
    | with_reducible refine evPut_keeps ?_
    | with_reducible refine eventEntry_keeps ?_
    | with_reducible refine notify_keeps ?_
    | with_reducible refine fenceUnit_keeps ?_
    | with_reducible refine safeStop_keeps ?_
    | with_reducible refine fawnBelow_keeps ?_
    | with_reducible refine Keeps.fold (fun _ _ _ => ?_) ?_
    | with_reducible refine forN_keeps (fun _ _ _ => ?_) ?_
    | with_reducible rfl
    | ((try lift_lets -underBinder); intro x; refine (fun (hx : Keeps r x) => ?_) ?_; clear_value x; on_goal 2 => subst x)
    | ((try lift_lets -underBinder); intro x; subst x)
    | split
    | with_reducible refine Keeps.upd rfl rfl rfl rfl rfl rfl rfl rfl rfl ?_)

theorem handleEvent_keeps_eq {r u s : State} {q : Bool} {e : FEv} (h : Keeps r s) (k : handleEvent e s = (u, q)) : Keeps r u := by
  have g := handleEvent_keeps (e := e) h
  rw [k] at g; exact g

theorem handleAll_keeps {r : State} {s : State} (h : Keeps r s) : Keeps r (handleAll s) := by
  unfold handleAll
  refine errSync_keeps (Keeps.fold (fun _ _ g => fawnEnter_keeps g) (Keeps.fold1 (fun p x g => ?_) ?_))
  · exact handleEvent_keeps (e := x) g
  · exact Keeps.upd rfl rfl rfl rfl rfl rfl rfl rfl rfl h

theorem handleClocks_keeps {r : State} : ∀ {n : Nat} {s : State}, Keeps r s → Keeps r (handleClocks n s)
  | 0, _, h => h
  | n + 1, s, h => by
    unfold handleClocks
    split
    · exact h
    · exact handleClocks_keeps (n := n) (flushLog_keeps (handleAll_keeps h))

theorem settle_keeps {r : State} {s : State} (h : Keeps r s) : Keeps r (settle s) := by
  unfold settle
  repeat' (first
    | with_reducible assumption
    | with_reducible refine flushLog_keeps ?_
    | with_reducible refine handleClocks_keeps ?_
    | with_reducible rfl
    | ((try lift_lets -underBinder); intro x; refine (fun (hx : Keeps r x) => ?_) ?_; clear_value x; on_goal 2 => subst x)
    | ((try lift_lets -underBinder); intro x; subst x)
    | split
    | with_reducible refine Keeps.upd rfl rfl rfl rfl rfl rfl rfl rfl rfl ?_)

theorem windowCloseOp_keeps {r : State} {n : Nat} {s : State} (h : Keeps r s) : Keeps r (windowCloseOp n s) := by
  unfold windowCloseOp
  repeat' (first
    | with_reducible assumption
    | with_reducible refine modFlt_keeps ?_ ?_ ?_
    | with_reducible exact Or.inl rfl
    | with_reducible rfl
    | ((try lift_lets -underBinder); intro x; refine (fun (hx : Keeps r x) => ?_) ?_; clear_value x; on_goal 2 => subst x)
    | ((try lift_lets -underBinder); intro x; subst x)
    | split
    | with_reducible refine Keeps.upd rfl rfl rfl rfl rfl rfl rfl rfl rfl ?_)

theorem faultCfgOp_keeps {r : State} {n v : Nat} {s : State} (h : Keeps r s) : Keeps r (faultCfgOp n v s) := by
  unfold faultCfgOp
  repeat' (first
    | with_reducible assumption
    | with_reducible refine parWrite_keeps ?_
    | with_reducible refine setF_keeps ?_
    | with_reducible refine errSync_keeps ?_
    | with_reducible rfl
    | ((try lift_lets -underBinder); intro x; refine (fun (hx : Keeps r x) => ?_) ?_; clear_value x; on_goal 2 => subst x)
    | ((try lift_lets -underBinder); intro x; subst x)
    | split
    | with_reducible refine Keeps.upd rfl rfl rfl rfl rfl rfl rfl rfl rfl ?_)

theorem injectOp_keeps {r : State} {v : Nat} {s : State} (h : Keeps r s) : Keeps r (injectOp v s) := by
  unfold injectOp
  repeat' (first
    | with_reducible assumption
    | with_reducible refine setF_keeps ?_
    | with_reducible rfl
    | ((try lift_lets -underBinder); intro x; refine (fun (hx : Keeps r x) => ?_) ?_; clear_value x; on_goal 2 => subst x)
    | ((try lift_lets -underBinder); intro x; subst x)
    | split
    | with_reducible refine Keeps.upd rfl rfl rfl rfl rfl rfl rfl rfl rfl ?_)

theorem fawnOp_keeps {r : State} {s : State} (h : Keeps r s) : Keeps r (fawnOp s) := by
  unfold fawnOp
  repeat' (first
    | with_reducible assumption
    | with_reducible refine fawnEnter_keeps ?_
    | with_reducible rfl
    | ((try lift_lets -underBinder); intro x; refine (fun (hx : Keeps r x) => ?_) ?_; clear_value x; on_goal 2 => subst x)
    | ((try lift_lets -underBinder); intro x; subst x)
    | split
    | with_reducible refine Keeps.upd rfl rfl rfl rfl rfl rfl rfl rfl rfl ?_)

theorem fawnExitReq_keeps {r : State} {s : State} (h : Keeps r s) : Keeps r (fawnExitReq s).2 := by
  unfold fawnExitReq
  repeat' (first
    | with_reducible assumption
    | with_reducible refine setF_keeps ?_
    | with_reducible refine modFlt_keeps ?_ ?_ ?_
    | with_reducible exact Or.inl rfl
    | with_reducible rfl
    | ((try lift_lets -underBinder); intro x; refine (fun (hx : Keeps r x) => ?_) ?_; clear_value x; on_goal 2 => subst x)
    | ((try lift_lets -underBinder); intro x; subst x)
    | split
    | with_reducible refine Keeps.upd rfl rfl rfl rfl rfl rfl rfl rfl rfl ?_)

theorem fawnExitReq_keeps_eq {r u : State} {q : Bool} {s : State} (h : Keeps r s) (hq : fawnExitReq s = (q, u)) : Keeps r u
    := by
  have k := fawnExitReq_keeps  h
  rw [hq] at k; exact k

theorem fawnLeave_keeps {r : State} {s : State} (h : Keeps r s) : Keeps r (fawnLeave s) := by
  unfold fawnLeave
  repeat' (first
    | with_reducible assumption
    | with_reducible refine setF_keeps ?_
    | with_reducible refine logPut_keeps ?_
    | with_reducible refine notify_keeps ?_
    | with_reducible refine modFlt_keeps ?_ ?_ ?_
    | with_reducible refine fawnUnfence_keeps ?_
    | with_reducible refine restagger_keeps ?_
    | with_reducible refine redivide_keeps ?_
    | with_reducible refine lnkUnfence_keeps ?_
    | with_reducible refine lnkClk_keeps ?_
    | with_reducible refine wdgFawnExit_keeps ?_
    | with_reducible refine chgFirst_keeps ?_
    | with_reducible refine lampSync_keeps ?_
    | with_reducible refine Keeps.fold (fun _ _ _ => ?_) ?_
    | with_reducible exact Or.inl rfl
    | with_reducible rfl
    | ((try lift_lets -underBinder); intro x; refine (fun (hx : Keeps r x) => ?_) ?_; clear_value x; on_goal 2 => subst x)
    | ((try lift_lets -underBinder); intro x; subst x)
    | split
    | with_reducible refine Keeps.upd rfl rfl rfl rfl rfl rfl rfl rfl rfl ?_)

theorem fawnExitOp_keeps {r : State} {s : State} (h : Keeps r s) : Keeps r (fawnExitOp s) := by
  unfold fawnExitOp
  repeat' (first
    | with_reducible assumption
    | with_reducible refine startEngine_keeps ?_
    | with_reducible refine fawnLeave_keeps ?_
    | with_reducible refine dgFollow_keeps ?_
    | with_reducible refine rsvCheck_keeps ?_
    | with_reducible refine Keeps.fold (fun _ _ _ => ?_) ?_
    | with_reducible rfl
    | ((try lift_lets -underBinder); intro x; refine (fun (hx : Keeps r x) => ?_) ?_; clear_value x; on_goal 2 => subst x)
    | ((try lift_lets -underBinder); intro x; subst x)
    | split
    | with_reducible refine Keeps.upd rfl rfl rfl rfl rfl rfl rfl rfl rfl ?_)

end Sys2Proof.Machine
end

