-- ==== Sys2Proof/Laws/KeepsUpdateOps.lean ====
section
/-!
SUPPORT. What the operations of Machine/UpdateOps.lean keep: the queue, and the legality of the state.
-/

namespace Sys2Proof.Machine

open Sys2Proof

set_option linter.unusedTactic false
set_option linter.unreachableTactic false
set_option linter.unusedVariables false

theorem swDone_keeps {r : State} {s : State} (h : Keeps r s) : Keeps r (swDone s) := by
  unfold swDone
  repeat' (first
    | with_reducible assumption
    | with_reducible rfl
    | ((try lift_lets -underBinder); intro x; refine (fun (hx : Keeps r x) => ?_) ?_; clear_value x; on_goal 2 => subst x)
    | ((try lift_lets -underBinder); intro x; subst x)
    | split
    | with_reducible refine Keeps.upd rfl rfl rfl rfl rfl rfl rfl rfl rfl ?_)

theorem checkWords0_keeps {r : State} {s : State} (h : Keeps r s) : Keeps r (checkWords0 s) := by
  unfold checkWords0
  repeat' (first
    | with_reducible assumption
    | with_reducible refine ramStoreBytes_keeps ?_
    | with_reducible refine ramStoreBytes_keeps_eq ?_ (by assumption)
    | with_reducible rfl
    | ((try lift_lets -underBinder); intro x; refine (fun (hx : Keeps r x) => ?_) ?_; clear_value x; on_goal 2 => subst x)
    | ((try lift_lets -underBinder); intro x; subst x)
    | split
    | with_reducible refine Keeps.upd rfl rfl rfl rfl rfl rfl rfl rfl rfl ?_)

theorem swapIn_keeps {r : State} {kind : Nat} {s : State} (h : Keeps r s) : Keeps r (swapIn kind s) := by
  unfold swapIn
  repeat' (first
    | with_reducible assumption
    | with_reducible refine restartIn_keeps ?_
    | with_reducible refine setF_keeps ?_
    | with_reducible refine notify_keeps ?_
    | with_reducible refine checkWords0_keeps ?_
    | with_reducible refine modStore_keeps ?_ ?_
    | with_reducible rfl
    | ((try lift_lets -underBinder); intro x; refine (fun (hx : Keeps r x) => ?_) ?_; clear_value x; on_goal 2 => subst x)
    | ((try lift_lets -underBinder); intro x; subst x)
    | split
    | with_reducible refine Keeps.upd rfl rfl rfl rfl rfl rfl rfl rfl rfl ?_)

theorem bankSwapOp_keeps {r : State} {s : State} (h : Keeps r s) : Keeps r (bankSwapOp s) := by
  unfold bankSwapOp
  repeat' (first
    | with_reducible assumption
    | with_reducible refine swDone_keeps ?_
    | with_reducible refine withdrawArm_keeps ?_
    | with_reducible refine swapIn_keeps ?_
    | with_reducible refine logPut_keeps ?_
    | with_reducible refine putMarker_keeps ?_
    | with_reducible rfl
    | ((try lift_lets -underBinder); intro x; refine (fun (hx : Keeps r x) => ?_) ?_; clear_value x; on_goal 2 => subst x)
    | ((try lift_lets -underBinder); intro x; subst x)
    | split
    | with_reducible refine Keeps.upd rfl rfl rfl rfl rfl rfl rfl rfl rfl ?_)

theorem windowMask_keeps {r s : State} (h : Keeps r s) : Keeps r (windowMask s).2 := by
  unfold windowMask
  refine Keeps.fold2 (fun p e hp => ?_) h
  dsimp only
  split
  · exact hp
  · have g := ramRead_keeps (who := none) (a := 0x4000 + 4 * engNo e) (n := 4) hp
    generalize ramRead none (0x4000 + 4 * engNo e) 4 p.2 = q at g ⊢
    obtain ⟨q, s1⟩ := q
    cases q <;> exact g

theorem windowMask_keeps_eq {r u s : State} {q : Nat} (h : Keeps r s) (e : windowMask s = (q, u)) : Keeps r u := by
  have g := windowMask_keeps h
  rw [e] at g; exact g

theorem windowEndOp_keeps {r : State} {s : State} (h : Keeps r s) : Keeps r (windowEndOp s) := by
  unfold windowEndOp
  repeat' (first
    | with_reducible assumption
    | with_reducible refine windowMask_keeps ?_
    | with_reducible refine windowMask_keeps_eq ?_ (by assumption)
    | with_reducible refine swDone_keeps ?_
    | with_reducible refine modStore_keeps ?_ ?_
    | with_reducible refine putMarker_keeps ?_
    | with_reducible refine setF_keeps ?_
    | with_reducible refine notify_keeps ?_
    | with_reducible refine logPut_keeps ?_
    | with_reducible refine windowFailed_keeps ?_
    | with_reducible refine fawnEnter_keeps ?_
    | with_reducible refine restartIn_keeps ?_
    | with_reducible rfl
    | ((try lift_lets -underBinder); intro x; refine (fun (hx : Keeps r x) => ?_) ?_; clear_value x; on_goal 2 => subst x)
    | ((try lift_lets -underBinder); intro x; subst x)
    | split
    | with_reducible refine Keeps.upd rfl rfl rfl rfl rfl rfl rfl rfl rfl ?_)

theorem imageRecoveryOp_keeps {r : State} {s : State} (h : Keeps r s) : Keeps r (imageRecoveryOp s) := by
  unfold imageRecoveryOp
  repeat' (first
    | with_reducible assumption
    | with_reducible refine fawnLeave_keeps ?_
    | with_reducible refine swapIn_keeps ?_
    | with_reducible refine logPut_keeps ?_
    | with_reducible refine putMarker_keeps ?_
    | with_reducible refine dgFollow_keeps ?_
    | with_reducible refine rsvCheck_keeps ?_
    | with_reducible refine swDone_keeps ?_
    | with_reducible rfl
    | ((try lift_lets -underBinder); intro x; refine (fun (hx : Keeps r x) => ?_) ?_; clear_value x; on_goal 2 => subst x)
    | ((try lift_lets -underBinder); intro x; subst x)
    | split
    | with_reducible refine Keeps.upd rfl rfl rfl rfl rfl rfl rfl rfl rfl ?_)

theorem swapFirst_keeps {r : State} {s : State} (h : Keeps r s) : Keeps r (swapFirst s) := by
  unfold swapFirst
  repeat' (first
    | with_reducible assumption
    | with_reducible refine bankSwapOp_keeps ?_
    | with_reducible rfl
    | ((try lift_lets -underBinder); intro x; refine (fun (hx : Keeps r x) => ?_) ?_; clear_value x; on_goal 2 => subst x)
    | ((try lift_lets -underBinder); intro x; subst x)
    | split
    | with_reducible refine Keeps.upd rfl rfl rfl rfl rfl rfl rfl rfl rfl ?_)

theorem commitUndo_keeps {r : State} {s : State} (h : Keeps r s) : Keeps r (commitUndo s) := by
  unfold commitUndo
  repeat' (first
    | with_reducible assumption
    | with_reducible refine setF_keeps ?_
    | with_reducible refine setB_keeps ?_
    | with_reducible refine modStore_keeps ?_ ?_
    | with_reducible refine windowEndOp_keeps ?_
    | with_reducible rfl
    | ((try lift_lets -underBinder); intro x; refine (fun (hx : Keeps r x) => ?_) ?_; clear_value x; on_goal 2 => subst x)
    | ((try lift_lets -underBinder); intro x; subst x)
    | split
    | with_reducible refine Keeps.upd rfl rfl rfl rfl rfl rfl rfl rfl rfl ?_)

theorem wdgRestart_keeps {r : State} {s : State} (h : Keeps r s) : Keeps r (wdgRestart s) := by
  unfold wdgRestart
  repeat' (first
    | with_reducible assumption
    | with_reducible refine wdgFirst_keeps ?_
    | with_reducible refine startNext_keeps ?_
    | with_reducible refine resetAllEngines_keeps ?_
    | with_reducible refine Keeps.fold (fun _ _ _ => ?_) ?_
    | with_reducible rfl
    | ((try lift_lets -underBinder); intro x; refine (fun (hx : Keeps r x) => ?_) ?_; clear_value x; on_goal 2 => subst x)
    | ((try lift_lets -underBinder); intro x; subst x)
    | split
    | with_reducible refine Keeps.upd rfl rfl rfl rfl rfl rfl rfl rfl rfl ?_)

theorem wdgExpire_keeps {r : State} {s : State} (h : Keeps r s) : Keeps r (wdgExpire s) := by
  unfold wdgExpire
  repeat' (first
    | with_reducible assumption
    | with_reducible refine commitUndo_keeps ?_
    | with_reducible refine swapFirst_keeps ?_
    | with_reducible refine raise'_keeps ?_
    | with_reducible refine setF_keeps ?_
    | with_reducible refine incSat_keeps ?_
    | with_reducible refine windowWdg_keeps ?_
    | with_reducible refine fawnEnter_keeps ?_
    | with_reducible refine wdgRestart_keeps ?_
    | with_reducible rfl
    | ((try lift_lets -underBinder); intro x; refine (fun (hx : Keeps r x) => ?_) ?_; clear_value x; on_goal 2 => subst x)
    | ((try lift_lets -underBinder); intro x; subst x)
    | split
    | with_reducible refine Keeps.upd rfl rfl rfl rfl rfl rfl rfl rfl rfl ?_)

theorem wdgBadNote_keeps {r : State} {third : Bool} {s : State} (h : Keeps r s) : Keeps r (wdgBadNote third s) :=
  Keeps.noteMap (fun _ => rfl) h

theorem wdgEnded_keeps {r : State} {c : Nat} {s : State} (h : Keeps r s) : Keeps r (wdgEnded c s) := by
  unfold wdgEnded
  repeat' (first
    | with_reducible assumption
    | with_reducible rfl
    | ((try lift_lets -underBinder); intro x; refine (fun (hx : Keeps r x) => ?_) ?_; clear_value x; on_goal 2 => subst x)
    | ((try lift_lets -underBinder); intro x; subst x)
    | split
    | with_reducible refine Keeps.upd rfl rfl rfl rfl rfl rfl rfl rfl rfl ?_)

theorem wdgBad_keeps {r : State} {c : Nat} {s : State} (h : Keeps r s) : Keeps r (wdgBad c s) := by
  unfold wdgBad
  repeat' (first
    | with_reducible assumption
    | with_reducible refine wdgBadNote_keeps ?_
    | with_reducible refine setF_keeps ?_
    | with_reducible refine raise'_keeps ?_
    | with_reducible refine wdgExpire_keeps ?_
    | with_reducible refine wdgEnded_keeps ?_
    | with_reducible rfl
    | ((try lift_lets -underBinder); intro x; refine (fun (hx : Keeps r x) => ?_) ?_; clear_value x; on_goal 2 => subst x)
    | ((try lift_lets -underBinder); intro x; subst x)
    | split
    | with_reducible refine Keeps.upd rfl rfl rfl rfl rfl rfl rfl rfl rfl ?_)

theorem wdgNote_keeps {r : State} {c : Nat} {f : WdgBack → WdgBack} {s : State} (hf : ∀ b, (f b).was = b.was) (h : Keeps r s) :
    Keeps r (wdgNote c f s) := Keeps.noteMap (fun b => by split <;> simp [hf]) h

theorem wdgNoteSvc_keeps {r : State} {c : Nat} {v : Word} {s : State} (h : Keeps r s) : Keeps r (wdgNoteSvc c v s) :=
  wdgNote_keeps (fun _ => rfl) h

theorem wdgNoteChk_keeps {r : State} {c k : Nat} {who : Option EngId} {s : State} (h : Keeps r s) : Keeps r (wdgNoteChk c who k s) :=
  wdgNote_keeps (fun _ => rfl) h

theorem wdgOpen_keeps {r : State} {c : Nat} {s : State} (h : Keeps r s) : Keeps r (wdgOpen c s) := by
  unfold wdgOpen
  split
  · exact h
  · refine Keeps.note (fun x b hb => ?_) h
    obtain rfl := Option.some.inj hb
    exact x.toLegalBlock

theorem fldBack_keeps {r : State} {f : Fld} {o s : State} (h : Keeps r s) : Keeps r (fldBack f o s) := by
  unfold fldBack
  repeat' (first
    | with_reducible assumption
    | with_reducible refine setF_keeps ?_
    | with_reducible rfl
    | ((try lift_lets -underBinder); intro x; refine (fun (hx : Keeps r x) => ?_) ?_; clear_value x; on_goal 2 => subst x)
    | ((try lift_lets -underBinder); intro x; subst x)
    | split
    | with_reducible refine Keeps.upd rfl rfl rfl rfl rfl rfl rfl rfl rfl ?_)

/-- Entries are only left out. -/
theorem dropFirst_length {α : Type} {p : α → Bool} : ∀ {n : Nat} {l : List α}, (dropFirst p n l).length ≤ l.length
  | 0, l => by simp [dropFirst]
  | _ + 1, [] => by simp [dropFirst]
  | n + 1, x :: l => by
    unfold dropFirst
    split
    · exact (dropFirst_length (n := n) (l := l)).trans (Nat.le_succ _)
    · exact Nat.succ_le_succ (dropFirst_length (n := n + 1) (l := l))

theorem logBack_keeps {r : State} {n : Nat} {s : State} (h : Keeps r s) : Keeps r (logBack n s) := by
  unfold logBack
  exact modFlt_shorter dropFirst_length le_rfl (setF_keeps (setF_keeps (wr_keeps h)))

theorem wdgEvBack_keeps {r : State} {b : WdgBack} {s : State} (h : Keeps r s) : Keeps r (wdgEvBack b s) := by
  unfold wdgEvBack
  split
  · exact h
  · refine Keeps.upd rfl rfl rfl rfl rfl rfl rfl rfl rfl (modFlt_shorter le_rfl dropFirst_length (logBack_keeps ?_))
    exact setF_keeps (setB_keeps (setB_keeps (setB_keeps (setB_keeps (when'_keeps (fun _ g => setF_keeps (setB_keeps g)) h)))))

theorem wdgUndo_keeps {r : State} {b : WdgBack} {s : State} (h : Keeps r s) : Keeps r (wdgUndo b s) := by
  unfold wdgUndo
  repeat' (first
    | with_reducible assumption
    | with_reducible refine fldBack_keeps ?_
    | with_reducible refine wdgEvBack_keeps ?_
    | with_reducible rfl
    | ((try lift_lets -underBinder); intro x; refine (fun (hx : Keeps r x) => ?_) ?_; clear_value x; on_goal 2 => subst x)
    | ((try lift_lets -underBinder); intro x; subst x)
    | split
    | with_reducible refine Keeps.upd rfl rfl rfl rfl rfl rfl rfl rfl rfl ?_)

theorem wdgTakeBack_keeps {r : State} {b : WdgBack} {s : State} (hb : s.wback = some b) (h : Keeps r s) :
    Keeps r (wdgTakeBack b s) := by
  unfold wdgTakeBack
  split
  · exact ⟨h.pending, fun x => by
      obtain ⟨k1, k2, _, _, k5, k6, k7⟩ := (h.legal x).back b hb
      exact ⟨⟨k1, k2, (h.legal x).index, (h.legal x).tick, k5, k6, k7⟩, by simp⟩, h.frm, h.fidx, h.fuses⟩
  · exact Keeps.note (by simp) (wdgUndo_keeps h)

theorem wdgServed_keeps {r : State} {s : State} (h : Keeps r s) : Keeps r (wdgServed s) :=
  wdgValid_keeps (Keeps.noteMap (fun _ => rfl) h)

theorem wdgServiceOp_keeps {r : State} {c : Nat} {v : Word} {s : State} (h : Keeps r s) : Keeps r (wdgServiceOp c v s) := by
  unfold wdgServiceOp
  repeat' (first
    | with_reducible assumption
    | with_reducible refine wdgNoteSvc_keeps ?_
    | with_reducible refine wdgOpen_keeps ?_
    | with_reducible refine wdgBad_keeps ?_
    | with_reducible refine setF_keeps ?_
    | with_reducible refine wdgServed_keeps ?_
    | with_reducible rfl
    | ((try lift_lets -underBinder); intro x; refine (fun (hx : Keeps r x) => ?_) ?_; clear_value x; on_goal 2 => subst x)
    | ((try lift_lets -underBinder); intro x; subst x)
    | split
    | with_reducible refine Keeps.upd rfl rfl rfl rfl rfl rfl rfl rfl rfl ?_)

theorem wdgCheck_keeps {r : State} {c : Nat} {who : Option EngId} {k : Nat} {s : State} (h : Keeps r s) : Keeps r (wdgCheck
    c who k s) := by
  unfold wdgCheck
  repeat' (first
    | with_reducible assumption
    | with_reducible refine wdgNoteChk_keeps ?_
    | with_reducible refine setF_keeps ?_
    | with_reducible refine wdgBad_keeps ?_
    | with_reducible refine wdgOpen_keeps ?_
    | with_reducible rfl
    | ((try lift_lets -underBinder); intro x; refine (fun (hx : Keeps r x) => ?_) ?_; clear_value x; on_goal 2 => subst x)
    | ((try lift_lets -underBinder); intro x; subst x)
    | split
    | with_reducible refine Keeps.upd rfl rfl rfl rfl rfl rfl rfl rfl rfl ?_)

theorem wdgChecks_keeps {r : State} {c : Nat} {l : List (Option EngId × Nat)} {s : State} (h : Keeps r s) : Keeps r
    (wdgChecks c l s) := by
  unfold wdgChecks
  repeat' (first
    | with_reducible assumption
    | with_reducible refine wdgCheck_keeps ?_
    | with_reducible refine Keeps.fold (fun _ _ _ => ?_) ?_
    | with_reducible rfl
    | ((try lift_lets -underBinder); intro x; refine (fun (hx : Keeps r x) => ?_) ?_; clear_value x; on_goal 2 => subst x)
    | ((try lift_lets -underBinder); intro x; subst x)
    | split
    | with_reducible refine Keeps.upd rfl rfl rfl rfl rfl rfl rfl rfl rfl ?_)

theorem wdgCheckinOp_keeps {r : State} {c k : Nat} {who : Option EngId} {s : State} (h : Keeps r s) :
    Keeps r (wdgCheckinOp c who k s) := by
  unfold wdgCheckinOp
  split
  · next b hb =>
    exact Keeps.fold (fun _ _ g => wdgServiceOp_keeps g) (wdgChecks_keeps (wdgTakeBack_keeps (Option.filter_eq_some_iff.1 hb).1 h))
  · exact wdgCheck_keeps h

theorem wdgAtEnd_keeps {r : State} {s : State} (h : Keeps r s) : Keeps r (wdgAtEnd s) := by
  unfold wdgAtEnd
  split
  · next b hb =>
    exact wdgChecks_keeps (wdgEnded_keeps (wdgTakeBack_keeps (Option.filter_eq_some_iff.1 hb).1 h))
  · exact wdgEnded_keeps h

theorem wdgExpiryOp_keeps {r : State} {s : State} (h : Keeps r s) : Keeps r (wdgExpiryOp s) := by
  unfold wdgExpiryOp
  repeat' (first
    | with_reducible assumption
    | with_reducible refine wdgAtEnd_keeps ?_
    | with_reducible refine wdgExpire_keeps ?_
    | with_reducible rfl
    | ((try lift_lets -underBinder); intro x; refine (fun (hx : Keeps r x) => ?_) ?_; clear_value x; on_goal 2 => subst x)
    | ((try lift_lets -underBinder); intro x; subst x)
    | split
    | with_reducible refine Keeps.upd rfl rfl rfl rfl rfl rfl rfl rfl rfl ?_)

end Sys2Proof.Machine
end

