-- ==== Sys2Proof/Laws/KeepsSupplyOps.lean ====
section
/-!
SUPPORT. What the operations of Machine/SupplyOps.lean keep: the queue, and the legality of the state.
-/

namespace Sys2Proof.Machine

open Sys2Proof

set_option linter.unusedTactic false
set_option linter.unreachableTactic false
set_option linter.unusedVariables false

theorem fuseRegs_keeps {r : State} {s : State} (h : Keeps r s) : Keeps r (fuseRegs s) := by
  unfold fuseRegs
  repeat' (first
    | with_reducible assumption
    | with_reducible refine forN_keeps (fun _ _ _ => ?_) ?_
    | with_reducible refine setF_keeps ?_
    | with_reducible rfl
    | ((try lift_lets -underBinder); intro x; refine (fun (hx : Keeps r x) => ?_) ?_; clear_value x; on_goal 2 => subst x)
    | ((try lift_lets -underBinder); intro x; subst x)
    | split
    | with_reducible refine Keeps.upd rfl rfl rfl rfl rfl rfl rfl rfl rfl ?_)

theorem fuseLoad_keeps {r : State} {s : State} (h : Keeps r s) : Keeps r (fuseLoad s) := by
  unfold fuseLoad
  repeat' (first
    | with_reducible assumption
    | with_reducible refine fuseRegs_keeps ?_
    | with_reducible refine modSup_keeps ?_ ?_
    | with_reducible refine wr_keeps ?_
    | with_reducible refine lwr_keeps ?_
    | with_reducible rfl
    | ((try lift_lets -underBinder); intro x; refine (fun (hx : Keeps r x) => ?_) ?_; clear_value x; on_goal 2 => subst x)
    | ((try lift_lets -underBinder); intro x; subst x)
    | split
    | with_reducible refine Keeps.upd rfl rfl rfl rfl rfl rfl rfl rfl rfl ?_)

theorem haddrRead_keeps {r : State} {mv : Nat} {s : State} (h : Keeps r s) : Keeps r (haddrRead mv s) := by
  unfold haddrRead
  repeat' (first
    | with_reducible assumption
    | with_reducible refine modSup_keeps ?_ ?_
    | with_reducible rfl
    | ((try lift_lets -underBinder); intro x; refine (fun (hx : Keeps r x) => ?_) ?_; clear_value x; on_goal 2 => subst x)
    | ((try lift_lets -underBinder); intro x; subst x)
    | split
    | with_reducible refine Keeps.upd rfl rfl rfl rfl rfl rfl rfl rfl rfl ?_)

theorem vccReset_keepsL {r s : State} {p : Power} (h : KeepsL r s) : KeepsL r (vccReset p s) := by
  unfold vccReset
  dsimp only
  refine h.trans (KeepsL.trans (b := _) ?_ (Keeps.weak (setF_keeps (Keeps.fold (fun t a g => wr_keeps g) Keeps.refl))))
  exact ⟨rfl, fun x => ⟨⟨rfl, x.store, show (0 : Nat) < 50 by decide, show (0 : Nat) < 2000 by decide, Nat.zero_le _, Nat.zero_le _,
    List.nodup_nil⟩, fun _ hb => nomatch hb⟩⟩

theorem setFeeds_keeps {r : State} {f : AoFeeds} {s : State} (h : Keeps r s) : Keeps r (setFeeds f s) := by
  unfold setFeeds
  repeat' (first
    | with_reducible assumption
    | with_reducible refine modSup_keeps ?_ ?_
    | with_reducible rfl
    | ((try lift_lets -underBinder); intro x; refine (fun (hx : Keeps r x) => ?_) ?_; clear_value x; on_goal 2 => subst x)
    | ((try lift_lets -underBinder); intro x; subst x)
    | split
    | with_reducible refine Keeps.upd rfl rfl rfl rfl rfl rfl rfl rfl rfl ?_)

theorem aoPick_keeps {r : State} {s : State} (h : Keeps r s) : Keeps r (aoPick s) := by
  unfold aoPick
  repeat' (first
    | with_reducible assumption
    | with_reducible refine setF_keeps ?_
    | with_reducible rfl
    | ((try lift_lets -underBinder); intro x; refine (fun (hx : Keeps r x) => ?_) ?_; clear_value x; on_goal 2 => subst x)
    | ((try lift_lets -underBinder); intro x; subst x)
    | split
    | with_reducible refine Keeps.upd rfl rfl rfl rfl rfl rfl rfl rfl rfl ?_)

theorem aoStart_keeps {r : State} {haddr : Nat} {s : State} (h : Keeps r s) : Keeps r (aoStart haddr s) := by
  unfold aoStart
  repeat' (first
    | with_reducible assumption
    | with_reducible refine wr_keeps ?_
    | with_reducible refine modSup_keeps ?_ ?_
    | with_reducible refine setF_keeps ?_
    | with_reducible refine haddrRead_keeps ?_
    | with_reducible refine Keeps.fold (fun _ _ _ => ?_) ?_
    | with_reducible rfl
    | ((try lift_lets -underBinder); intro x; refine (fun (hx : Keeps r x) => ?_) ?_; clear_value x; on_goal 2 => subst x)
    | ((try lift_lets -underBinder); intro x; subst x)
    | split
    | with_reducible refine Keeps.upd rfl rfl rfl rfl rfl rfl rfl rfl rfl ?_)

theorem aoPowerOnOp_keeps {r : State} {f : AoFeeds} {haddr : Nat} {s : State} (h : Keeps r s) : Keeps r (aoPowerOnOp f haddr
    s) := by
  unfold aoPowerOnOp
  repeat' (first
    | with_reducible assumption
    | with_reducible refine aoPick_keeps ?_
    | with_reducible refine setFeeds_keeps ?_
    | with_reducible refine aoStart_keeps ?_
    | with_reducible rfl
    | ((try lift_lets -underBinder); intro x; refine (fun (hx : Keeps r x) => ?_) ?_; clear_value x; on_goal 2 => subst x)
    | ((try lift_lets -underBinder); intro x; subst x)
    | split
    | with_reducible refine Keeps.upd rfl rfl rfl rfl rfl rfl rfl rfl rfl ?_)

theorem storeCut_keeps {r : State} {s : State} (h : Keeps r s) : Keeps r (storeCut s) := by
  unfold storeCut
  repeat' (first
    | with_reducible assumption
    | with_reducible refine markerCut_keeps ?_
    | with_reducible refine psCut_keeps ?_
    | with_reducible rfl
    | ((try lift_lets -underBinder); intro x; refine (fun (hx : Keeps r x) => ?_) ?_; clear_value x; on_goal 2 => subst x)
    | ((try lift_lets -underBinder); intro x; subst x)
    | split
    | with_reducible refine Keeps.upd rfl rfl rfl rfl rfl rfl rfl rfl rfl ?_)

theorem aoLossOp_keepsL {r s : State} (h : KeepsL r s) : KeepsL r (aoLossOp s) := by
  unfold aoLossOp
  refine (vccReset_keepsL (p := .unpowered) (h.trans (Keeps.weak (storeCut_keeps Keeps.refl)))).trans (Keeps.weak ?_)
  exact modSup_keeps rfl (setF_keeps (Keeps.fold (fun t a g => wr_keeps g) Keeps.refl))

theorem vccPath_keeps {r : State} {vh vp : Nat} {s : State} (h : Keeps r s) : Keeps r (vccPath vh vp s) := by
  unfold vccPath
  repeat' (first
    | with_reducible assumption
    | with_reducible refine setF_keeps ?_
    | with_reducible refine modSup_keeps ?_ ?_
    | with_reducible rfl
    | ((try lift_lets -underBinder); intro x; refine (fun (hx : Keeps r x) => ?_) ?_; clear_value x; on_goal 2 => subst x)
    | ((try lift_lets -underBinder); intro x; subst x)
    | split
    | with_reducible refine Keeps.upd rfl rfl rfl rfl rfl rfl rfl rfl rfl ?_)

theorem vccPathOp_keeps {r : State} {vh vp : Nat} {s : State} (h : Keeps r s) : Keeps r (vccPathOp vh vp s) := by
  unfold vccPathOp
  repeat' (first
    | with_reducible assumption
    | with_reducible refine aoPick_keeps ?_
    | with_reducible refine modSup_keeps ?_ ?_
    | with_reducible refine vccPath_keeps ?_
    | with_reducible rfl
    | ((try lift_lets -underBinder); intro x; refine (fun (hx : Keeps r x) => ?_) ?_; clear_value x; on_goal 2 => subst x)
    | ((try lift_lets -underBinder); intro x; subst x)
    | split
    | with_reducible refine Keeps.upd rfl rfl rfl rfl rfl rfl rfl rfl rfl ?_)

theorem vdrvSense_keeps {r : State} {mv : Nat} {first : Bool} {s : State} (h : Keeps r s) : Keeps r (vdrvSense mv first s) := by
  unfold vdrvSense
  repeat' (first
    | with_reducible assumption
    | with_reducible refine setF_keeps ?_
    | with_reducible refine liftStop_keeps ?_
    | with_reducible refine stopFor_keeps ?_
    | with_reducible refine raise'_keeps ?_
    | with_reducible rfl
    | ((try lift_lets -underBinder); intro x; refine (fun (hx : Keeps r x) => ?_) ?_; clear_value x; on_goal 2 => subst x)
    | ((try lift_lets -underBinder); intro x; subst x)
    | split
    | with_reducible refine Keeps.upd rfl rfl rfl rfl rfl rfl rfl rfl rfl ?_)

theorem vdrvResenseOp_keeps {r : State} {mv : Nat} {s : State} (h : Keeps r s) : Keeps r (vdrvResenseOp mv s) := by
  unfold vdrvResenseOp
  repeat' (first
    | with_reducible assumption
    | with_reducible refine vdrvSense_keeps ?_
    | with_reducible rfl
    | ((try lift_lets -underBinder); intro x; refine (fun (hx : Keeps r x) => ?_) ?_; clear_value x; on_goal 2 => subst x)
    | ((try lift_lets -underBinder); intro x; subst x)
    | split
    | with_reducible refine Keeps.upd rfl rfl rfl rfl rfl rfl rfl rfl rfl ?_)

theorem vdrvOutOp_keeps {r : State} {s : State} (h : Keeps r s) : Keeps r (vdrvOutOp s) := by
  unfold vdrvOutOp
  repeat' (first
    | with_reducible assumption
    | with_reducible refine setF_keeps ?_
    | with_reducible refine raise'_keeps ?_
    | with_reducible refine stopFor_keeps ?_
    | with_reducible rfl
    | ((try lift_lets -underBinder); intro x; refine (fun (hx : Keeps r x) => ?_) ?_; clear_value x; on_goal 2 => subst x)
    | ((try lift_lets -underBinder); intro x; subst x)
    | split
    | with_reducible refine Keeps.upd rfl rfl rfl rfl rfl rfl rfl rfl rfl ?_)

theorem vdrvBackOp_keeps {r : State} {s : State} (h : Keeps r s) : Keeps r (vdrvBackOp s) := by
  unfold vdrvBackOp
  repeat' (first
    | with_reducible assumption
    | with_reducible refine setF_keeps ?_
    | with_reducible refine liftStop_keeps ?_
    | with_reducible rfl
    | ((try lift_lets -underBinder); intro x; refine (fun (hx : Keeps r x) => ?_) ?_; clear_value x; on_goal 2 => subst x)
    | ((try lift_lets -underBinder); intro x; subst x)
    | split
    | with_reducible refine Keeps.upd rfl rfl rfl rfl rfl rfl rfl rfl rfl ?_)

theorem markerActive_keeps {r : State} {b : Bool} {m : Marker} {s : State} (h : Keeps r s) : Keeps r (markerActive b m s) := by
  unfold markerActive
  repeat' (first
    | with_reducible assumption
    | with_reducible refine modStore_keeps ?_ ?_
    | with_reducible refine putMarker_keeps ?_
    | with_reducible rfl
    | ((try lift_lets -underBinder); intro x; refine (fun (hx : Keeps r x) => ?_) ?_; clear_value x; on_goal 2 => subst x)
    | ((try lift_lets -underBinder); intro x; subst x)
    | split
    | with_reducible refine Keeps.upd rfl rfl rfl rfl rfl rfl rfl rfl rfl ?_)

theorem bankSelect_keeps {r : State} {s : State} (h : Keeps r s) : Keeps r (bankSelect s) := by
  unfold bankSelect
  repeat' (first
    | with_reducible assumption
    | with_reducible refine markerRead_keeps ?_
    | with_reducible refine markerRead_keeps_eq ?_ (by assumption)
    | with_reducible refine raise'_keeps ?_
    | with_reducible refine modStore_keeps ?_ ?_
    | with_reducible refine modSup_keeps ?_ ?_
    | with_reducible refine imageCheck_keeps ?_
    | with_reducible refine imageCheck_keeps_eq ?_ (by assumption)
    | with_reducible refine setF_keeps ?_
    | with_reducible refine setB_keeps ?_
    | with_reducible refine wr_keeps ?_
    | with_reducible refine markerActive_keeps ?_
    | with_reducible refine fawnEnter_keeps ?_
    | with_reducible rfl
    | ((try lift_lets -underBinder); intro x; refine (fun (hx : Keeps r x) => ?_) ?_; clear_value x; on_goal 2 => subst x)
    | ((try lift_lets -underBinder); intro x; subst x)
    | split
    | with_reducible refine Keeps.upd rfl rfl rfl rfl rfl rfl rfl rfl rfl ?_)

theorem vccPowerOnOp_keepsL {r s : State} {o : PowerObs} (h : KeepsL r s) : KeepsL r (vccPowerOnOp o s) := by
  unfold vccPowerOnOp
  split
  · exact h
  · dsimp only
    have h1 : KeepsL r (if (s.sup.power == .unpowered) = true then aoStart o.haddr s else s) := by
      split <;> [exact h.trans (Keeps.weak (aoStart_keeps Keeps.refl)); exact h]
    have h2 := vccReset_keepsL (p := .starting) h1
    generalize vccReset .starting (if (s.sup.power == .unpowered) = true then aoStart o.haddr s else s) = s2 at h2 ⊢
    refine h2.trans (Keeps.weak (bankSelect_keeps (tcpPowerOn_keeps (modSup_keeps rfl
      (haddrRead_keeps (fuseLoad_keeps (vdrvSense_keeps ?_)))))))
    refine Keeps.upd rfl rfl rfl rfl rfl rfl rfl rfl rfl ?_
    exact setB_keeps (aoPick_keeps (setF_keeps (vccPath_keeps (setF_keeps (setFeeds_keeps Keeps.refl)))))

theorem bootTickOp_keeps {r s : State} {o : FrameObs} (h : Keeps r s) : Keeps r (bootTickOp o s) := by
  unfold bootTickOp
  split
  · exact chgStops_keeps (dgFollow_keeps (hubTick_keeps (Keeps.updSft rfl (fun _ => by show (0 : Nat) < 2000; decide) rfl h)))
  · exact h

theorem vccLossOp_keepsL {r s : State} {o : LossObs} (h : KeepsL r s) : KeepsL r (vccLossOp o s) := by
  unfold vccLossOp
  split
  · exact h
  · split
    · exact (vccReset_keepsL (h.trans (Keeps.weak (storeCut_keeps Keeps.refl)))).trans (Keeps.weak (aoPick_keeps (setFeeds_keeps Keeps.refl)))
    · exact aoLossOp_keepsL h

theorem gatesOpen_keeps {r : State} {s : State} (h : Keeps r s) : Keeps r (gatesOpen s) := by
  unfold gatesOpen
  repeat' (first
    | with_reducible assumption
    | with_reducible refine dgOpen_keeps ?_
    | with_reducible refine toUnfed_keeps ?_
    | with_reducible refine setF_keeps ?_
    | with_reducible refine forN_keeps (fun _ _ _ => ?_) ?_
    | with_reducible refine portTo_keeps ?_
    | with_reducible refine portRelease_keeps ?_
    | with_reducible rfl
    | ((try lift_lets -underBinder); intro x; refine (fun (hx : Keeps r x) => ?_) ?_; clear_value x; on_goal 2 => subst x)
    | ((try lift_lets -underBinder); intro x; subst x)
    | split
    | with_reducible refine Keeps.upd rfl rfl rfl rfl rfl rfl rfl rfl rfl ?_)

theorem shipPins_keeps {r : State} {s : State} (h : Keeps r s) : Keeps r (shipPins s) := by
  unfold shipPins
  repeat' (first
    | with_reducible assumption
    | with_reducible rfl
    | ((try lift_lets -underBinder); intro x; refine (fun (hx : Keeps r x) => ?_) ?_; clear_value x; on_goal 2 => subst x)
    | ((try lift_lets -underBinder); intro x; subst x)
    | split
    | with_reducible refine Keeps.upd rfl rfl rfl rfl rfl rfl rfl rfl rfl ?_)

theorem shipEnter_keeps {r : State} {f : AoFeeds} {s : State} (h : Keeps r s) : Keeps r (shipEnter f s) := by
  unfold shipEnter
  repeat' (first
    | with_reducible assumption
    | with_reducible refine logPut_keeps ?_
    | with_reducible refine storeCut_keeps ?_
    | with_reducible refine putJob_keeps ?_
    | with_reducible refine impIdle_keeps ?_
    | with_reducible refine modSup_keeps ?_ ?_
    | with_reducible refine stopFor_keeps ?_
    | with_reducible refine gatesOpen_keeps ?_
    | with_reducible refine lnkAlone_keeps ?_
    | with_reducible refine shipPins_keeps ?_
    | with_reducible refine setF_keeps ?_
    | with_reducible refine setFeeds_keeps ?_
    | with_reducible refine aoPick_keeps ?_
    | with_reducible rfl
    | ((try lift_lets -underBinder); intro x; refine (fun (hx : Keeps r x) => ?_) ?_; clear_value x; on_goal 2 => subst x)
    | ((try lift_lets -underBinder); intro x; subst x)
    | split
    | with_reducible refine Keeps.upd rfl rfl rfl rfl rfl rfl rfl rfl rfl ?_)

theorem shipAsk_keeps {r : State} {presence : Bool} {s : State} (h : Keeps r s) : Keeps r (shipAsk presence s).2 := by
  unfold shipAsk
  repeat' (first
    | with_reducible assumption
    | with_reducible refine setF_keeps ?_
    | with_reducible rfl
    | ((try lift_lets -underBinder); intro x; refine (fun (hx : Keeps r x) => ?_) ?_; clear_value x; on_goal 2 => subst x)
    | ((try lift_lets -underBinder); intro x; subst x)
    | split
    | with_reducible refine Keeps.upd rfl rfl rfl rfl rfl rfl rfl rfl rfl ?_)

theorem shipAsk_keeps_eq {r u : State} {q : Nat} {presence : Bool} {s : State} (h : Keeps r s) (hq : shipAsk presence s =
    (q, u)) : Keeps r u := by
  have k := shipAsk_keeps (presence := presence) h
  rw [hq] at k; exact k

theorem shipRequestOp_keeps {r : State} {presence : Bool} {f : AoFeeds} {s : State} (h : Keeps r s) : Keeps r (shipRequestOp
    presence f s) := by
  unfold shipRequestOp
  repeat' (first
    | with_reducible assumption
    | with_reducible refine shipAsk_keeps ?_
    | with_reducible refine shipAsk_keeps_eq ?_ (by assumption)
    | with_reducible refine shipEnter_keeps ?_
    | with_reducible rfl
    | ((try lift_lets -underBinder); intro x; refine (fun (hx : Keeps r x) => ?_) ?_; clear_value x; on_goal 2 => subst x)
    | ((try lift_lets -underBinder); intro x; subst x)
    | split
    | with_reducible refine Keeps.upd rfl rfl rfl rfl rfl rfl rfl rfl rfl ?_)

theorem shipOp_keeps {r : State} {presence : Bool} {f : AoFeeds} {s : State} (h : Keeps r s) : Keeps r (shipOp presence f s)
    := by
  unfold shipOp
  repeat' (first
    | with_reducible assumption
    | with_reducible refine shipAsk_keeps ?_
    | with_reducible refine shipAsk_keeps_eq ?_ (by assumption)
    | with_reducible refine complete_keeps ?_
    | with_reducible refine shipEnter_keeps ?_
    | with_reducible rfl
    | ((try lift_lets -underBinder); intro x; refine (fun (hx : Keeps r x) => ?_) ?_; clear_value x; on_goal 2 => subst x)
    | ((try lift_lets -underBinder); intro x; subst x)
    | split
    | with_reducible refine Keeps.upd rfl rfl rfl rfl rfl rfl rfl rfl rfl ?_)

theorem shipExit_keeps {r : State} {cause : Fld} {vcc : Nat} {s : State} (h : Keeps r s) : Keeps r (shipExit cause vcc s) := by
  unfold shipExit
  repeat' (first
    | with_reducible assumption
    | with_reducible refine modSup_keeps ?_ ?_
    | with_reducible refine setF_keeps ?_
    | with_reducible rfl
    | ((try lift_lets -underBinder); intro x; refine (fun (hx : Keeps r x) => ?_) ?_; clear_value x; on_goal 2 => subst x)
    | ((try lift_lets -underBinder); intro x; subst x)
    | split
    | with_reducible refine Keeps.upd rfl rfl rfl rfl rfl rfl rfl rfl rfl ?_)

theorem shipExitSourceOp_keeps {r : State} {vcc : Nat} {s : State} (h : Keeps r s) : Keeps r (shipExitSourceOp vcc s) := by
  unfold shipExitSourceOp
  repeat' (first
    | with_reducible assumption
    | with_reducible refine shipExit_keeps ?_
    | with_reducible rfl
    | ((try lift_lets -underBinder); intro x; refine (fun (hx : Keeps r x) => ?_) ?_; clear_value x; on_goal 2 => subst x)
    | ((try lift_lets -underBinder); intro x; subst x)
    | split
    | with_reducible refine Keeps.upd rfl rfl rfl rfl rfl rfl rfl rfl rfl ?_)

theorem wakeAccept_keeps {r : State} {ms : Nat} {s : State} (h : Keeps r s) : Keeps r (wakeAccept ms s).2 := by
  unfold wakeAccept
  repeat' (first
    | with_reducible assumption
    | with_reducible refine modSup_keeps ?_ ?_
    | with_reducible refine incSat_keeps ?_
    | with_reducible rfl
    | ((try lift_lets -underBinder); intro x; refine (fun (hx : Keeps r x) => ?_) ?_; clear_value x; on_goal 2 => subst x)
    | ((try lift_lets -underBinder); intro x; subst x)
    | split
    | with_reducible refine Keeps.upd rfl rfl rfl rfl rfl rfl rfl rfl rfl ?_)

theorem wakeAccept_keeps_eq {r u : State} {q : Bool} {ms : Nat} {s : State} (h : Keeps r s) (hq : wakeAccept ms s = (q, u))
    : Keeps r u := by
  have k := wakeAccept_keeps (ms := ms) h
  rw [hq] at k; exact k

theorem wakePressOp_keeps {r : State} {ms : Nat} {s : State} (h : Keeps r s) : Keeps r (wakePressOp ms s) := by
  unfold wakePressOp
  repeat' (first
    | with_reducible assumption
    | with_reducible refine wakeAccept_keeps ?_
    | with_reducible refine wakeAccept_keeps_eq ?_ (by assumption)
    | with_reducible refine incWrap_keeps ?_
    | with_reducible rfl
    | ((try lift_lets -underBinder); intro x; refine (fun (hx : Keeps r x) => ?_) ?_; clear_value x; on_goal 2 => subst x)
    | ((try lift_lets -underBinder); intro x; subst x)
    | split
    | with_reducible refine Keeps.upd rfl rfl rfl rfl rfl rfl rfl rfl rfl ?_)

theorem shipExitWakeOp_keeps {r : State} {ms vcc : Nat} {s : State} (h : Keeps r s) : Keeps r (shipExitWakeOp ms vcc s) := by
  unfold shipExitWakeOp
  repeat' (first
    | with_reducible assumption
    | with_reducible refine wakeAccept_keeps ?_
    | with_reducible refine wakeAccept_keeps_eq ?_ (by assumption)
    | with_reducible refine shipExit_keeps ?_
    | with_reducible rfl
    | ((try lift_lets -underBinder); intro x; refine (fun (hx : Keeps r x) => ?_) ?_; clear_value x; on_goal 2 => subst x)
    | ((try lift_lets -underBinder); intro x; subst x)
    | split
    | with_reducible refine Keeps.upd rfl rfl rfl rfl rfl rfl rfl rfl rfl ?_)

theorem wakeEndOp_keeps {r : State} {s : State} (h : Keeps r s) : Keeps r (wakeEndOp s) := by
  unfold wakeEndOp
  repeat' (first
    | with_reducible assumption
    | with_reducible refine setF_keeps ?_
    | with_reducible refine modSup_keeps ?_ ?_
    | with_reducible rfl
    | ((try lift_lets -underBinder); intro x; refine (fun (hx : Keeps r x) => ?_) ?_; clear_value x; on_goal 2 => subst x)
    | ((try lift_lets -underBinder); intro x; subst x)
    | split
    | with_reducible refine Keeps.upd rfl rfl rfl rfl rfl rfl rfl rfl rfl ?_)

theorem wakeStuckOp_keeps {r : State} {s : State} (h : Keeps r s) : Keeps r (wakeStuckOp s) := by
  unfold wakeStuckOp
  repeat' (first
    | with_reducible assumption
    | with_reducible refine setF_keeps ?_
    | with_reducible refine raise'_keeps ?_
    | with_reducible rfl
    | ((try lift_lets -underBinder); intro x; refine (fun (hx : Keeps r x) => ?_) ?_; clear_value x; on_goal 2 => subst x)
    | ((try lift_lets -underBinder); intro x; subst x)
    | split
    | with_reducible refine Keeps.upd rfl rfl rfl rfl rfl rfl rfl rfl rfl ?_)

end Sys2Proof.Machine
end

