-- ==== Sys2Proof/Laws/KeepsFrameOps.lean ====
section
/-!
SUPPORT. What the operations of Machine/FrameOps.lean keep: the queue, and the legality of the state.
-/

namespace Sys2Proof.Machine

open Sys2Proof

set_option linter.unusedTactic false
set_option linter.unreachableTactic false
set_option linter.unusedVariables false

theorem clpNote_keeps {r : State} {a : Nat} {s : State} (h : Keeps r s) : Keeps r (clpNote a s) := by
  unfold clpNote
  repeat' (first
    | with_reducible assumption
    | with_reducible refine setF_keeps ?_
    | with_reducible rfl
    | ((try lift_lets -underBinder); intro x; refine (fun (hx : Keeps r x) => ?_) ?_; clear_value x; on_goal 2 => subst x)
    | ((try lift_lets -underBinder); intro x; subst x)
    | split
    | with_reducible refine Keeps.upd rfl rfl rfl rfl rfl rfl rfl rfl rfl ?_)

theorem goLive_keeps {r : State} {a : Nat} {s : State} (h : Keeps r s) : Keeps r (goLive a s) := by
  unfold goLive
  repeat' (first
    | with_reducible assumption
    | with_reducible refine modFlt_keeps ?_ ?_ ?_
    | with_reducible refine lwr_keeps ?_
    | with_reducible refine clpNote_keeps ?_
    | with_reducible exact Or.inl rfl
    | with_reducible rfl
    | ((try lift_lets -underBinder); intro x; refine (fun (hx : Keeps r x) => ?_) ?_; clear_value x; on_goal 2 => subst x)
    | ((try lift_lets -underBinder); intro x; subst x)
    | split
    | with_reducible refine Keeps.upd rfl rfl rfl rfl rfl rfl rfl rfl rfl ?_)

theorem copyLive_keeps {r : State} {s : State} (h : Keeps r s) : Keeps r (copyLive s) := by
  unfold copyLive
  repeat' (first
    | with_reducible assumption
    | with_reducible refine goLive_keeps ?_
    | with_reducible refine Keeps.fold (fun _ _ _ => ?_) ?_
    | with_reducible rfl
    | ((try lift_lets -underBinder); intro x; refine (fun (hx : Keeps r x) => ?_) ?_; clear_value x; on_goal 2 => subst x)
    | ((try lift_lets -underBinder); intro x; subst x)
    | split
    | with_reducible refine Keeps.upd rfl rfl rfl rfl rfl rfl rfl rfl rfl ?_)

theorem rwRepair_keeps {r : State} {a : Nat} {s : State} (h : Keeps r s) : Keeps r (rwRepair a s) := by
  unfold rwRepair
  repeat' (first
    | with_reducible assumption
    | with_reducible refine linkEnableOp_keeps ?_
    | with_reducible refine wr_keeps ?_
    | with_reducible refine wdgStart_keeps ?_
    | with_reducible rfl
    | ((try lift_lets -underBinder); intro x; refine (fun (hx : Keeps r x) => ?_) ?_; clear_value x; on_goal 2 => subst x)
    | ((try lift_lets -underBinder); intro x; subst x)
    | split
    | with_reducible refine Keeps.upd rfl rfl rfl rfl rfl rfl rfl rfl rfl ?_)

theorem parRepair_keeps {r : State} {p : Nat × Bool} {s : State} (h : Keeps r s) : Keeps r (parRepair p s) := by
  unfold parRepair
  repeat' (first
    | with_reducible assumption
    | with_reducible refine lwr_keeps ?_
    | with_reducible refine goLive_keeps ?_
    | with_reducible refine fuseRegs_keeps ?_
    | with_reducible refine wr_keeps ?_
    | with_reducible refine rwRepair_keeps ?_
    | with_reducible rfl
    | ((try lift_lets -underBinder); intro x; refine (fun (hx : Keeps r x) => ?_) ?_; clear_value x; on_goal 2 => subst x)
    | ((try lift_lets -underBinder); intro x; subst x)
    | split
    | with_reducible refine Keeps.upd rfl rfl rfl rfl rfl rfl rfl rfl rfl ?_)

theorem parTick_keeps {r : State} {s : State} (h : Keeps r s) : Keeps r (parTick s) := by
  unfold parTick
  repeat' (first
    | with_reducible assumption
    | with_reducible refine raise'_keeps ?_
    | with_reducible refine parRepair_keeps ?_
    | with_reducible refine modFlt_keeps ?_ ?_ ?_
    | with_reducible refine Keeps.fold (fun _ _ _ => ?_) ?_
    | with_reducible exact Or.inl rfl
    | with_reducible rfl
    | ((try lift_lets -underBinder); intro x; refine (fun (hx : Keeps r x) => ?_) ?_; clear_value x; on_goal 2 => subst x)
    | ((try lift_lets -underBinder); intro x; subst x)
    | split
    | with_reducible refine Keeps.upd rfl rfl rfl rfl rfl rfl rfl rfl rfl ?_)

theorem overrun_keeps {r : State} {e : EngId} {s : State} (h : Keeps r s) : Keeps r (overrun e s) := by
  unfold overrun
  repeat' (first
    | with_reducible assumption
    | with_reducible refine modEng_keeps ?_
    | with_reducible refine raise'_keeps ?_
    | with_reducible rfl
    | ((try lift_lets -underBinder); intro x; refine (fun (hx : Keeps r x) => ?_) ?_; clear_value x; on_goal 2 => subst x)
    | ((try lift_lets -underBinder); intro x; subst x)
    | split
    | with_reducible refine Keeps.upd rfl rfl rfl rfl rfl rfl rfl rfl rfl ?_)

theorem idleCount_keeps {r : State} {s : State} (h : Keeps r s) : Keeps r (idleCount s) := by
  unfold idleCount
  repeat' (first
    | with_reducible assumption
    | with_reducible refine setF_keeps ?_
    | with_reducible refine incSat_keeps ?_
    | with_reducible rfl
    | ((try lift_lets -underBinder); intro x; refine (fun (hx : Keeps r x) => ?_) ?_; clear_value x; on_goal 2 => subst x)
    | ((try lift_lets -underBinder); intro x; subst x)
    | split
    | with_reducible refine Keeps.upd rfl rfl rfl rfl rfl rfl rfl rfl rfl ?_)

theorem clockTick_keepsL {r s : State} (h : Keeps r s) : KeepsL r (clockTick s) := by
  have z : s.clk.sft < 2000 → 0 < 2000 := fun _ => by decide
  unfold clockTick
  dsimp only
  split
  · have m : ∀ n, s.clk.fidx < 50 → (n + 1) % 50 < 50 := fun n _ => Nat.mod_lt _ (by decide)
    refine KeepsL.trans (b := _) ?_ (Keeps.weak (logPut_keeps Keeps.refl))
    split
    · exact ⟨h.pending, fun x => ⟨⟨(h.legal x).ram, (h.legal x).store, m _ (h.legal x).index, z (h.legal x).tick,
        (h.legal x).log, (h.legal x).hist, (h.legal x).tags⟩, (h.legal x).back⟩⟩
    · refine KeepsL.trans (b := _) ?_ (Keeps.weak (setF_keeps Keeps.refl))
      exact ⟨h.pending, fun x => ⟨⟨(h.legal x).ram, (h.legal x).store, m _ (h.legal x).index, z (h.legal x).tick,
        (h.legal x).log, (h.legal x).hist, (h.legal x).tags⟩, (h.legal x).back⟩⟩
  · exact Keeps.updClk (p := s.sup) (fun _ => Nat.mod_lt _ (by decide)) z h

theorem boundaryTick_keeps {r : State} {jumped : Bool} {s : State} (h : Keeps r s) : Keeps r (boundaryTick jumped s) := by
  unfold boundaryTick
  repeat' (first
    | with_reducible assumption
    | with_reducible refine modFlt_keeps ?_ ?_ ?_
    | with_reducible exact Or.inl rfl
    | with_reducible rfl
    | ((try lift_lets -underBinder); intro x; refine (fun (hx : Keeps r x) => ?_) ?_; clear_value x; on_goal 2 => subst x)
    | ((try lift_lets -underBinder); intro x; subst x)
    | split
    | with_reducible refine Keeps.upd rfl rfl rfl rfl rfl rfl rfl rfl rfl ?_)

theorem firstFrame_keepsL {r s : State} (h : Keeps r s) : KeepsL r (firstFrame s) := by
  unfold firstFrame
  extract_lets c0 p0 s0 s1
  have h0 : KeepsL r s0 :=
    Keeps.updClk (fun _ => by show (0 : Nat) < 50; decide) (fun _ => by show (0 : Nat) < 2000; decide) h
  clear_value s0
  refine h0.trans (Keeps.weak ?_)
  clear h0 h c0 p0
  have h1 : Keeps s0 s1 := Keeps.fold (fun _ _ g => raise'_keeps g) Keeps.refl
  clear_value s1
  split
  extract_lets s2 six s3 s4 s5 s6
  have h2 : Keeps s0 s2 := Keeps.ite (putMarker_keeps h1) h1
  clear_value s2
  have h3 : Keeps s0 s3 := modSup_keeps rfl h2
  clear_value s3
  have h4 : Keeps s0 s4 := logPut_keeps h3
  clear_value s4
  have h5 : Keeps s0 s5 := Keeps.ite (wdgHardStart_keeps (setF_keeps h4)) h4
  clear_value s5
  have h6 : Keeps s0 s6 := chgFirst_keeps h5
  clear_value s6
  exact Keeps.ite h6 (Keeps.fold (fun _ _ g => startEngine_keeps g) h6)

theorem driveLevel_keeps {r : State} {s : State} (h : Keeps r s) : Keeps r (driveLevel s) := by
  unfold driveLevel
  repeat' (first
    | with_reducible assumption
    | with_reducible refine setF_keeps ?_
    | with_reducible rfl
    | ((try lift_lets -underBinder); intro x; refine (fun (hx : Keeps r x) => ?_) ?_; clear_value x; on_goal 2 => subst x)
    | ((try lift_lets -underBinder); intro x; subst x)
    | split
    | with_reducible refine Keeps.upd rfl rfl rfl rfl rfl rfl rfl rfl rfl ?_)

theorem hsqFirst_keeps {r : State} {sets : List Nat} {s : State} (h : Keeps r s) : Keeps r (hsqFirst sets s) := by
  unfold hsqFirst
  repeat' (first
    | with_reducible assumption
    | with_reducible refine modSup_keeps ?_ ?_
    | with_reducible refine setF_keeps ?_
    | with_reducible refine chgEnter_keeps ?_
    | with_reducible rfl
    | ((try lift_lets -underBinder); intro x; refine (fun (hx : Keeps r x) => ?_) ?_; clear_value x; on_goal 2 => subst x)
    | ((try lift_lets -underBinder); intro x; subst x)
    | split
    | with_reducible refine Keeps.upd rfl rfl rfl rfl rfl rfl rfl rfl rfl ?_)

theorem fswLive_keeps {r : State} {sets : List Nat} {s : State} (h : Keeps r s) : Keeps r (fswLive sets s) := by
  unfold fswLive
  repeat' (first
    | with_reducible assumption
    | with_reducible rfl
    | ((try lift_lets -underBinder); intro x; refine (fun (hx : Keeps r x) => ?_) ?_; clear_value x; on_goal 2 => subst x)
    | ((try lift_lets -underBinder); intro x; subst x)
    | split
    | with_reducible refine Keeps.upd rfl rfl rfl rfl rfl rfl rfl rfl rfl ?_)

theorem enLive_keeps {r : State} {sets : List Nat} {s : State} (h : Keeps r s) : Keeps r (enLive sets s) := by
  unfold enLive
  repeat' (first
    | with_reducible assumption
    | with_reducible refine softRestart_keeps ?_
    | with_reducible rfl
    | ((try lift_lets -underBinder); intro x; refine (fun (hx : Keeps r x) => ?_) ?_; clear_value x; on_goal 2 => subst x)
    | ((try lift_lets -underBinder); intro x; subst x)
    | split
    | with_reducible refine Keeps.upd rfl rfl rfl rfl rfl rfl rfl rfl rfl ?_)

theorem frameRegs_keeps {r : State} {o : FrameObs} {s : State} (h : Keeps r s) : Keeps r (frameRegs o s) := by
  unfold frameRegs
  repeat' (first
    | with_reducible assumption
    | with_reducible refine setF_keeps ?_
    | with_reducible refine imbTick_keeps ?_
    | with_reducible refine forN_keeps (fun _ _ _ => ?_) ?_
    | with_reducible rfl
    | ((try lift_lets -underBinder); intro x; refine (fun (hx : Keeps r x) => ?_) ?_; clear_value x; on_goal 2 => subst x)
    | ((try lift_lets -underBinder); intro x; subst x)
    | split
    | with_reducible refine Keeps.upd rfl rfl rfl rfl rfl rfl rfl rfl rfl ?_)

theorem grazeOpen_keeps {r : State} {s : State} (h : Keeps r s) : Keeps r (grazeOpen s) := by
  unfold grazeOpen
  repeat' (first
    | with_reducible assumption
    | with_reducible refine grazeTick_keeps ?_
    | with_reducible rfl
    | ((try lift_lets -underBinder); intro x; refine (fun (hx : Keeps r x) => ?_) ?_; clear_value x; on_goal 2 => subst x)
    | ((try lift_lets -underBinder); intro x; subst x)
    | split
    | with_reducible refine Keeps.upd rfl rfl rfl rfl rfl rfl rfl rfl rfl ?_)

theorem frameTickOp_keepsL {r s : State} {o : FrameObs} (h : Keeps r s) : KeepsL r (frameTickOp o s) := by
  unfold frameTickOp
  split
  · exact h.weak
  · lift_lets -underBinder
    intro first old ended str fixed s1 sets s2 s3 s4 s5 req s6 s7
    have h1 : Keeps r s1 := modFlt_keeps (Or.inl rfl) (Or.inl rfl) (parTick_keeps (chgSums_keeps (shedTick_keeps h)))
    clear_value s1
    have h2 : Keeps r s2 := keepCount_keeps (fswLive_keeps (copyLive_keeps h1))
    clear_value s2
    have h3 : Keeps r s3 :=
      Keeps.ite h2 (Keeps.fold (fun _ _ g => modEng_keeps g) (Keeps.fold (fun _ _ g => overrun_keeps g) (idleCount_keeps h2)))
    clear_value s3
    have h4 : KeepsL r s4 := by
      show KeepsL r (if first then firstFrame s3 else clockTick s3)
      split <;> [exact firstFrame_keepsL h3; exact clockTick_keepsL h3]
    clear_value s4
    refine h4.trans (Keeps.weak ?_)
    have h5 : Keeps s4 s5 := boundaryTick_keeps Keeps.refl
    clear_value s5
    have h6 : Keeps s4 s6 := frameRegs_keeps (adcTick_keeps (enLive_keeps (hsqFirst_keeps h5)))
    clear_value s6
    have h7 : Keeps s4 s7 := hubTick_keeps (lnkTick_keeps h6)
    clear_value s7
    exact driveLevel_keeps (tmrTick_keeps (applyGofs_keeps (grazeOpen_keeps (thermTick_keeps (chgFrame_keeps
      (impTick_keeps (chgTick_keeps h7)))))))

theorem engineReleaseOp_keeps {r s : State} (h : Keeps r s) : Keeps r (engineReleaseOp s) := by
  unfold engineReleaseOp
  split
  · exact h
  · dsimp only
    refine Keeps.fold (fun t e g => ?_) (Keeps.updSft rfl (fun x => max_lt (by decide) x) rfl h)
    repeat' (first
      | with_reducible assumption
      | with_reducible refine modEng_keeps ?_
      | split)

theorem superframeOp_keeps {r : State} {s : State} (h : Keeps r s) : Keeps r (superframeOp s) := by
  unfold superframeOp
  repeat' (first
    | with_reducible assumption
    | with_reducible refine chgSuper_keeps ?_
    | with_reducible refine grazeSuper_keeps ?_
    | with_reducible refine applyFsw_keeps ?_
    | with_reducible rfl
    | ((try lift_lets -underBinder); intro x; refine (fun (hx : Keeps r x) => ?_) ?_; clear_value x; on_goal 2 => subst x)
    | ((try lift_lets -underBinder); intro x; subst x)
    | split
    | with_reducible refine Keeps.upd rfl rfl rfl rfl rfl rfl rfl rfl rfl ?_)

theorem idleFawnOp_keeps {r : State} {s : State} (h : Keeps r s) : Keeps r (idleFawnOp s) := by
  unfold idleFawnOp
  repeat' (first
    | with_reducible assumption
    | with_reducible refine fawnEnter_keeps ?_
    | with_reducible rfl
    | ((try lift_lets -underBinder); intro x; refine (fun (hx : Keeps r x) => ?_) ?_; clear_value x; on_goal 2 => subst x)
    | ((try lift_lets -underBinder); intro x; subst x)
    | split
    | with_reducible refine Keeps.upd rfl rfl rfl rfl rfl rfl rfl rfl rfl ?_)

theorem idleTick_keeps {r s : State} (h : Keeps r s) : Keeps r (idleTick s) := by
  unfold idleTick
  split
  · exact Keeps.updSft rfl (fun _ => lt_of_le_of_lt (min_le_left _ _) (by decide)) rfl h
  · exact h

theorem hfoFailedOp_keeps {r : State} {s0 : State} (h : Keeps r s0) : Keeps r (hfoFailedOp s0) := by
  unfold hfoFailedOp
  repeat' (first
    | with_reducible assumption
    | with_reducible refine redivide_keeps ?_
    | with_reducible refine setF_keeps ?_
    | with_reducible refine lnkAlone_keeps ?_
    | with_reducible refine lnkClk_keeps ?_
    | with_reducible refine restagger_keeps ?_
    | with_reducible refine fawnEnter_keeps ?_
    | with_reducible rfl
    | ((try lift_lets -underBinder); intro x; refine (fun (hx : Keeps r x) => ?_) ?_; clear_value x; on_goal 2 => subst x)
    | ((try lift_lets -underBinder); intro x; subst x)
    | split
    | with_reducible refine Keeps.upd rfl rfl rfl rfl rfl rfl rfl rfl rfl ?_)

theorem clockMonitorOp_keeps {r : State} {count : Nat} {s : State} (h : Keeps r s) : Keeps r (clockMonitorOp count s) := by
  unfold clockMonitorOp
  repeat' (first
    | with_reducible assumption
    | with_reducible refine raise'_keeps ?_
    | with_reducible refine hfoFailedOp_keeps ?_
    | with_reducible rfl
    | ((try lift_lets -underBinder); intro x; refine (fun (hx : Keeps r x) => ?_) ?_; clear_value x; on_goal 2 => subst x)
    | ((try lift_lets -underBinder); intro x; subst x)
    | split
    | with_reducible refine Keeps.upd rfl rfl rfl rfl rfl rfl rfl rfl rfl ?_)

theorem xiOp_keeps {r : State} {present : Bool} {s : State} (h : Keeps r s) : Keeps r (xiOp present s) := by
  unfold xiOp
  repeat' (first
    | with_reducible assumption
    | with_reducible refine claimCheck_keeps ?_
    | with_reducible refine setB_keeps ?_
    | with_reducible rfl
    | ((try lift_lets -underBinder); intro x; refine (fun (hx : Keeps r x) => ?_) ?_; clear_value x; on_goal 2 => subst x)
    | ((try lift_lets -underBinder); intro x; subst x)
    | split
    | with_reducible refine Keeps.upd rfl rfl rfl rfl rfl rfl rfl rfl rfl ?_)

theorem haltEntered_keeps {r : State} {e : EngId} {s : State} (h : Keeps r s) : Keeps r (haltEntered e s) := by
  unfold haltEntered
  repeat' (first
    | with_reducible assumption
    | with_reducible refine windowFail_keeps ?_
    | with_reducible refine modEng_keeps ?_
    | with_reducible rfl
    | ((try lift_lets -underBinder); intro x; refine (fun (hx : Keeps r x) => ?_) ?_; clear_value x; on_goal 2 => subst x)
    | ((try lift_lets -underBinder); intro x; subst x)
    | split
    | with_reducible refine Keeps.upd rfl rfl rfl rfl rfl rfl rfl rfl rfl ?_)

theorem engineHaltOp_keeps {r : State} {e : EngId} {s : State} (h : Keeps r s) : Keeps r (engineHaltOp e s) := by
  unfold engineHaltOp
  repeat' (first
    | with_reducible assumption
    | with_reducible refine modEng_keeps ?_
    | with_reducible refine haltEntered_keeps ?_
    | with_reducible refine haltEngine_keeps ?_
    | with_reducible rfl
    | ((try lift_lets -underBinder); intro x; refine (fun (hx : Keeps r x) => ?_) ?_; clear_value x; on_goal 2 => subst x)
    | ((try lift_lets -underBinder); intro x; subst x)
    | split
    | with_reducible refine Keeps.upd rfl rfl rfl rfl rfl rfl rfl rfl rfl ?_)

theorem engineResetOp_keeps {r : State} {e : EngId} {s : State} (h : Keeps r s) : Keeps r (engineResetOp e s) := by
  unfold engineResetOp
  repeat' (first
    | with_reducible assumption
    | with_reducible refine setF_keeps ?_
    | with_reducible refine resetEngine_keeps ?_
    | with_reducible refine startNext_keeps ?_
    | with_reducible rfl
    | ((try lift_lets -underBinder); intro x; refine (fun (hx : Keeps r x) => ?_) ?_; clear_value x; on_goal 2 => subst x)
    | ((try lift_lets -underBinder); intro x; subst x)
    | split
    | with_reducible refine Keeps.upd rfl rfl rfl rfl rfl rfl rfl rfl rfl ?_)

end Sys2Proof.Machine
end

