-- ==== Sys2Proof/Laws/KeepsChgCmds.lean ====
section
/-!
SUPPORT. What the operations of Machine/ChgCmds.lean keep: the queue, and the legality of the state.
-/

namespace Sys2Proof.Machine

open Sys2Proof

set_option linter.unusedTactic false
set_option linter.unreachableTactic false
set_option linter.unusedVariables false

theorem hwRow_keeps {r0 : State} {r cause : Nat} {s : State} (h : Keeps r0 s) : Keeps r0 (hwRow r cause s) := by
  unfold hwRow
  repeat' (first
    | with_reducible assumption
    | with_reducible refine queueRow_keeps ?_
    | with_reducible rfl
    | ((try lift_lets -underBinder); intro x; refine (fun (hx : Keeps r0 x) => ?_) ?_; clear_value x; on_goal 2 => subst x)
    | ((try lift_lets -underBinder); intro x; subst x)
    | split
    | with_reducible refine Keeps.upd rfl rfl rfl rfl rfl rfl rfl rfl rfl ?_)

theorem identifyEnd_keeps {r : State} {s : State} (h : Keeps r s) : Keeps r (identifyEnd s) := by
  unfold identifyEnd
  repeat' (first
    | with_reducible assumption
    | with_reducible refine hwRow_keeps ?_
    | with_reducible rfl
    | ((try lift_lets -underBinder); intro x; refine (fun (hx : Keeps r x) => ?_) ?_; clear_value x; on_goal 2 => subst x)
    | ((try lift_lets -underBinder); intro x; subst x)
    | split
    | with_reducible refine Keeps.upd rfl rfl rfl rfl rfl rfl rfl rfl rfl ?_)

theorem recoverEnd_keeps {r : State} {s : State} (h : Keeps r s) : Keeps r (recoverEnd s) := by
  unfold recoverEnd
  repeat' (first
    | with_reducible assumption
    | with_reducible refine hwRow_keeps ?_
    | with_reducible rfl
    | ((try lift_lets -underBinder); intro x; refine (fun (hx : Keeps r x) => ?_) ?_; clear_value x; on_goal 2 => subst x)
    | ((try lift_lets -underBinder); intro x; subst x)
    | split
    | with_reducible refine Keeps.upd rfl rfl rfl rfl rfl rfl rfl rfl rfl ?_)

theorem taperEnd_keeps {r : State} {s : State} (h : Keeps r s) : Keeps r (taperEnd s) := by
  unfold taperEnd
  repeat' (first
    | with_reducible assumption
    | with_reducible refine hwRow_keeps ?_
    | with_reducible rfl
    | ((try lift_lets -underBinder); intro x; refine (fun (hx : Keeps r x) => ?_) ?_; clear_value x; on_goal 2 => subst x)
    | ((try lift_lets -underBinder); intro x; subst x)
    | split
    | with_reducible refine Keeps.upd rfl rfl rfl rfl rfl rfl rfl rfl rfl ?_)

end Sys2Proof.Machine
end

