-- ==== Sys2Proof/Laws/KeepsRegOps.lean ====
section
/-!
SUPPORT. What the operations of Machine/RegOps.lean keep: the queue, and the legality of the state.
-/

namespace Sys2Proof.Machine

open Sys2Proof

set_option linter.unusedTactic false
set_option linter.unreachableTactic false
set_option linter.unusedVariables false

theorem parCheck_keeps {r : State} {w : Nat} {bs : List Nat} {s : State} (h : Keeps r s) : Keeps r (parCheck w bs s) := by
  unfold parCheck
  repeat' (first
    | with_reducible assumption
    | with_reducible refine injDone_keeps ?_
    | with_reducible refine raise'_keeps ?_
    | with_reducible refine modFlt_keeps ?_ ?_ ?_
    | with_reducible exact Or.inl rfl
    | with_reducible rfl
    | ((try lift_lets -underBinder); intro x; refine (fun (hx : Keeps r x) => ?_) ?_; clear_value x; on_goal 2 => subst x)
    | ((try lift_lets -underBinder); intro x; subst x)
    | split
    | with_reducible refine Keeps.upd rfl rfl rfl rfl rfl rfl rfl rfl rfl ?_)

theorem readWord_keeps {r : State} {who : Option EngId} {w : Nat} {s : State} (h : Keeps r s) : Keeps r (readWord who w
    s).2.2 := by
  unfold readWord
  repeat' (first
    | with_reducible assumption
    | with_reducible refine ramCheck_keeps ?_
    | with_reducible refine ramCheck_keeps_eq ?_ (by assumption)
    | with_reducible refine psReadLine_keeps ?_
    | with_reducible refine psReadLine_keeps_eq ?_ (by assumption)
    | with_reducible rfl
    | ((try lift_lets -underBinder); intro x; refine (fun (hx : Keeps r x) => ?_) ?_; clear_value x; on_goal 2 => subst x)
    | ((try lift_lets -underBinder); intro x; subst x)
    | split
    | with_reducible refine Keeps.upd rfl rfl rfl rfl rfl rfl rfl rfl rfl ?_)

theorem readWord_keeps_eq {r u : State} {q : Bool} {q2 : Nat} {who : Option EngId} {w : Nat} {s : State} (h : Keeps r s) (hq
    : readWord who w s = (q, q2, u)) : Keeps r u := by
  have k := readWord_keeps (who := who) (w := w) h
  rw [hq] at k; exact k

theorem hostRead_keeps {r : State} : ∀ {l : List Nat} {seen : List (Nat × Nat)} {lines : List (Nat × Bool)} {s : State},
    Keeps r s → Keeps r (hostRead l seen lines s).2
  | [], _, _, _, h => h
  | a :: t, seen, lines, s, h => by
    unfold hostRead
    dsimp only
    split
    · exact hostRead_keeps (l := t) h
    · split
      · exact hostRead_keeps (l := t) h
      · refine Keeps.ite_snd ?_ ?_
        · exact hostRead_keeps (l := t) (psReadLine_keeps h)
        · exact hostRead_keeps (l := t) (readWord_keeps (parCheck_keeps h))

theorem hostRead_keeps_eq {r u s : State} {q : List Byte} {l : List Nat} {seen : List (Nat × Nat)} {lines : List (Nat × Bool)}
    (h : Keeps r s) (e : hostRead l seen lines s = (q, u)) : Keeps r u := by
  have g := hostRead_keeps (l := l) (seen := seen) (lines := lines) h
  rw [e] at g; exact g

theorem plainWrite_keeps {r0 : State} {r : RegRow} {a v : Nat} {s : State} (h : Keeps r0 s) : Keeps r0 (plainWrite r a v s) := by
  unfold plainWrite
  repeat' (first
    | with_reducible assumption
    | with_reducible refine parWrite_keeps ?_
    | with_reducible refine wr_keeps ?_
    | with_reducible rfl
    | ((try lift_lets -underBinder); intro x; refine (fun (hx : Keeps r0 x) => ?_) ?_; clear_value x; on_goal 2 => subst x)
    | ((try lift_lets -underBinder); intro x; subst x)
    | split
    | with_reducible refine Keeps.upd rfl rfl rfl rfl rfl rfl rfl rfl rfl ?_)

theorem clampedWrite_keeps {r0 : State} {r : RegRow} {a v : Nat} {s : State} (h : Keeps r0 s) : Keeps r0 (clampedWrite r a v s)
    := by
  unfold clampedWrite
  repeat' (first
    | with_reducible assumption
    | with_reducible refine plainWrite_keeps ?_
    | with_reducible refine wr_keeps ?_
    | with_reducible rfl
    | ((try lift_lets -underBinder); intro x; refine (fun (hx : Keeps r0 x) => ?_) ?_; clear_value x; on_goal 2 => subst x)
    | ((try lift_lets -underBinder); intro x; subst x)
    | split
    | with_reducible refine Keeps.upd rfl rfl rfl rfl rfl rfl rfl rfl rfl ?_)

theorem phstatWrite_keeps {r0 : State} {r : RegRow} {v : Nat} {s : State} (h : Keeps r0 s) : Keeps r0 (phstatWrite r v s) := by
  unfold phstatWrite
  repeat' (first
    | with_reducible assumption
    | with_reducible refine forN_keeps (fun _ _ _ => ?_) ?_
    | with_reducible refine modPhase_keeps ?_
    | with_reducible refine plainWrite_keeps ?_
    | with_reducible rfl
    | ((try lift_lets -underBinder); intro x; refine (fun (hx : Keeps r0 x) => ?_) ?_; clear_value x; on_goal 2 => subst x)
    | ((try lift_lets -underBinder); intro x; subst x)
    | split
    | with_reducible refine Keeps.upd rfl rfl rfl rfl rfl rfl rfl rfl rfl ?_)

theorem clkstatWrite_keeps {r0 : State} {r : RegRow} {v : Nat} {s : State} (h : Keeps r0 s) : Keeps r0 (clkstatWrite r v s) := by
  unfold clkstatWrite
  repeat' (first
    | with_reducible assumption
    | with_reducible refine plainWrite_keeps ?_
    | with_reducible rfl
    | ((try lift_lets -underBinder); intro x; refine (fun (hx : Keeps r0 x) => ?_) ?_; clear_value x; on_goal 2 => subst x)
    | ((try lift_lets -underBinder); intro x; subst x)
    | split
    | with_reducible refine Keeps.upd rfl rfl rfl rfl rfl rfl rfl rfl rfl ?_)

theorem seqctlWrite_keeps {r : State} {e v : Nat} {s : State} (h : Keeps r s) : Keeps r (seqctlWrite e v s) := by
  unfold seqctlWrite
  repeat' (first
    | with_reducible assumption
    | with_reducible refine setF_keeps ?_
    | with_reducible refine seqDisableOp_keeps ?_
    | with_reducible refine seqFlushOp_keeps ?_
    | with_reducible refine seqStart_keeps ?_
    | with_reducible rfl
    | ((try lift_lets -underBinder); intro x; refine (fun (hx : Keeps r x) => ?_) ?_; clear_value x; on_goal 2 => subst x)
    | ((try lift_lets -underBinder); intro x; subst x)
    | split
    | with_reducible refine Keeps.upd rfl rfl rfl rfl rfl rfl rfl rfl rfl ?_)

theorem capstatWrite_keeps {r0 : State} {r : RegRow} {n v : Nat} {s : State} (h : Keeps r0 s) : Keeps r0 (capstatWrite r n v s)
    := by
  unfold capstatWrite
  repeat' (first
    | with_reducible assumption
    | with_reducible refine plainWrite_keeps ?_
    | with_reducible refine setF_keeps ?_
    | with_reducible rfl
    | ((try lift_lets -underBinder); intro x; refine (fun (hx : Keeps r0 x) => ?_) ?_; clear_value x; on_goal 2 => subst x)
    | ((try lift_lets -underBinder); intro x; subst x)
    | split
    | with_reducible refine Keeps.upd rfl rfl rfl rfl rfl rfl rfl rfl rfl ?_)

theorem clearWrite_keeps {r : State} {a v : Nat} {s : State} (h : Keeps r s) : Keeps r (clearWrite a v s) := by
  unfold clearWrite
  repeat' (first
    | with_reducible assumption
    | with_reducible refine wr_keeps ?_
    | with_reducible rfl
    | ((try lift_lets -underBinder); intro x; refine (fun (hx : Keeps r x) => ?_) ?_; clear_value x; on_goal 2 => subst x)
    | ((try lift_lets -underBinder); intro x; subst x)
    | split
    | with_reducible refine Keeps.upd rfl rfl rfl rfl rfl rfl rfl rfl rfl ?_)

theorem npendWrite_keeps {r0 : State} {r : RegRow} {v : Nat} {s : State} (h : Keeps r0 s) : Keeps r0 (npendWrite r v s) := by
  unfold npendWrite
  repeat' (first
    | with_reducible assumption
    | with_reducible refine plainWrite_keeps ?_
    | with_reducible rfl
    | ((try lift_lets -underBinder); intro x; refine (fun (hx : Keeps r0 x) => ?_) ?_; clear_value x; on_goal 2 => subst x)
    | ((try lift_lets -underBinder); intro x; subst x)
    | split
    | with_reducible refine Keeps.upd rfl rfl rfl rfl rfl rfl rfl rfl rfl ?_)

theorem nsetWrite_keeps {r : State} {v : Nat} {s : State} (h : Keeps r s) : Keeps r (nsetWrite v s) := by
  unfold nsetWrite
  repeat' (first
    | with_reducible assumption
    | with_reducible refine forN_keeps (fun _ _ _ => ?_) ?_
    | with_reducible refine notify_keeps ?_
    | with_reducible rfl
    | ((try lift_lets -underBinder); intro x; refine (fun (hx : Keeps r x) => ?_) ?_; clear_value x; on_goal 2 => subst x)
    | ((try lift_lets -underBinder); intro x; subst x)
    | split
    | with_reducible refine Keeps.upd rfl rfl rfl rfl rfl rfl rfl rfl rfl ?_)

theorem cfgNote_keeps {r : State} {c n : Nat} {s : State} (h : Keeps r s) : Keeps r (cfgNote c n s) := by
  unfold cfgNote
  repeat' (first
    | with_reducible assumption
    | with_reducible refine modSame_keeps ?_
    | with_reducible rfl
    | ((try lift_lets -underBinder); intro x; refine (fun (hx : Keeps r x) => ?_) ?_; clear_value x; on_goal 2 => subst x)
    | ((try lift_lets -underBinder); intro x; subst x)
    | split
    | with_reducible refine Keeps.upd rfl rfl rfl rfl rfl rfl rfl rfl rfl ?_)

theorem rngCfgWrite_keeps {r : State} {c n v : Nat} {s : State} (h : Keeps r s) : Keeps r (rngCfgWrite c n v s) := by
  unfold rngCfgWrite
  repeat' (first
    | with_reducible assumption
    | with_reducible refine setF_keeps ?_
    | with_reducible refine parWrite_keeps ?_
    | with_reducible refine wr_keeps ?_
    | with_reducible refine cfgNote_keeps ?_
    | with_reducible refine putPtr_keeps ?_
    | with_reducible rfl
    | ((try lift_lets -underBinder); intro x; refine (fun (hx : Keeps r x) => ?_) ?_; clear_value x; on_goal 2 => subst x)
    | ((try lift_lets -underBinder); intro x; subst x)
    | split
    | with_reducible refine Keeps.upd rfl rfl rfl rfl rfl rfl rfl rfl rfl ?_)

theorem quotaWrite_keeps {r : State} {a v : Nat} {s : State} (h : Keeps r s) : Keeps r (quotaWrite a v s) := by
  unfold quotaWrite
  repeat' (first
    | with_reducible assumption
    | with_reducible refine wr_keeps ?_
    | with_reducible refine setF_keeps ?_
    | with_reducible refine parWrite_keeps ?_
    | with_reducible rfl
    | ((try lift_lets -underBinder); intro x; refine (fun (hx : Keeps r x) => ?_) ?_; clear_value x; on_goal 2 => subst x)
    | ((try lift_lets -underBinder); intro x; subst x)
    | split
    | with_reducible refine Keeps.upd rfl rfl rfl rfl rfl rfl rfl rfl rfl ?_)

theorem lnkCtlWrite_keeps {r0 : State} {r : RegRow} {v : Nat} {s : State} (h : Keeps r0 s) : Keeps r0 (lnkCtlWrite r v s) := by
  unfold lnkCtlWrite
  repeat' (first
    | with_reducible assumption
    | with_reducible refine plainWrite_keeps ?_
    | with_reducible refine setB_keeps ?_
    | with_reducible refine linkEnableOp_keeps ?_
    | with_reducible refine rollRequestOp_keeps ?_
    | with_reducible rfl
    | ((try lift_lets -underBinder); intro x; refine (fun (hx : Keeps r0 x) => ?_) ?_; clear_value x; on_goal 2 => subst x)
    | ((try lift_lets -underBinder); intro x; subst x)
    | split
    | with_reducible refine Keeps.upd rfl rfl rfl rfl rfl rfl rfl rfl rfl ?_)

theorem tcpTxOp_keeps {r : State} {c : Nat} {s : State} (h : Keeps r s) : Keeps r (tcpTxOp c s) := by
  unfold tcpTxOp
  repeat' (first
    | with_reducible assumption
    | with_reducible refine requestOp_keeps ?_
    | with_reducible refine getSourceCapOp_keeps ?_
    | with_reducible refine eprEnterOp_keeps ?_
    | with_reducible refine eprExitOp_keeps ?_
    | with_reducible refine softResetOp_keeps ?_
    | with_reducible refine hardResetOp_keeps ?_
    | with_reducible rfl
    | ((try lift_lets -underBinder); intro x; refine (fun (hx : Keeps r x) => ?_) ?_; clear_value x; on_goal 2 => subst x)
    | ((try lift_lets -underBinder); intro x; subst x)
    | split
    | with_reducible refine Keeps.upd rfl rfl rfl rfl rfl rfl rfl rfl rfl ?_)

theorem txcmdWrite_keeps {r : State} {v : Nat} {s : State} (h : Keeps r s) : Keeps r (txcmdWrite v s) := by
  unfold txcmdWrite
  repeat' (first
    | with_reducible assumption
    | with_reducible refine tcpTxOp_keeps ?_
    | with_reducible refine parWrite_keeps ?_
    | with_reducible refine wr_keeps ?_
    | with_reducible rfl
    | ((try lift_lets -underBinder); intro x; refine (fun (hx : Keeps r x) => ?_) ?_; clear_value x; on_goal 2 => subst x)
    | ((try lift_lets -underBinder); intro x; subst x)
    | split
    | with_reducible refine Keeps.upd rfl rfl rfl rfl rfl rfl rfl rfl rfl ?_)

theorem engCtlWrite_keeps {r : State} {e : EngId} {v : Nat} {s : State} (h : Keeps r s) : Keeps r (engCtlWrite e v s) := by
  unfold engCtlWrite
  repeat' (first
    | with_reducible assumption
    | with_reducible refine modEng_keeps ?_
    | with_reducible refine engineResetOp_keeps ?_
    | with_reducible refine engineHaltOp_keeps ?_
    | with_reducible rfl
    | ((try lift_lets -underBinder); intro x; refine (fun (hx : Keeps r x) => ?_) ?_; clear_value x; on_goal 2 => subst x)
    | ((try lift_lets -underBinder); intro x; subst x)
    | split
    | with_reducible refine Keeps.upd rfl rfl rfl rfl rfl rfl rfl rfl rfl ?_)

theorem engStatWrite_keeps {r : State} {e : EngId} {v : Nat} {s : State} (h : Keeps r s) : Keeps r (engStatWrite e v s) := by
  unfold engStatWrite
  repeat' (first
    | with_reducible assumption
    | with_reducible refine modEng_keeps ?_
    | with_reducible rfl
    | ((try lift_lets -underBinder); intro x; refine (fun (hx : Keeps r x) => ?_) ?_; clear_value x; on_goal 2 => subst x)
    | ((try lift_lets -underBinder); intro x; subst x)
    | split
    | with_reducible refine Keeps.upd rfl rfl rfl rfl rfl rfl rfl rfl rfl ?_)

theorem fltCmdWrite_keeps {r : State} {who : Option EngId} {v : Nat} {s : State} (h : Keeps r s) : Keeps r (fltCmdWrite who
    v s).2 := by
  unfold fltCmdWrite
  repeat' (first
    | with_reducible assumption
    | with_reducible refine fawnOp_keeps ?_
    | with_reducible refine fawnExitReq_keeps ?_
    | with_reducible refine fawnExitReq_keeps_eq ?_ (by assumption)
    | with_reducible rfl
    | ((try lift_lets -underBinder); intro x; refine (fun (hx : Keeps r x) => ?_) ?_; clear_value x; on_goal 2 => subst x)
    | ((try lift_lets -underBinder); intro x; subst x)
    | split
    | with_reducible refine Keeps.upd rfl rfl rfl rfl rfl rfl rfl rfl rfl ?_)

theorem fltCmdWrite_keeps_eq {r u : State} {q : WrRes} {who : Option EngId} {v : Nat} {s : State} (h : Keeps r s) (hq :
    fltCmdWrite who v s = (q, u)) : Keeps r u := by
  have k := fltCmdWrite_keeps (who := who) (v := v) h
  rw [hq] at k; exact k

theorem fltWrite_keeps {r : State} {who : Option EngId} {r' : RegRow} {a v : Nat} {s : State} (h : Keeps r s) :
    Keeps r (fltWrite who r' a v s).2 := by
  unfold fltWrite
  refine Keeps.ite_snd (fltCmdWrite_keeps h) ?_
  dsimp only
  repeat' (first
    | with_reducible assumption
    | with_reducible refine Keeps.ite ?_ ?_
    | with_reducible refine pendClear_keeps ?_
    | with_reducible refine sevClear_keeps ?_
    | with_reducible refine fenceReleaseOp_keeps ?_
    | with_reducible refine injectOp_keeps ?_
    | with_reducible refine clearWrite_keeps ?_
    | with_reducible refine setF_keeps ?_
    | with_reducible refine logClearOp_keeps ?_
    | with_reducible refine logSelectOp_keeps ?_
    | with_reducible refine logPutOp_keeps ?_
    | with_reducible refine faultCfgOp_keeps ?_
    | with_reducible refine plainWrite_keeps ?_)

theorem fltWrite_keeps_eq {r u : State} {q : WrRes} {who : Option EngId} {r' : RegRow} {a v : Nat} {s : State} (h : Keeps r s)
    (hq : fltWrite who r' a v s = (q, u)) : Keeps r u := by
  have k := fltWrite_keeps (who := who) (r' := r') (a := a) (v := v) h
  rw [hq] at k; exact k

theorem wdgWrite_keeps {r0 : State} {who : Option EngId} {r : RegRow} {a v : Nat} {s : State} (h : Keeps r0 s) : Keeps r0
    (wdgWrite who r a v s) := by
  unfold wdgWrite
  repeat' (first
    | with_reducible assumption
    | with_reducible refine wdgStart_keeps ?_
    | with_reducible refine wdgKeyWrite_keeps ?_
    | with_reducible refine wdgCfgWrite_keeps ?_
    | with_reducible refine wdgServiceOp_keeps ?_
    | with_reducible refine wdgCheckinOp_keeps ?_
    | with_reducible refine clearWrite_keeps ?_
    | with_reducible refine plainWrite_keeps ?_
    | with_reducible rfl
    | ((try lift_lets -underBinder); intro x; refine (fun (hx : Keeps r0 x) => ?_) ?_; clear_value x; on_goal 2 => subst x)
    | ((try lift_lets -underBinder); intro x; subst x)
    | split
    | with_reducible refine Keeps.upd rfl rfl rfl rfl rfl rfl rfl rfl rfl ?_)

theorem tmrWrite_keeps {r0 : State} {r : RegRow} {a v : Nat} {s : State} (h : Keeps r0 s) : Keeps r0 (tmrWrite r a v s) := by
  unfold tmrWrite
  repeat' (first
    | with_reducible assumption
    | with_reducible refine tmrCfgWrite_keeps ?_
    | with_reducible refine tmrPreWrite_keeps ?_
    | with_reducible refine tmrLoad_keeps ?_
    | with_reducible refine tmrCmpWrite_keeps ?_
    | with_reducible refine capstatWrite_keeps ?_
    | with_reducible refine plainWrite_keeps ?_
    | with_reducible refine parWrite_keeps ?_
    | with_reducible refine wr_keeps ?_
    | with_reducible refine staggerOp_keeps ?_
    | with_reducible rfl
    | ((try lift_lets -underBinder); intro x; refine (fun (hx : Keeps r0 x) => ?_) ?_; clear_value x; on_goal 2 => subst x)
    | ((try lift_lets -underBinder); intro x; subst x)
    | split
    | with_reducible refine Keeps.upd rfl rfl rfl rfl rfl rfl rfl rfl rfl ?_)

theorem pkpWrite_keeps {r0 : State} {who : Option EngId} {r : RegRow} {a v : Nat} {s : State} (h : Keeps r0 s) : Keeps r0
    (pkpWrite who r a v s) := by
  unfold pkpWrite
  repeat' (first
    | with_reducible assumption
    | with_reducible refine ownWrite_keeps ?_
    | with_reducible refine rtempWrite_keeps ?_
    | with_reducible refine seqctlWrite_keeps ?_
    | with_reducible refine seqPush_keeps ?_
    | with_reducible refine plainWrite_keeps ?_
    | with_reducible rfl
    | ((try lift_lets -underBinder); intro x; refine (fun (hx : Keeps r0 x) => ?_) ?_; clear_value x; on_goal 2 => subst x)
    | ((try lift_lets -underBinder); intro x; subst x)
    | split
    | with_reducible refine Keeps.upd rfl rfl rfl rfl rfl rfl rfl rfl rfl ?_)

theorem shWrite_keeps {r0 : State} {who : Option EngId} {r : RegRow} {a v : Nat} {s : State} (h : Keeps r0 s) : Keeps r0
    (shWrite who r a v s) := by
  unfold shWrite
  repeat' (first
    | with_reducible assumption
    | with_reducible refine mark_keeps ?_
    | with_reducible refine clampedWrite_keeps ?_
    | with_reducible rfl
    | ((try lift_lets -underBinder); intro x; refine (fun (hx : Keeps r0 x) => ?_) ?_; clear_value x; on_goal 2 => subst x)
    | ((try lift_lets -underBinder); intro x; subst x)
    | split
    | with_reducible refine Keeps.upd rfl rfl rfl rfl rfl rfl rfl rfl rfl ?_)

theorem regWrite_keeps {r : State} {who : Option EngId} {r' : RegRow} {a v : Nat} {s : State} (h : Keeps r s) :
    Keeps r (regWrite who r' a v s).2 := by
  unfold regWrite
  refine Keeps.ite_snd (fltWrite_keeps h) ?_
  dsimp only
  repeat' (first
    | with_reducible assumption
    | with_reducible refine Keeps.ite ?_ ?_
    | with_reducible refine shWrite_keeps ?_
    | with_reducible refine clampedWrite_keeps ?_
    | with_reducible refine clkstatWrite_keeps ?_
    | with_reducible refine shipRequestOp_keeps ?_
    | with_reducible refine armOp_keeps ?_
    | with_reducible refine disarmOp_keeps ?_
    | with_reducible refine phstatWrite_keeps ?_
    | with_reducible refine latchRequest_keeps ?_
    | with_reducible refine lampSync_keeps ?_
    | with_reducible refine plainWrite_keeps ?_
    | with_reducible refine pkpWrite_keeps ?_
    | with_reducible refine setF_keeps ?_
    | with_reducible refine impCancelOp_keeps ?_
    | with_reducible refine tmrWrite_keeps ?_
    | with_reducible refine wdgWrite_keeps ?_
    | with_reducible refine npendWrite_keeps ?_
    | with_reducible refine nsetWrite_keeps ?_
    | with_reducible refine lnkCtlWrite_keeps ?_
    | with_reducible refine txcmdWrite_keeps ?_
    | with_reducible refine engCtlWrite_keeps ?_
    | with_reducible refine engStatWrite_keeps ?_
    | with_reducible refine rngCfgWrite_keeps ?_
    | with_reducible refine quotaWrite_keeps ?_)

theorem regWrite_keeps_eq {r u : State} {q : WrRes} {who : Option EngId} {r' : RegRow} {a v : Nat} {s : State} (h : Keeps r s)
    (hq : regWrite who r' a v s = (q, u)) : Keeps r u := by
  have k := regWrite_keeps (who := who) (r' := r') (a := a) (v := v) h
  rw [hq] at k; exact k

theorem bufWrite_keeps {r0 : State} {a n v : Nat} {r : RegRow} {s : State} (h : Keeps r0 s) : Keeps r0 (bufWrite a n v r s) := by
  unfold bufWrite
  repeat' (first
    | with_reducible assumption
    | with_reducible refine parWrite_keeps ?_
    | with_reducible refine wr_keeps ?_
    | with_reducible rfl
    | ((try lift_lets -underBinder); intro x; refine (fun (hx : Keeps r0 x) => ?_) ?_; clear_value x; on_goal 2 => subst x)
    | ((try lift_lets -underBinder); intro x; subst x)
    | split
    | with_reducible refine Keeps.upd rfl rfl rfl rfl rfl rfl rfl rfl rfl ?_)

theorem engStore_keeps {r : State} {e : EngId} {a n v : Nat} {s : State} (h : Keeps r s) : Keeps r (engStore e a n v s).2 := by
  unfold engStore
  repeat' (first
    | with_reducible assumption
    | with_reducible refine fault_keeps ?_
    | with_reducible refine ramStore_keeps ?_
    | with_reducible refine ramStore_keeps_eq ?_ (by assumption)
    | with_reducible refine bufWrite_keeps ?_
    | with_reducible refine regWrite_keeps ?_
    | with_reducible refine regWrite_keeps_eq ?_ (by assumption)
    | with_reducible rfl
    | ((try lift_lets -underBinder); intro x; refine (fun (hx : Keeps r x) => ?_) ?_; clear_value x; on_goal 2 => subst x)
    | ((try lift_lets -underBinder); intro x; subst x)
    | split
    | with_reducible refine Keeps.upd rfl rfl rfl rfl rfl rfl rfl rfl rfl ?_)

theorem engStore_keeps_eq {r u : State} {q : WrRes} {e : EngId} {a n v : Nat} {s : State} (h : Keeps r s) (hq : engStore e a
    n v s = (q, u)) : Keeps r u := by
  have k := engStore_keeps (e := e) (a := a) (n := n) (v := v) h
  rw [hq] at k; exact k

theorem hostRam_keeps {r : State} {a : Nat} {bs : List Byte} {s : State} (h : Keeps r s) : Keeps r (hostRam a bs s).2 := by
  unfold hostRam
  repeat' (first
    | with_reducible assumption
    | with_reducible refine ramCheck_keeps ?_
    | with_reducible refine ramCheck_keeps_eq ?_ (by assumption)
    | with_reducible refine ramErrClear_keeps ?_
    | with_reducible refine ramWrite_keeps ?_
    | with_reducible refine Keeps.fold (fun _ _ _ => ?_) ?_
    | with_reducible refine Keeps.fold2 (fun _ _ _ => ?_) ?_
    | with_reducible refine Keeps.fold2_eq (fun _ _ _ => ?_) ?_ (by assumption)
    | with_reducible rfl
    | ((try lift_lets -underBinder); intro x; refine (fun (hx : Keeps r x) => ?_) ?_; clear_value x; on_goal 2 => subst x)
    | ((try lift_lets -underBinder); intro x; subst x)
    | split
    | with_reducible refine Keeps.upd rfl rfl rfl rfl rfl rfl rfl rfl rfl ?_)

theorem hostRam_keeps_eq {r u : State} {q : WrRes} {a : Nat} {bs : List Byte} {s : State} (h : Keeps r s) (hq : hostRam a bs
    s = (q, u)) : Keeps r u := by
  have k := hostRam_keeps (a := a) (bs := bs) h
  rw [hq] at k; exact k

theorem hostWrite_keeps {r : State} {a : Nat} {bs : List Byte} {s : State} (h : Keeps r s) :
    Keeps r (hostWrite a bs s).2 := by
  unfold hostWrite
  dsimp only
  repeat' (first
    | with_reducible assumption
    | with_reducible refine Keeps.ite_snd ?_ ?_
    | with_reducible refine hostRam_keeps ?_
    | with_reducible refine bufWrite_keeps ?_
    | with_reducible refine regWrite_keeps ?_
    | split)

theorem hostWrite_keeps_eq {r u : State} {q : WrRes} {a : Nat} {bs : List Byte} {s : State} (h : Keeps r s)
    (hq : hostWrite a bs s = (q, u)) : Keeps r u := by
  have k := hostWrite_keeps (a := a) (bs := bs) h
  rw [hq] at k; exact k

end Sys2Proof.Machine
end

