-- ==== Sys2Proof/Laws/KeepsEngRun.lean ====
section
/-!
SUPPORT. What the operations of Machine/EngRun.lean keep: the queue, and the legality of the state.
-/

namespace Sys2Proof.Machine

open Sys2Proof

set_option linter.unusedTactic false
set_option linter.unreachableTactic false
set_option linter.unusedVariables false

theorem fillLine_keeps {r : State} {e : EngId} {l : Nat} {s : State} (h : Keeps r s) : Keeps r (fillLine e l s) := by
  unfold fillLine
  repeat' (first
    | with_reducible assumption
    | with_reducible refine lineDecode_keeps ?_
    | with_reducible refine lineDecode_keeps_eq ?_ (by assumption)
    | with_reducible refine psCorr_keeps ?_
    | with_reducible refine modEng_keeps ?_
    | with_reducible rfl
    | ((try lift_lets -underBinder); intro x; refine (fun (hx : Keeps r x) => ?_) ?_; clear_value x; on_goal 2 => subst x)
    | ((try lift_lets -underBinder); intro x; subst x)
    | split
    | with_reducible refine Keeps.upd rfl rfl rfl rfl rfl rfl rfl rfl rfl ?_)

theorem lineFault_keeps {r : State} {e : EngId} {l : Nat} {s : State} (h : Keeps r s) : Keeps r (lineFault e l s) := by
  unfold lineFault
  repeat' (first
    | with_reducible assumption
    | with_reducible refine modEng_keeps ?_
    | with_reducible refine psUncor_keeps ?_
    | with_reducible refine modStore_keeps ?_ ?_
    | with_reducible rfl
    | ((try lift_lets -underBinder); intro x; refine (fun (hx : Keeps r x) => ?_) ?_; clear_value x; on_goal 2 => subst x)
    | ((try lift_lets -underBinder); intro x; subst x)
    | split
    | with_reducible refine Keeps.upd rfl rfl rfl rfl rfl rfl rfl rfl rfl ?_)

theorem fault_keeps {r : State} {e : EngId} {cause bad : Nat} {s : State} (h : Keeps r s) : Keeps r (fault e cause bad s) := by
  unfold fault
  repeat' (first
    | with_reducible assumption
    | with_reducible refine takeException_keeps ?_
    | with_reducible rfl
    | ((try lift_lets -underBinder); intro x; refine (fun (hx : Keeps r x) => ?_) ?_; clear_value x; on_goal 2 => subst x)
    | ((try lift_lets -underBinder); intro x; subst x)
    | split
    | with_reducible refine Keeps.upd rfl rfl rfl rfl rfl rfl rfl rfl rfl ?_)

theorem runInstr_keeps {r s : State} {e : EngId} {legal : Bool} {body : State → State}
    (hb : ∀ s, Keeps r s → Keeps r (body s)) (h : Keeps r s) : Keeps r (runInstr e legal body s) := by
  unfold runInstr
  split
  · exact h
  · lift_lets -underBinder
    intro c s1
    have h1 : Keeps r s1 := Keeps.updSft rfl
      (fun x => max_lt x (lt_of_le_of_lt (min_le_left _ _) (by decide))) rfl h
    clear_value s1; clear c
    dsimp only
    have h2 := fillLine_keeps (e := e) (l := (getEng e s1).pc.toNat / 64) h1
    repeat' (first
      | with_reducible assumption
      | with_reducible refine fault_keeps ?_
      | with_reducible refine lineFault_keeps ?_
      | exact hb _ h2
      | split)

theorem fin_keeps {r : State} {e : EngId} {n : Nat} {f : Eng → Eng} {s : State} (h : Keeps r s) : Keeps r (fin e n f s) := by
  unfold fin
  repeat' (first
    | with_reducible assumption
    | with_reducible refine modEng_keeps ?_
    | with_reducible rfl
    | ((try lift_lets -underBinder); intro x; refine (fun (hx : Keeps r x) => ?_) ?_; clear_value x; on_goal 2 => subst x)
    | ((try lift_lets -underBinder); intro x; subst x)
    | split
    | with_reducible refine Keeps.upd rfl rfl rfl rfl rfl rfl rfl rfl rfl ?_)

theorem finJump_keeps {r : State} {e : EngId} {t : Half} {f : Eng → Eng} {s : State} (h : Keeps r s) : Keeps r (finJump e t
    f s) := by
  unfold finJump
  repeat' (first
    | with_reducible assumption
    | with_reducible refine modEng_keeps ?_
    | with_reducible rfl
    | ((try lift_lets -underBinder); intro x; refine (fun (hx : Keeps r x) => ?_) ?_; clear_value x; on_goal 2 => subst x)
    | ((try lift_lets -underBinder); intro x; subst x)
    | split
    | with_reducible refine Keeps.upd rfl rfl rfl rfl rfl rfl rfl rfl rfl ?_)

theorem spend_keeps {r : State} {e : EngId} {n : Nat} {s : State} (h : Keeps r s) : Keeps r (spend e n s) := by
  unfold spend
  repeat' (first
    | with_reducible assumption
    | with_reducible refine modEng_keeps ?_
    | with_reducible rfl
    | ((try lift_lets -underBinder); intro x; refine (fun (hx : Keeps r x) => ?_) ?_; clear_value x; on_goal 2 => subst x)
    | ((try lift_lets -underBinder); intro x; subst x)
    | split
    | with_reducible refine Keeps.upd rfl rfl rfl rfl rfl rfl rfl rfl rfl ?_)

theorem ramWaits_keeps {r : State} {e : EngId} {s : State} (h : Keeps r s) : Keeps r (ramWaits e s) := by
  unfold ramWaits
  repeat' (first
    | with_reducible assumption
    | with_reducible refine useSeed_keeps ?_
    | with_reducible refine spend_keeps ?_
    | with_reducible rfl
    | ((try lift_lets -underBinder); intro x; refine (fun (hx : Keeps r x) => ?_) ?_; clear_value x; on_goal 2 => subst x)
    | ((try lift_lets -underBinder); intro x; subst x)
    | split
    | with_reducible refine Keeps.upd rfl rfl rfl rfl rfl rfl rfl rfl rfl ?_)

theorem landOne_keeps {r : State} {e : EngId} {s : State} (h : Keeps r s) : Keeps r (landOne e s) := by
  unfold landOne
  repeat' (first
    | with_reducible assumption
    | with_reducible refine engStore_keeps ?_
    | with_reducible refine engStore_keeps_eq ?_ (by assumption)
    | with_reducible refine modEng_keeps ?_
    | with_reducible rfl
    | ((try lift_lets -underBinder); intro x; refine (fun (hx : Keeps r x) => ?_) ?_; clear_value x; on_goal 2 => subst x)
    | ((try lift_lets -underBinder); intro x; subst x)
    | split
    | with_reducible refine Keeps.upd rfl rfl rfl rfl rfl rfl rfl rfl rfl ?_)

theorem landCost_keeps {r : State} {e : EngId} {s : State} (h : Keeps r s) : Keeps r (landCost e s) := by
  unfold landCost
  repeat' (first
    | with_reducible assumption
    | with_reducible refine ramWaits_keeps ?_
    | with_reducible refine spend_keeps ?_
    | with_reducible rfl
    | ((try lift_lets -underBinder); intro x; refine (fun (hx : Keeps r x) => ?_) ?_; clear_value x; on_goal 2 => subst x)
    | ((try lift_lets -underBinder); intro x; subst x)
    | split
    | with_reducible refine Keeps.upd rfl rfl rfl rfl rfl rfl rfl rfl rfl ?_)

theorem drain_keeps {r : State} {e : EngId} {s : State} (h : Keeps r s) : Keeps r (drain e s) := by
  unfold drain
  repeat' (first
    | with_reducible assumption
    | with_reducible refine forN_keeps (fun _ _ _ => ?_) ?_
    | with_reducible refine landOne_keeps ?_
    | with_reducible refine landCost_keeps ?_
    | with_reducible rfl
    | ((try lift_lets -underBinder); intro x; refine (fun (hx : Keeps r x) => ?_) ?_; clear_value x; on_goal 2 => subst x)
    | ((try lift_lets -underBinder); intro x; subst x)
    | split
    | with_reducible refine Keeps.upd rfl rfl rfl rfl rfl rfl rfl rfl rfl ?_)

theorem post'_keeps {r : State} {e : EngId} {a n : Nat} {v : Word} {s : State} (h : Keeps r s) : Keeps r (post' e a n v s) := by
  unfold post'
  repeat' (first
    | with_reducible assumption
    | with_reducible refine landOne_keeps ?_
    | with_reducible refine landCost_keeps ?_
    | with_reducible refine modEng_keeps ?_
    | with_reducible rfl
    | ((try lift_lets -underBinder); intro x; refine (fun (hx : Keeps r x) => ?_) ?_; clear_value x; on_goal 2 => subst x)
    | ((try lift_lets -underBinder); intro x; subst x)
    | split
    | with_reducible refine Keeps.upd rfl rfl rfl rfl rfl rfl rfl rfl rfl ?_)

theorem loadEffect_keeps {r : State} {a : Nat} {s : State} (h : Keeps r s) : Keeps r (loadEffect a s) := by
  unfold loadEffect
  repeat' (first
    | with_reducible assumption
    | with_reducible refine seqPop_keeps ?_
    | with_reducible refine timerCaptureReadOp_keeps ?_
    | with_reducible rfl
    | ((try lift_lets -underBinder); intro x; refine (fun (hx : Keeps r x) => ?_) ?_; clear_value x; on_goal 2 => subst x)
    | ((try lift_lets -underBinder); intro x; subst x)
    | split
    | with_reducible refine Keeps.upd rfl rfl rfl rfl rfl rfl rfl rfl rfl ?_)

theorem loadCost_keeps {r : State} {e : EngId} {a : Nat} {s : State} (h : Keeps r s) : Keeps r (loadCost e a s) := by
  unfold loadCost
  repeat' (first
    | with_reducible assumption
    | with_reducible refine spend_keeps ?_
    | with_reducible refine ramWaits_keeps ?_
    | with_reducible rfl
    | ((try lift_lets -underBinder); intro x; refine (fun (hx : Keeps r x) => ?_) ?_; clear_value x; on_goal 2 => subst x)
    | ((try lift_lets -underBinder); intro x; subst x)
    | split
    | with_reducible refine Keeps.upd rfl rfl rfl rfl rfl rfl rfl rfl rfl ?_)

theorem engLoad_keeps {r : State} {e : EngId} {a n : Nat} {s : State} (h : Keeps r s) : Keeps r (engLoad e a n s).2 := by
  unfold engLoad
  repeat' (first
    | with_reducible assumption
    | with_reducible refine loadCost_keeps ?_
    | with_reducible refine drain_keeps ?_
    | with_reducible refine readWord_keeps ?_
    | with_reducible refine readWord_keeps_eq ?_ (by assumption)
    | with_reducible refine parCheck_keeps ?_
    | with_reducible refine loadEffect_keeps ?_
    | with_reducible rfl
    | ((try lift_lets -underBinder); intro x; refine (fun (hx : Keeps r x) => ?_) ?_; clear_value x; on_goal 2 => subst x)
    | ((try lift_lets -underBinder); intro x; subst x)
    | split
    | with_reducible refine Keeps.upd rfl rfl rfl rfl rfl rfl rfl rfl rfl ?_)

theorem engLoad_keeps_eq {r u : State} {q : Option Nat} {e : EngId} {a n : Nat} {s : State} (h : Keeps r s) (hq : engLoad e
    a n s = (q, u)) : Keeps r u := by
  have k := engLoad_keeps (e := e) (a := a) (n := n) h
  rw [hq] at k; exact k

theorem loadInstr_keeps {r : State} {e : EngId} {b : BitVec 26} {n : Nat} {ext : Nat → Word} {s : State} (h : Keeps r s) :
    Keeps r (loadInstr e b n ext s) := by
  unfold loadInstr
  repeat' (first
    | with_reducible assumption
    | with_reducible refine fault_keeps ?_
    | with_reducible refine engLoad_keeps ?_
    | with_reducible refine engLoad_keeps_eq ?_ (by assumption)
    | with_reducible refine fin_keeps ?_
    | with_reducible rfl
    | ((try lift_lets -underBinder); intro x; refine (fun (hx : Keeps r x) => ?_) ?_; clear_value x; on_goal 2 => subst x)
    | ((try lift_lets -underBinder); intro x; subst x)
    | split
    | with_reducible refine Keeps.upd rfl rfl rfl rfl rfl rfl rfl rfl rfl ?_)

theorem storeInstr_keeps {r : State} {e : EngId} {b : BitVec 26} {n : Nat} {s : State} (h : Keeps r s) : Keeps r (storeInstr
    e b n s) := by
  unfold storeInstr
  repeat' (first
    | with_reducible assumption
    | with_reducible refine fault_keeps ?_
    | with_reducible refine engStore_keeps ?_
    | with_reducible refine engStore_keeps_eq ?_ (by assumption)
    | with_reducible refine ramWaits_keeps ?_
    | with_reducible refine spend_keeps ?_
    | with_reducible refine drain_keeps ?_
    | with_reducible refine fin_keeps ?_
    | with_reducible refine post'_keeps ?_
    | with_reducible rfl
    | ((try lift_lets -underBinder); intro x; refine (fun (hx : Keeps r x) => ?_) ?_; clear_value x; on_goal 2 => subst x)
    | ((try lift_lets -underBinder); intro x; subst x)
    | split
    | with_reducible refine Keeps.upd rfl rfl rfl rfl rfl rfl rfl rfl rfl ?_)

end Sys2Proof.Machine
end

