-- ==== Sys2Proof/Laws/KeepsMemInstr.lean ====
section
/-!
SUPPORT. What the operations of Machine/MemInstr.lean keep: the queue, and the legality of the state.
-/

namespace Sys2Proof.Machine

open Sys2Proof

set_option linter.unusedTactic false
set_option linter.unreachableTactic false
set_option linter.unusedVariables false

theorem amoInstr_keeps {r : State} {e : EngId} {b : BitVec 26} {s : State} (h : Keeps r s) : Keeps r (amoInstr e b s) := by
  unfold amoInstr
  repeat' (first
    | with_reducible assumption
    | with_reducible refine fault_keeps ?_
    | with_reducible refine ramCheck_keeps ?_
    | with_reducible refine ramCheck_keeps_eq ?_ (by assumption)
    | with_reducible refine ramWaits_keeps ?_
    | with_reducible refine spend_keeps ?_
    | with_reducible refine drain_keeps ?_
    | with_reducible refine ramErrClear_keeps ?_
    | with_reducible refine ramWriteNat_keeps ?_
    | with_reducible refine fin_keeps ?_
    | with_reducible rfl
    | ((try lift_lets -underBinder); intro x; refine (fun (hx : Keeps r x) => ?_) ?_; clear_value x; on_goal 2 => subst x)
    | ((try lift_lets -underBinder); intro x; subst x)
    | split
    | with_reducible refine Keeps.upd rfl rfl rfl rfl rfl rfl rfl rfl rfl ?_)

theorem ldpInstr_keeps {r : State} {e : EngId} {b : BitVec 26} {s : State} (h : Keeps r s) : Keeps r (ldpInstr e b s) := by
  unfold ldpInstr
  repeat' (first
    | with_reducible assumption
    | with_reducible refine fault_keeps ?_
    | with_reducible refine psReadLine_keeps ?_
    | with_reducible refine psReadLine_keeps_eq ?_ (by assumption)
    | with_reducible refine fin_keeps ?_
    | with_reducible rfl
    | ((try lift_lets -underBinder); intro x; refine (fun (hx : Keeps r x) => ?_) ?_; clear_value x; on_goal 2 => subst x)
    | ((try lift_lets -underBinder); intro x; subst x)
    | split
    | with_reducible refine Keeps.upd rfl rfl rfl rfl rfl rfl rfl rfl rfl ?_)

end Sys2Proof.Machine
end

