-- ==== Sys2Proof/Laws/KeepsCtlInstr.lean ====
section
/-!
SUPPORT. What the operations of Machine/CtlInstr.lean keep: the queue, and the legality of the state.
-/

namespace Sys2Proof.Machine

open Sys2Proof

set_option linter.unusedTactic false
set_option linter.unreachableTactic false
set_option linter.unusedVariables false

theorem branch_keeps {r : State} {e : EngId} {t : Bool} {off : Word} {s : State} (h : Keeps r s) : Keeps r (branch e t off
    s) := by
  unfold branch
  repeat' (first
    | with_reducible assumption
    | with_reducible refine finJump_keeps ?_
    | with_reducible refine fin_keeps ?_
    | with_reducible rfl
    | ((try lift_lets -underBinder); intro x; refine (fun (hx : Keeps r x) => ?_) ?_; clear_value x; on_goal 2 => subst x)
    | ((try lift_lets -underBinder); intro x; subst x)
    | split
    | with_reducible refine Keeps.upd rfl rfl rfl rfl rfl rfl rfl rfl rfl ?_)

theorem brInstr_keeps {r : State} {e : EngId} {b : BitVec 26} {s : State} (h : Keeps r s) : Keeps r (brInstr e b s) := by
  unfold brInstr
  repeat' (first
    | with_reducible assumption
    | with_reducible refine branch_keeps ?_
    | with_reducible rfl
    | ((try lift_lets -underBinder); intro x; refine (fun (hx : Keeps r x) => ?_) ?_; clear_value x; on_goal 2 => subst x)
    | ((try lift_lets -underBinder); intro x; subst x)
    | split
    | with_reducible refine Keeps.upd rfl rfl rfl rfl rfl rfl rfl rfl rfl ?_)

theorem bfInstr_keeps {r : State} {e : EngId} {b : BitVec 26} {s : State} (h : Keeps r s) : Keeps r (bfInstr e b s) := by
  unfold bfInstr
  repeat' (first
    | with_reducible assumption
    | with_reducible refine branch_keeps ?_
    | with_reducible rfl
    | ((try lift_lets -underBinder); intro x; refine (fun (hx : Keeps r x) => ?_) ?_; clear_value x; on_goal 2 => subst x)
    | ((try lift_lets -underBinder); intro x; subst x)
    | split
    | with_reducible refine Keeps.upd rfl rfl rfl rfl rfl rfl rfl rfl rfl ?_)

theorem jalInstr_keeps {r : State} {e : EngId} {b : BitVec 26} {s : State} (h : Keeps r s) : Keeps r (jalInstr e b s) := by
  unfold jalInstr
  repeat' (first
    | with_reducible assumption
    | with_reducible refine finJump_keeps ?_
    | with_reducible rfl
    | ((try lift_lets -underBinder); intro x; refine (fun (hx : Keeps r x) => ?_) ?_; clear_value x; on_goal 2 => subst x)
    | ((try lift_lets -underBinder); intro x; subst x)
    | split
    | with_reducible refine Keeps.upd rfl rfl rfl rfl rfl rfl rfl rfl rfl ?_)

theorem jalrInstr_keeps {r : State} {e : EngId} {b : BitVec 26} {s : State} (h : Keeps r s) : Keeps r (jalrInstr e b s) := by
  unfold jalrInstr
  repeat' (first
    | with_reducible assumption
    | with_reducible refine finJump_keeps ?_
    | with_reducible rfl
    | ((try lift_lets -underBinder); intro x; refine (fun (hx : Keeps r x) => ?_) ?_; clear_value x; on_goal 2 => subst x)
    | ((try lift_lets -underBinder); intro x; subst x)
    | split
    | with_reducible refine Keeps.upd rfl rfl rfl rfl rfl rfl rfl rfl rfl ?_)

theorem jInstr_keeps {r : State} {e : EngId} {b : BitVec 26} {s : State} (h : Keeps r s) : Keeps r (jInstr e b s) := by
  unfold jInstr
  repeat' (first
    | with_reducible assumption
    | with_reducible refine finJump_keeps ?_
    | with_reducible rfl
    | ((try lift_lets -underBinder); intro x; refine (fun (hx : Keeps r x) => ?_) ?_; clear_value x; on_goal 2 => subst x)
    | ((try lift_lets -underBinder); intro x; subst x)
    | split
    | with_reducible refine Keeps.upd rfl rfl rfl rfl rfl rfl rfl rfl rfl ?_)

theorem yieldLand_keeps {r : State} {e : EngId} {s : State} (h : Keeps r s) : Keeps r (yieldLand e s) := by
  unfold yieldLand
  repeat' (first
    | with_reducible assumption
    | with_reducible refine landCost_keeps ?_
    | with_reducible refine landOne_keeps ?_
    | with_reducible rfl
    | ((try lift_lets -underBinder); intro x; refine (fun (hx : Keeps r x) => ?_) ?_; clear_value x; on_goal 2 => subst x)
    | ((try lift_lets -underBinder); intro x; subst x)
    | split
    | with_reducible refine Keeps.upd rfl rfl rfl rfl rfl rfl rfl rfl rfl ?_)

theorem yieldInstr_keeps {r : State} {e : EngId} {s : State} (h : Keeps r s) : Keeps r (yieldInstr e s) := by
  unfold yieldInstr
  repeat' (first
    | with_reducible assumption
    | with_reducible refine spend_keeps ?_
    | with_reducible refine forN_keeps (fun _ _ _ => ?_) ?_
    | with_reducible refine yieldLand_keeps ?_
    | with_reducible refine modEng_keeps ?_
    | with_reducible rfl
    | ((try lift_lets -underBinder); intro x; refine (fun (hx : Keeps r x) => ?_) ?_; clear_value x; on_goal 2 => subst x)
    | ((try lift_lets -underBinder); intro x; subst x)
    | split
    | with_reducible refine Keeps.upd rfl rfl rfl rfl rfl rfl rfl rfl rfl ?_)

theorem haltInstr_keeps {r : State} {e : EngId} {s : State} (h : Keeps r s) : Keeps r (haltInstr e s) := by
  unfold haltInstr
  repeat' (first
    | with_reducible assumption
    | with_reducible refine haltEngine_keeps ?_
    | with_reducible refine fin_keeps ?_
    | with_reducible refine drain_keeps ?_
    | with_reducible rfl
    | ((try lift_lets -underBinder); intro x; refine (fun (hx : Keeps r x) => ?_) ?_; clear_value x; on_goal 2 => subst x)
    | ((try lift_lets -underBinder); intro x; subst x)
    | split
    | with_reducible refine Keeps.upd rfl rfl rfl rfl rfl rfl rfl rfl rfl ?_)

theorem trapInstr_keeps {r : State} {e : EngId} {b : BitVec 26} {s : State} (h : Keeps r s) : Keeps r (trapInstr e b s) := by
  unfold trapInstr
  repeat' (first
    | with_reducible assumption
    | with_reducible refine takeException_keeps ?_
    | with_reducible refine spend_keeps ?_
    | with_reducible rfl
    | ((try lift_lets -underBinder); intro x; refine (fun (hx : Keeps r x) => ?_) ?_; clear_value x; on_goal 2 => subst x)
    | ((try lift_lets -underBinder); intro x; subst x)
    | split
    | with_reducible refine Keeps.upd rfl rfl rfl rfl rfl rfl rfl rfl rfl ?_)

theorem eretInstr_keeps {r : State} {e : EngId} {s : State} (h : Keeps r s) : Keeps r (eretInstr e s) := by
  unfold eretInstr
  repeat' (first
    | with_reducible assumption
    | with_reducible refine returnException_keeps ?_
    | with_reducible refine spend_keeps ?_
    | with_reducible refine fault_keeps ?_
    | with_reducible rfl
    | ((try lift_lets -underBinder); intro x; refine (fun (hx : Keeps r x) => ?_) ?_; clear_value x; on_goal 2 => subst x)
    | ((try lift_lets -underBinder); intro x; subst x)
    | split
    | with_reducible refine Keeps.upd rfl rfl rfl rfl rfl rfl rfl rfl rfl ?_)

theorem mfsInstr_keeps {r : State} {e : EngId} {b : BitVec 26} {s : State} (h : Keeps r s) : Keeps r (mfsInstr e b s) := by
  unfold mfsInstr
  repeat' (first
    | with_reducible assumption
    | with_reducible refine fin_keeps ?_
    | with_reducible refine fault_keeps ?_
    | with_reducible rfl
    | ((try lift_lets -underBinder); intro x; refine (fun (hx : Keeps r x) => ?_) ?_; clear_value x; on_goal 2 => subst x)
    | ((try lift_lets -underBinder); intro x; subst x)
    | split
    | with_reducible refine Keeps.upd rfl rfl rfl rfl rfl rfl rfl rfl rfl ?_)

theorem mtsInstr_keeps {r : State} {e : EngId} {b : BitVec 26} {s : State} (h : Keeps r s) : Keeps r (mtsInstr e b s) := by
  unfold mtsInstr
  repeat' (first
    | with_reducible assumption
    | with_reducible refine fin_keeps ?_
    | with_reducible refine fault_keeps ?_
    | with_reducible rfl
    | ((try lift_lets -underBinder); intro x; refine (fun (hx : Keeps r x) => ?_) ?_; clear_value x; on_goal 2 => subst x)
    | ((try lift_lets -underBinder); intro x; subst x)
    | split
    | with_reducible refine Keeps.upd rfl rfl rfl rfl rfl rfl rfl rfl rfl ?_)

theorem fourWaits_keeps {r : State} {e : EngId} {s : State} (h : Keeps r s) : Keeps r (fourWaits e s) := by
  unfold fourWaits
  repeat' (first
    | with_reducible assumption
    | with_reducible refine forN_keeps (fun _ _ _ => ?_) ?_
    | with_reducible refine ramWaits_keeps ?_
    | with_reducible rfl
    | ((try lift_lets -underBinder); intro x; refine (fun (hx : Keeps r x) => ?_) ?_; clear_value x; on_goal 2 => subst x)
    | ((try lift_lets -underBinder); intro x; subst x)
    | split
    | with_reducible refine Keeps.upd rfl rfl rfl rfl rfl rfl rfl rfl rfl ?_)

theorem postInstr_keeps {r : State} {e : EngId} {b : BitVec 26} {s : State} (h : Keeps r s) : Keeps r (postInstr e b s) := by
  unfold postInstr
  repeat' (first
    | with_reducible assumption
    | with_reducible refine drain_keeps ?_
    | with_reducible refine fault_keeps ?_
    | with_reducible refine fourWaits_keeps ?_
    | with_reducible refine spend_keeps ?_
    | with_reducible refine ringPost_keeps ?_
    | with_reducible refine ringPost_keeps_eq ?_ (by assumption)
    | with_reducible refine fin_keeps ?_
    | with_reducible refine ramRead_keeps ?_
    | with_reducible refine ramRead_keeps_eq ?_ (by assumption)
    | with_reducible rfl
    | ((try lift_lets -underBinder); intro x; refine (fun (hx : Keeps r x) => ?_) ?_; clear_value x; on_goal 2 => subst x)
    | ((try lift_lets -underBinder); intro x; subst x)
    | split
    | with_reducible refine Keeps.upd rfl rfl rfl rfl rfl rfl rfl rfl rfl ?_)

theorem takeInstr_keeps {r : State} {e : EngId} {b : BitVec 26} {s : State} (h : Keeps r s) : Keeps r (takeInstr e b s) := by
  unfold takeInstr
  repeat' (first
    | with_reducible assumption
    | with_reducible refine drain_keeps ?_
    | with_reducible refine fault_keeps ?_
    | with_reducible refine fourWaits_keeps ?_
    | with_reducible refine spend_keeps ?_
    | with_reducible refine fin_keeps ?_
    | with_reducible refine ramRead_keeps ?_
    | with_reducible refine ramRead_keeps_eq ?_ (by assumption)
    | with_reducible refine ringPop_keeps ?_
    | with_reducible refine ramStoreBytes_keeps ?_
    | with_reducible refine ramStoreBytes_keeps_eq ?_ (by assumption)
    | with_reducible rfl
    | ((try lift_lets -underBinder); intro x; refine (fun (hx : Keeps r x) => ?_) ?_; clear_value x; on_goal 2 => subst x)
    | ((try lift_lets -underBinder); intro x; subst x)
    | split
    | with_reducible refine Keeps.upd rfl rfl rfl rfl rfl rfl rfl rfl rfl ?_)

end Sys2Proof.Machine
end

