-- ==== Sys2Proof/Laws/KeepsExtInstr.lean ====
section
/-!
SUPPORT. What the operations of Machine/ExtInstr.lean keep: the queue, and the legality of the state.
-/

namespace Sys2Proof.Machine

open Sys2Proof

set_option linter.unusedTactic false
set_option linter.unreachableTactic false
set_option linter.unusedVariables false

theorem cpushInstr_keeps {r : State} {e : EngId} {b : BitVec 26} {s : State} (h : Keeps r s) : Keeps r (cpushInstr e b s) := by
  unfold cpushInstr
  repeat' (first
    | with_reducible assumption
    | with_reducible refine fin_keeps ?_
    | with_reducible refine seqPush_keeps ?_
    | with_reducible rfl
    | ((try lift_lets -underBinder); intro x; refine (fun (hx : Keeps r x) => ?_) ?_; clear_value x; on_goal 2 => subst x)
    | ((try lift_lets -underBinder); intro x; subst x)
    | split
    | with_reducible refine Keeps.upd rfl rfl rfl rfl rfl rfl rfl rfl rfl ?_)

theorem cpopInstr_keeps {r : State} {e : EngId} {b : BitVec 26} {s : State} (h : Keeps r s) : Keeps r (cpopInstr e b s) := by
  unfold cpopInstr
  repeat' (first
    | with_reducible assumption
    | with_reducible refine fin_keeps ?_
    | with_reducible refine seqPop_keeps ?_
    | with_reducible rfl
    | ((try lift_lets -underBinder); intro x; refine (fun (hx : Keeps r x) => ?_) ?_; clear_value x; on_goal 2 => subst x)
    | ((try lift_lets -underBinder); intro x; subst x)
    | split
    | with_reducible refine Keeps.upd rfl rfl rfl rfl rfl rfl rfl rfl rfl ?_)

theorem putLevel_keeps {r : State} {pkc lvl : Bool} {s : State} (h : Keeps r s) : Keeps r (putLevel pkc lvl s) := by
  unfold putLevel
  repeat' (first
    | with_reducible assumption
    | with_reducible rfl
    | ((try lift_lets -underBinder); intro x; refine (fun (hx : Keeps r x) => ?_) ?_; clear_value x; on_goal 2 => subst x)
    | ((try lift_lets -underBinder); intro x; subst x)
    | split
    | with_reducible refine Keeps.upd rfl rfl rfl rfl rfl rfl rfl rfl rfl ?_)

theorem pinrInstr_keeps {r : State} {e : EngId} {b : BitVec 26} {lvl : Bool} {s : State} (h : Keeps r s) : Keeps r
    (pinrInstr e b lvl s) := by
  unfold pinrInstr
  repeat' (first
    | with_reducible assumption
    | with_reducible refine putLevel_keeps ?_
    | with_reducible refine fin_keeps ?_
    | with_reducible rfl
    | ((try lift_lets -underBinder); intro x; refine (fun (hx : Keeps r x) => ?_) ?_; clear_value x; on_goal 2 => subst x)
    | ((try lift_lets -underBinder); intro x; subst x)
    | split
    | with_reducible refine Keeps.upd rfl rfl rfl rfl rfl rfl rfl rfl rfl ?_)

end Sys2Proof.Machine
end

