-- ==== Sys2Proof/Laws/KeepsHostOps.lean ====
section
/-!
SUPPORT. What the operations of Machine/HostOps.lean keep: the queue, and the legality of the state.
-/

namespace Sys2Proof.Machine

open Sys2Proof

set_option linter.unusedTactic false
set_option linter.unreachableTactic false
set_option linter.unusedVariables false

theorem modHst_keeps {r : State} {f : Hst → Hst} {s : State} (h : Keeps r s) : Keeps r (modHst f s) := by
  unfold modHst
  repeat' (first
    | with_reducible assumption
    | with_reducible rfl
    | ((try lift_lets -underBinder); intro x; refine (fun (hx : Keeps r x) => ?_) ?_; clear_value x; on_goal 2 => subst x)
    | ((try lift_lets -underBinder); intro x; subst x)
    | split
    | with_reducible refine Keeps.upd rfl rfl rfl rfl rfl rfl rfl rfl rfl ?_)

theorem busFreed_keeps {r : State} {s : State} (h : Keeps r s) : Keeps r (busFreed s) := by
  unfold busFreed
  repeat' (first
    | with_reducible assumption
    | with_reducible refine setF_keeps ?_
    | with_reducible rfl
    | ((try lift_lets -underBinder); intro x; refine (fun (hx : Keeps r x) => ?_) ?_; clear_value x; on_goal 2 => subst x)
    | ((try lift_lets -underBinder); intro x; subst x)
    | split
    | with_reducible refine Keeps.upd rfl rfl rfl rfl rfl rfl rfl rfl rfl ?_)

theorem hostAnswer_keeps {r : State} {acks : List Bool} {out : List Byte} {s : State} (h : Keeps r s) : Keeps r (hostAnswer
    acks out s) := by
  unfold hostAnswer
  repeat' (first
    | with_reducible assumption
    | with_reducible refine modHst_keeps ?_
    | with_reducible refine busFreed_keeps ?_
    | with_reducible rfl
    | ((try lift_lets -underBinder); intro x; refine (fun (hx : Keeps r x) => ?_) ?_; clear_value x; on_goal 2 => subst x)
    | ((try lift_lets -underBinder); intro x; subst x)
    | split
    | with_reducible refine Keeps.upd rfl rfl rfl rfl rfl rfl rfl rfl rfl ?_)

theorem refused_keeps {r : State} {s : State} (h : Keeps r s) : Keeps r (refused s) := by
  unfold refused
  repeat' (first
    | with_reducible assumption
    | with_reducible refine incSat_keeps ?_
    | with_reducible refine setF_keeps ?_
    | with_reducible rfl
    | ((try lift_lets -underBinder); intro x; refine (fun (hx : Keeps r x) => ?_) ?_; clear_value x; on_goal 2 => subst x)
    | ((try lift_lets -underBinder); intro x; subst x)
    | split
    | with_reducible refine Keeps.upd rfl rfl rfl rfl rfl rfl rfl rfl rfl ?_)

theorem pointerByte_keeps {r : State} {s : State} {v : Byte} (h : Keeps r s) : Keeps r (pointerByte s v) := by
  unfold pointerByte
  repeat' (first
    | with_reducible assumption
    | with_reducible refine wr_keeps ?_
    | with_reducible refine refused_keeps ?_
    | with_reducible refine modHst_keeps ?_
    | with_reducible rfl
    | ((try lift_lets -underBinder); intro x; refine (fun (hx : Keeps r x) => ?_) ?_; clear_value x; on_goal 2 => subst x)
    | ((try lift_lets -underBinder); intro x; subst x)
    | split
    | with_reducible refine Keeps.upd rfl rfl rfl rfl rfl rfl rfl rfl rfl ?_)

theorem unknownCmd_keeps {r : State} {s : State} (h : Keeps r s) : Keeps r (unknownCmd s) := by
  unfold unknownCmd
  repeat' (first
    | with_reducible assumption
    | with_reducible refine hostAnswer_keeps ?_
    | with_reducible refine setF_keeps ?_
    | with_reducible rfl
    | ((try lift_lets -underBinder); intro x; refine (fun (hx : Keeps r x) => ?_) ?_; clear_value x; on_goal 2 => subst x)
    | ((try lift_lets -underBinder); intro x; subst x)
    | split
    | with_reducible refine Keeps.upd rfl rfl rfl rfl rfl rfl rfl rfl rfl ?_)

theorem pointerWriteOp_keeps {r : State} {a : Nat} {fast : Bool} {bs : List Byte} {s : State} (h : Keeps r s) : Keeps r
    (pointerWriteOp a fast bs s) := by
  unfold pointerWriteOp
  repeat' (first
    | with_reducible assumption
    | with_reducible refine unknownCmd_keeps ?_
    | with_reducible refine hostAnswer_keeps ?_
    | with_reducible refine pointerByte_keeps ?_
    | with_reducible refine modHst_keeps ?_
    | with_reducible refine Keeps.fold (fun _ _ _ => ?_) ?_
    | with_reducible rfl
    | ((try lift_lets -underBinder); intro x; refine (fun (hx : Keeps r x) => ?_) ?_; clear_value x; on_goal 2 => subst x)
    | ((try lift_lets -underBinder); intro x; subst x)
    | split
    | with_reducible refine Keeps.upd rfl rfl rfl rfl rfl rfl rfl rfl rfl ?_)

theorem pointerReadOp_keeps {r : State} {a : Nat} {fast : Bool} {n : Nat} {s : State} (h : Keeps r s) : Keeps r
    (pointerReadOp a fast n s) := by
  unfold pointerReadOp
  repeat' (first
    | with_reducible assumption
    | with_reducible refine hostAnswer_keeps ?_
    | with_reducible refine hostRead_keeps ?_
    | with_reducible refine hostRead_keeps_eq ?_ (by assumption)
    | with_reducible refine modHst_keeps ?_
    | with_reducible rfl
    | ((try lift_lets -underBinder); intro x; refine (fun (hx : Keeps r x) => ?_) ?_; clear_value x; on_goal 2 => subst x)
    | ((try lift_lets -underBinder); intro x; subst x)
    | split
    | with_reducible refine Keeps.upd rfl rfl rfl rfl rfl rfl rfl rfl rfl ?_)

theorem setRes_keeps {r : State} {code res val : Nat} {s : State} (h : Keeps r s) : Keeps r (setRes code res val s) := by
  unfold setRes
  repeat' (first
    | with_reducible assumption
    | with_reducible refine setF_keeps ?_
    | with_reducible refine incWrap_keeps ?_
    | with_reducible refine wr_keeps ?_
    | with_reducible refine refused_keeps ?_
    | with_reducible rfl
    | ((try lift_lets -underBinder); intro x; refine (fun (hx : Keeps r x) => ?_) ?_; clear_value x; on_goal 2 => subst x)
    | ((try lift_lets -underBinder); intro x; subst x)
    | split
    | with_reducible refine Keeps.upd rfl rfl rfl rfl rfl rfl rfl rfl rfl ?_)

theorem hostWr_keeps {r : State} {code : Nat} {fawn : Bool} {len : List Byte → Option Nat} {args : List Byte}
    {body : List Byte → State → Nat × Nat × State} {s : State} (hb : ∀ bs s, Keeps r s → Keeps r (body bs s).2.2)
    (h : Keeps r s) : Keeps r (hostWr code fawn len args body s) := by
  have run : ∀ bs acks s, Keeps r s →
      Keeps r (hostAnswer acks [] (setRes code (body bs s).1 (body bs s).2.1 (body bs s).2.2)) :=
    fun bs acks s g => hostAnswer_keeps (setRes_keeps (hb bs s g))
  unfold hostWr
  refine Keeps.ite (hostAnswer_keeps h) (Keeps.ite (hostAnswer_keeps h) (Keeps.ite (hostAnswer_keeps (setRes_keeps h)) ?_))
  split
  · exact hostAnswer_keeps (setRes_keeps h)
  · refine Keeps.ite (hostAnswer_keeps (setRes_keeps h)) ?_
    dsimp only
    split
    · exact Keeps.ite (hostAnswer_keeps (setRes_keeps h)) (run _ _ _ h)
    · have g := injDone_keeps (tgt := 6) h
      refine Keeps.ite (run _ _ _ g) ?_
      exact hostAnswer_keeps (setRes_keeps (raise'_keeps (setF_keeps (incSat_keeps g))))

theorem hostRd_keeps {r : State} {code : Nat} {ok sr : Bool} {args : List Byte} {n : Nat} {body : State → List Byte × State}
    {s : State} (hb : ∀ s, Keeps r s → Keeps r (body s).2) (h : Keeps r s) : Keeps r (hostRd code ok sr args n body s) := by
  unfold hostRd
  split
  · exact hostAnswer_keeps h
  · split
    · refine hostAnswer_keeps ?_
      split <;> [exact h; exact setF_keeps h]
    · have g := hb s h
      generalize body s = p at g ⊢
      exact hostAnswer_keeps g

theorem readFrom_keeps {r : State} {a n : Nat} {s : State} (h : Keeps r s) : Keeps r (readFrom a n s).2 := by
  unfold readFrom
  repeat' (first
    | with_reducible assumption
    | with_reducible refine hostRead_keeps ?_
    | with_reducible refine hostRead_keeps_eq ?_ (by assumption)
    | with_reducible rfl
    | ((try lift_lets -underBinder); intro x; refine (fun (hx : Keeps r x) => ?_) ?_; clear_value x; on_goal 2 => subst x)
    | ((try lift_lets -underBinder); intro x; subst x)
    | split
    | with_reducible refine Keeps.upd rfl rfl rfl rfl rfl rfl rfl rfl rfl ?_)

theorem readFrom_keeps_eq {r u : State} {q : List Byte} {a n : Nat} {s : State} (h : Keeps r s) (hq : readFrom a n s = (q,
    u)) : Keeps r u := by
  have k := readFrom_keeps (a := a) (n := n) h
  rw [hq] at k; exact k

theorem readOp_keeps {r : State} {code k : Nat} {args : List Byte} {sr : Bool} {n : Nat} {s : State} (h : Keeps r s) : Keeps
    r (readOp code k args sr n s) := by
  unfold readOp
  repeat' (first
    | with_reducible assumption
    | ((with_reducible refine hostRd_keeps (fun _ _ => ?_) ?_) <;> try dsimp -zeta only)
    | with_reducible refine readFrom_keeps ?_
    | with_reducible refine readFrom_keeps_eq ?_ (by assumption)
    | with_reducible rfl
    | ((try lift_lets -underBinder); intro x; refine (fun (hx : Keeps r x) => ?_) ?_; clear_value x; on_goal 2 => subst x)
    | ((try lift_lets -underBinder); intro x; subst x)
    | split
    | with_reducible refine Keeps.upd rfl rfl rfl rfl rfl rfl rfl rfl rfl ?_)

theorem readBlkOp_keeps {r : State} {args : List Byte} {sr : Bool} {n : Nat} {s : State} (h : Keeps r s) : Keeps r
    (readBlkOp args sr n s) := by
  unfold readBlkOp
  repeat' (first
    | with_reducible assumption
    | ((with_reducible refine hostRd_keeps (fun _ _ => ?_) ?_) <;> try dsimp -zeta only)
    | with_reducible refine readFrom_keeps ?_
    | with_reducible refine readFrom_keeps_eq ?_ (by assumption)
    | with_reducible rfl
    | ((try lift_lets -underBinder); intro x; refine (fun (hx : Keeps r x) => ?_) ?_; clear_value x; on_goal 2 => subst x)
    | ((try lift_lets -underBinder); intro x; subst x)
    | split
    | with_reducible refine Keeps.upd rfl rfl rfl rfl rfl rfl rfl rfl rfl ?_)

theorem statusOp_keeps {r : State} {args : List Byte} {sr : Bool} {n : Nat} {s : State} (h : Keeps r s) : Keeps r (statusOp
    args sr n s) := by
  unfold statusOp
  repeat' (first
    | with_reducible assumption
    | ((with_reducible refine hostRd_keeps (fun _ _ => ?_) ?_) <;> try dsimp -zeta only)
    | with_reducible rfl
    | ((try lift_lets -underBinder); intro x; refine (fun (hx : Keeps r x) => ?_) ?_; clear_value x; on_goal 2 => subst x)
    | ((try lift_lets -underBinder); intro x; subst x)
    | split
    | with_reducible refine Keeps.upd rfl rfl rfl rfl rfl rfl rfl rfl rfl ?_)

theorem writeOp_keeps {r : State} {code k : Nat} {args : List Byte} {s : State} (h : Keeps r s) : Keeps r (writeOp code k
    args s) := by
  unfold writeOp
  repeat' (first
    | with_reducible assumption
    | ((with_reducible refine hostWr_keeps (fun _ _ _ => ?_) ?_) <;> try dsimp -zeta only)
    | with_reducible refine hostWrite_keeps ?_
    | with_reducible refine hostWrite_keeps_eq ?_ (by assumption)
    | with_reducible rfl
    | ((try lift_lets -underBinder); intro x; refine (fun (hx : Keeps r x) => ?_) ?_; clear_value x; on_goal 2 => subst x)
    | ((try lift_lets -underBinder); intro x; subst x)
    | split
    | with_reducible refine Keeps.upd rfl rfl rfl rfl rfl rfl rfl rfl rfl ?_)

theorem writeBlkOp_keeps {r : State} {args : List Byte} {s : State} (h : Keeps r s) : Keeps r (writeBlkOp args s) := by
  unfold writeBlkOp
  repeat' (first
    | with_reducible assumption
    | ((with_reducible refine hostWr_keeps (fun _ _ _ => ?_) ?_) <;> try dsimp -zeta only)
    | with_reducible refine hostRam_keeps ?_
    | with_reducible refine hostRam_keeps_eq ?_ (by assumption)
    | with_reducible rfl
    | ((try lift_lets -underBinder); intro x; refine (fun (hx : Keeps r x) => ?_) ?_; clear_value x; on_goal 2 => subst x)
    | ((try lift_lets -underBinder); intro x; subst x)
    | split
    | with_reducible refine Keeps.upd rfl rfl rfl rfl rfl rfl rfl rfl rfl ?_)

theorem hostPostOp_keeps {r : State} {args : List Byte} {s : State} (h : Keeps r s) : Keeps r (hostPostOp args s) := by
  unfold hostPostOp
  repeat' (first
    | with_reducible assumption
    | ((with_reducible refine hostWr_keeps (fun _ _ _ => ?_) ?_) <;> try dsimp -zeta only)
    | with_reducible refine ringPost_keeps ?_
    | with_reducible refine ringPost_keeps_eq ?_ (by assumption)
    | with_reducible rfl
    | ((try lift_lets -underBinder); intro x; refine (fun (hx : Keeps r x) => ?_) ?_; clear_value x; on_goal 2 => subst x)
    | ((try lift_lets -underBinder); intro x; subst x)
    | split
    | with_reducible refine Keeps.upd rfl rfl rfl rfl rfl rfl rfl rfl rfl ?_)

theorem takeBuf_keeps {r : State} {bs : List Byte} {s : State} (h : Keeps r s) : Keeps r (takeBuf bs s) := by
  unfold takeBuf
  repeat' (first
    | with_reducible assumption
    | with_reducible refine forN_keeps (fun _ _ _ => ?_) ?_
    | with_reducible refine wr_keeps ?_
    | with_reducible rfl
    | ((try lift_lets -underBinder); intro x; refine (fun (hx : Keeps r x) => ?_) ?_; clear_value x; on_goal 2 => subst x)
    | ((try lift_lets -underBinder); intro x; subst x)
    | split
    | with_reducible refine Keeps.upd rfl rfl rfl rfl rfl rfl rfl rfl rfl ?_)

theorem hostTakeOp_keeps {r : State} {args : List Byte} {s : State} (h : Keeps r s) : Keeps r (hostTakeOp args s) := by
  unfold hostTakeOp
  repeat' (first
    | with_reducible assumption
    | ((with_reducible refine hostWr_keeps (fun _ _ _ => ?_) ?_) <;> try dsimp -zeta only)
    | with_reducible refine takeBuf_keeps ?_
    | with_reducible refine ramRead_keeps ?_
    | with_reducible refine ramRead_keeps_eq ?_ (by assumption)
    | with_reducible refine ringPop_keeps ?_
    | with_reducible rfl
    | ((try lift_lets -underBinder); intro x; refine (fun (hx : Keeps r x) => ?_) ?_; clear_value x; on_goal 2 => subst x)
    | ((try lift_lets -underBinder); intro x; subst x)
    | split
    | with_reducible refine Keeps.upd rfl rfl rfl rfl rfl rfl rfl rfl rfl ?_)

theorem ringrstOp_keeps {r : State} {args : List Byte} {s : State} (h : Keeps r s) : Keeps r (ringrstOp args s) := by
  unfold ringrstOp
  repeat' (first
    | with_reducible assumption
    | ((with_reducible refine hostWr_keeps (fun _ _ _ => ?_) ?_) <;> try dsimp -zeta only)
    | with_reducible refine ringReset_keeps ?_
    | with_reducible rfl
    | ((try lift_lets -underBinder); intro x; refine (fun (hx : Keeps r x) => ?_) ?_; clear_value x; on_goal 2 => subst x)
    | ((try lift_lets -underBinder); intro x; subst x)
    | split
    | with_reducible refine Keeps.upd rfl rfl rfl rfl rfl rfl rfl rfl rfl ?_)

theorem confirmOp_keeps {r : State} {code conf : Nat} {fawn : Bool} {eff : State → Nat × State} {args : List Byte} {s : State}
    (hb : ∀ s, Keeps r s → Keeps r (eff s).2) (h : Keeps r s) : Keeps r (confirmOp code conf fawn eff args s) := by
  unfold confirmOp
  refine hostWr_keeps (fun bs s g => ?_) h
  dsimp only
  split <;> [exact hb s g; exact g]

theorem hostArmOp_keeps {r : State} {via : Option (List Byte)} {s : State} (h : Keeps r s) : Keeps r (hostArmOp via s) := by
  unfold hostArmOp
  repeat' (first
    | with_reducible assumption
    | with_reducible refine armOp_keeps ?_
    | ((with_reducible refine confirmOp_keeps (fun _ _ => ?_) ?_) <;> try dsimp -zeta only)
    | with_reducible rfl
    | ((try lift_lets -underBinder); intro x; refine (fun (hx : Keeps r x) => ?_) ?_; clear_value x; on_goal 2 => subst x)
    | ((try lift_lets -underBinder); intro x; subst x)
    | split
    | with_reducible refine Keeps.upd rfl rfl rfl rfl rfl rfl rfl rfl rfl ?_)

theorem hostDisarmOp_keeps {r : State} {via : Option (List Byte)} {s : State} (h : Keeps r s) : Keeps r (hostDisarmOp via s)
    := by
  unfold hostDisarmOp
  repeat' (first
    | with_reducible assumption
    | with_reducible refine disarmOp_keeps ?_
    | ((with_reducible refine confirmOp_keeps (fun _ _ => ?_) ?_) <;> try dsimp -zeta only)
    | with_reducible rfl
    | ((try lift_lets -underBinder); intro x; refine (fun (hx : Keeps r x) => ?_) ?_; clear_value x; on_goal 2 => subst x)
    | ((try lift_lets -underBinder); intro x; subst x)
    | split
    | with_reducible refine Keeps.upd rfl rfl rfl rfl rfl rfl rfl rfl rfl ?_)

theorem hostFawnOp_keeps {r : State} {via : Option (List Byte)} {s : State} (h : Keeps r s) : Keeps r (hostFawnOp via s) := by
  unfold hostFawnOp
  repeat' (first
    | with_reducible assumption
    | with_reducible refine fawnOp_keeps ?_
    | ((with_reducible refine confirmOp_keeps (fun _ _ => ?_) ?_) <;> try dsimp -zeta only)
    | with_reducible rfl
    | ((try lift_lets -underBinder); intro x; refine (fun (hx : Keeps r x) => ?_) ?_; clear_value x; on_goal 2 => subst x)
    | ((try lift_lets -underBinder); intro x; subst x)
    | split
    | with_reducible refine Keeps.upd rfl rfl rfl rfl rfl rfl rfl rfl rfl ?_)

theorem hostFawnExitOp_keeps {r : State} {args : List Byte} {s : State} (h : Keeps r s) : Keeps r (hostFawnExitOp args s) := by
  unfold hostFawnExitOp
  repeat' (first
    | with_reducible assumption
    | ((with_reducible refine confirmOp_keeps (fun _ _ => ?_) ?_) <;> try dsimp -zeta only)
    | with_reducible refine fawnExitReq_keeps ?_
    | with_reducible refine fawnExitReq_keeps_eq ?_ (by assumption)
    | with_reducible rfl
    | ((try lift_lets -underBinder); intro x; refine (fun (hx : Keeps r x) => ?_) ?_; clear_value x; on_goal 2 => subst x)
    | ((try lift_lets -underBinder); intro x; subst x)
    | split
    | with_reducible refine Keeps.upd rfl rfl rfl rfl rfl rfl rfl rfl rfl ?_)

theorem fusewrOp_keeps {r : State} {args : List Byte} {mv : Nat} {s : State} (h : Keeps r s) : Keeps r (fusewrOp args mv s)
    := by
  unfold fusewrOp
  repeat' (first
    | with_reducible assumption
    | ((with_reducible refine hostWr_keeps (fun _ _ _ => ?_) ?_) <;> try dsimp -zeta only)
    | with_reducible refine notify_keeps ?_
    | with_reducible refine modSup_keeps ?_ ?_
    | with_reducible rfl
    | ((try lift_lets -underBinder); intro x; refine (fun (hx : Keeps r x) => ?_) ?_; clear_value x; on_goal 2 => subst x)
    | ((try lift_lets -underBinder); intro x; subst x)
    | split
    | with_reducible refine Keeps.upd rfl rfl rfl rfl rfl rfl rfl rfl rfl ?_)

theorem fuseDoneOp_keepsL {r s : State} {back : Nat} (h : Keeps r s) : KeepsL r (fuseDoneOp back s) := by
  unfold fuseDoneOp
  split
  · exact h.weak
  · refine h.weak.trans (KeepsL.trans (b := _) ?_ (Keeps.weak (notify_keeps (wr_keeps (setF_keeps Keeps.refl)))))
    exact ⟨rfl, fun x => ⟨⟨x.ram, x.store, x.index, x.tick, x.log, x.hist, x.tags⟩, x.back⟩⟩

theorem notifyFail_keeps {r : State} {s : State} (h : Keeps r s) : Keeps r (notifyFail s) := by
  unfold notifyFail
  repeat' (first
    | with_reducible assumption
    | with_reducible refine modHst_keeps ?_
    | with_reducible refine incSat_keeps ?_
    | with_reducible refine setF_keeps ?_
    | with_reducible rfl
    | ((try lift_lets -underBinder); intro x; refine (fun (hx : Keeps r x) => ?_) ?_; clear_value x; on_goal 2 => subst x)
    | ((try lift_lets -underBinder); intro x; subst x)
    | split
    | with_reducible refine Keeps.upd rfl rfl rfl rfl rfl rfl rfl rfl rfl ?_)

theorem notifyFree_keeps {r : State} {s : State} (h : Keeps r s) : Keeps r (notifyFree s) := by
  unfold notifyFree
  repeat' (first
    | with_reducible assumption
    | with_reducible refine busFreed_keeps ?_
    | with_reducible rfl
    | ((try lift_lets -underBinder); intro x; refine (fun (hx : Keeps r x) => ?_) ?_; clear_value x; on_goal 2 => subst x)
    | ((try lift_lets -underBinder); intro x; subst x)
    | split
    | with_reducible refine Keeps.upd rfl rfl rfl rfl rfl rfl rfl rfl rfl ?_)

theorem notifyRecover_keeps {r : State} {recov : Bool} {s : State} (h : Keeps r s) : Keeps r (notifyRecover recov s) := by
  unfold notifyRecover
  repeat' (first
    | with_reducible assumption
    | with_reducible refine setF_keeps ?_
    | with_reducible rfl
    | ((try lift_lets -underBinder); intro x; refine (fun (hx : Keeps r x) => ?_) ?_; clear_value x; on_goal 2 => subst x)
    | ((try lift_lets -underBinder); intro x; subst x)
    | split
    | with_reducible refine Keeps.upd rfl rfl rfl rfl rfl rfl rfl rfl rfl ?_)

theorem notifyRun_keeps {r : State} {recov : Bool} {ev : NotifyEv} {s : State} (h : Keeps r s) : Keeps r (notifyRun recov ev
    s) := by
  unfold notifyRun
  repeat' (first
    | with_reducible assumption
    | with_reducible refine notifyRecover_keeps ?_
    | with_reducible refine modHst_keeps ?_
    | with_reducible refine incWrap_keeps ?_
    | with_reducible refine setF_keeps ?_
    | with_reducible refine notifyFail_keeps ?_
    | with_reducible refine incSat_keeps ?_
    | with_reducible refine raise'_keeps ?_
    | with_reducible refine notifyFree_keeps ?_
    | with_reducible rfl
    | ((try lift_lets -underBinder); intro x; refine (fun (hx : Keeps r x) => ?_) ?_; clear_value x; on_goal 2 => subst x)
    | ((try lift_lets -underBinder); intro x; subst x)
    | split
    | with_reducible refine Keeps.upd rfl rfl rfl rfl rfl rfl rfl rfl rfl ?_)

theorem hostNotifyOp_keeps {r : State} {recov : Bool} {ev : NotifyEv} {s : State} (h : Keeps r s) : Keeps r (hostNotifyOp
    recov ev s) := by
  unfold hostNotifyOp
  repeat' (first
    | with_reducible assumption
    | with_reducible refine notifyRun_keeps ?_
    | with_reducible rfl
    | ((try lift_lets -underBinder); intro x; refine (fun (hx : Keeps r x) => ?_) ?_; clear_value x; on_goal 2 => subst x)
    | ((try lift_lets -underBinder); intro x; subst x)
    | split
    | with_reducible refine Keeps.upd rfl rfl rfl rfl rfl rfl rfl rfl rfl ?_)

theorem notifyRetryOp_keeps {r : State} {recov : Bool} {ev : NotifyEv} {s : State} (h : Keeps r s) : Keeps r (notifyRetryOp
    recov ev s) := by
  unfold notifyRetryOp
  repeat' (first
    | with_reducible assumption
    | with_reducible refine notifyRun_keeps ?_
    | with_reducible rfl
    | ((try lift_lets -underBinder); intro x; refine (fun (hx : Keeps r x) => ?_) ?_; clear_value x; on_goal 2 => subst x)
    | ((try lift_lets -underBinder); intro x; subst x)
    | split
    | with_reducible refine Keeps.upd rfl rfl rfl rfl rfl rfl rfl rfl rfl ?_)

theorem notifyRepeatOp_keeps {r : State} {s : State} (h : Keeps r s) : Keeps r (notifyRepeatOp s) := by
  unfold notifyRepeatOp
  repeat' (first
    | with_reducible assumption
    | with_reducible refine modHst_keeps ?_
    | with_reducible rfl
    | ((try lift_lets -underBinder); intro x; refine (fun (hx : Keeps r x) => ?_) ?_; clear_value x; on_goal 2 => subst x)
    | ((try lift_lets -underBinder); intro x; subst x)
    | split
    | with_reducible refine Keeps.upd rfl rfl rfl rfl rfl rfl rfl rfl rfl ?_)

theorem discardWrite_keeps {r : State} {code : Option Byte} {s : State} (h : Keeps r s) : Keeps r (discardWrite code s) := by
  unfold discardWrite
  repeat' (first
    | with_reducible assumption
    | with_reducible refine setRes_keeps ?_
    | with_reducible rfl
    | ((try lift_lets -underBinder); intro x; refine (fun (hx : Keeps r x) => ?_) ?_; clear_value x; on_goal 2 => subst x)
    | ((try lift_lets -underBinder); intro x; subst x)
    | split
    | with_reducible refine Keeps.upd rfl rfl rfl rfl rfl rfl rfl rfl rfl ?_)

theorem srackOp_keeps {r : State} {c : SrackCase} {s : State} (h : Keeps r s) : Keeps r (srackOp c s) := by
  unfold srackOp
  repeat' (first
    | with_reducible assumption
    | with_reducible refine incSat_keeps ?_
    | with_reducible refine setF_keeps ?_
    | with_reducible refine raise'_keeps ?_
    | with_reducible refine discardWrite_keeps ?_
    | with_reducible refine notifyFail_keeps ?_
    | with_reducible refine notifyRecover_keeps ?_
    | with_reducible rfl
    | ((try lift_lets -underBinder); intro x; refine (fun (hx : Keeps r x) => ?_) ?_; clear_value x; on_goal 2 => subst x)
    | ((try lift_lets -underBinder); intro x; subst x)
    | split
    | with_reducible refine Keeps.upd rfl rfl rfl rfl rfl rfl rfl rfl rfl ?_)

theorem targetTimeoutOp_keeps {r : State} {code : Option Byte} {s : State} (h : Keeps r s) : Keeps r (targetTimeoutOp code
    s) := by
  unfold targetTimeoutOp
  repeat' (first
    | with_reducible assumption
    | with_reducible refine incSat_keeps ?_
    | with_reducible refine setF_keeps ?_
    | with_reducible refine discardWrite_keeps ?_
    | with_reducible rfl
    | ((try lift_lets -underBinder); intro x; refine (fun (hx : Keeps r x) => ?_) ?_; clear_value x; on_goal 2 => subst x)
    | ((try lift_lets -underBinder); intro x; subst x)
    | split
    | with_reducible refine Keeps.upd rfl rfl rfl rfl rfl rfl rfl rfl rfl ?_)

theorem notifyTimeoutOp_keeps {r : State} {recov : Bool} {s : State} (h : Keeps r s) : Keeps r (notifyTimeoutOp recov s) := by
  unfold notifyTimeoutOp
  repeat' (first
    | with_reducible assumption
    | with_reducible refine setF_keeps ?_
    | with_reducible refine notifyFail_keeps ?_
    | with_reducible refine notifyRecover_keeps ?_
    | with_reducible rfl
    | ((try lift_lets -underBinder); intro x; refine (fun (hx : Keeps r x) => ?_) ?_; clear_value x; on_goal 2 => subst x)
    | ((try lift_lets -underBinder); intro x; subst x)
    | split
    | with_reducible refine Keeps.upd rfl rfl rfl rfl rfl rfl rfl rfl rfl ?_)

theorem busStore_keeps {r : State} {who : Option EngId} {a n v : Nat} {s : State} (h : Keeps r s) : Keeps r (busStore who a
    n v s) := by
  unfold busStore
  repeat' (first
    | with_reducible assumption
    | with_reducible refine takeException_keeps ?_
    | with_reducible refine engStore_keeps ?_
    | with_reducible refine engStore_keeps_eq ?_ (by assumption)
    | with_reducible refine refused_keeps ?_
    | with_reducible refine hostWrite_keeps ?_
    | with_reducible refine hostWrite_keeps_eq ?_ (by assumption)
    | with_reducible rfl
    | ((try lift_lets -underBinder); intro x; refine (fun (hx : Keeps r x) => ?_) ?_; clear_value x; on_goal 2 => subst x)
    | ((try lift_lets -underBinder); intro x; subst x)
    | split
    | with_reducible refine Keeps.upd rfl rfl rfl rfl rfl rfl rfl rfl rfl ?_)

theorem busStoreOp_keeps {r : State} {who : Option EngId} {a n v : Nat} {s : State} (h : Keeps r s) : Keeps r (busStoreOp
    who a n v s) := by
  unfold busStoreOp
  repeat' (first
    | with_reducible assumption
    | with_reducible refine busStore_keeps ?_
    | with_reducible rfl
    | ((try lift_lets -underBinder); intro x; refine (fun (hx : Keeps r x) => ?_) ?_; clear_value x; on_goal 2 => subst x)
    | ((try lift_lets -underBinder); intro x; subst x)
    | split
    | with_reducible refine Keeps.upd rfl rfl rfl rfl rfl rfl rfl rfl rfl ?_)

end Sys2Proof.Machine
end

