-- ==== Sys2Proof/Laws/KeepsRingCmds.lean ====
section
/-!
SUPPORT. What the operations of Machine/RingCmds.lean keep: the queue, and the legality of the state.
-/

namespace Sys2Proof.Machine

open Sys2Proof

set_option linter.unusedTactic false
set_option linter.unreachableTactic false
set_option linter.unusedVariables false

theorem nopOp_keeps {r : State} {s : State} (h : Keeps r s) : Keeps r (nopOp s) := by
  unfold nopOp
  repeat' (first
    | with_reducible assumption
    | with_reducible refine dispatch_keeps ?_
    | with_reducible rfl
    | ((try lift_lets -underBinder); intro x; refine (fun (hx : Keeps r x) => ?_) ?_; clear_value x; on_goal 2 => subst x)
    | ((try lift_lets -underBinder); intro x; subst x)
    | split
    | with_reducible refine Keeps.upd rfl rfl rfl rfl rfl rfl rfl rfl rfl ?_)

end Sys2Proof.Machine
end

