-- ==== Sys2Proof/WellFormed.lean ====
section
/-!
DEFINITION. Well-formed commands: what a command's operands must be for it to describe an event of this part. The lists have the
lengths of the rules they come from; a value of a fixed width fits it. `exec` asks for none of this: an ill-formed command
still has an effect, of which the manual says nothing.
-/

namespace Sys2Proof

/-- Frame averages cover six phases and four ports, and the stream has 32 samples a frame (R26, R83, R283). -/
def FrameObs.wf (o : FrameObs) : Bool := o.ph.length == 6 && o.ports.length == 4 && o.imp.length == 32

/-- A measurement covers four ports (R181). -/
def PortObs.wf (o : PortObs) : Bool := o.mv.length == 4 && o.vds.length == 4

/-- A transaction reads at most 32 bytes, a count byte and a check byte, and names one of its bytes (R328). -/
def PkbEv.wf : PkbEv → Bool
  | .done rx => decide (rx.length ≤ 34)
  | .nack idx => decide (idx < 69)
  | .arb idx bit => decide (idx < 69) && decide (bit < 8)
  | .arbStop idx => decide (idx ≤ 69)
  | .srack idx => decide (idx < 69)
  | .hang | .free => true

/-- Is the command well formed? -/
def Instr.wf (i : Instr) : Bool :=
  match i with
  | .frameTick o => o.wf
  | .engineRelease => true
  | .superframeBoundary => true
  | .idleFramesFawn => true
  | .thermalUpdate o => o.die.length == 7 && o.tr.length == 4
  | .clockMonitorCheck _ => true
  | .hfoFailed => true
  | .receiveLockLoss => true
  | .xiStatusChange _ => true
  | .aoPowerOn _ _ => true
  | .vccPowerOn _ => true
  | .vdrvResense _ => true
  | .bootTick o => o.wf
  | .vccLoss _ => true
  | .vccPathChange _ _ => true
  | .bootstrapUv _ _ _ => true
  | .vdrvOutOfBand => true
  | .shipRequest _ _ => true
  | .shipExitWake _ _ => true
  | .shipExitSource _ => true
  | .wakePress _ => true
  | .wakeStuck => true
  | .engineReset _ => true
  | .engineHalt _ => true
  | .selectorUpdate _ => true
  | .switchingCycle _ o => !o.vs.isEmpty
  | .lightLoadEntry => true
  | .phaseAdd => true
  | .phaseShed => true
  | .phaseHardOc _ _ => true
  | .phaseReadmit _ => true
  | .gateFeedbackFault _ => true
  | .phaseImbalance _ => true
  | .portMeasurement o => o.wf
  | .reverseCurrentTrip _ _ _ => true
  | .hbusFallTrip _ => true
  | .handoverHoldEnd => true
  | .lostPortTimeout => true
  | .qualificationComplete _ => true
  | .handbackClose => true
  | .handbackComplete => true
  | .lockoutEnd _ => true
  | .hbusOvTrip _ => true
  | .hbusOvRelease _ => true
  | .hbusUvTrip _ => true
  | .sagShed _ => true
  | .sagRestart _ => true
  | .packStart => true
  | .packUndervoltage _ => true
  | .sidRead _ => true
  | .sidRateWindowEnd => true
  | .sidStuck => true
  | .s1Overcurrent _ => true
  | .s1Backfeed _ => true
  | .s1Reentry => true
  | .typecAttach _ => true
  | .typecDetach _ => true
  | .rpLevelRead _ => true
  | .sourceCapabilitiesRx epr _ objs => decide (1 ≤ objs.length) && decide (objs.length ≤ if epr then 11 else 7)
  | .acceptRx _ => true
  | .rejectRx _ => true
  | .waitRx _ => true
  | .psRdyRx _ => true
  | .eprModeRx _ _ objs => objs.length == 1
  | .softResetRx _ => true
  | .hardResetRx => true
  | .pingRx _ => true
  | .eprKeepaliveAckRx _ => true
  | .unsupportedMessageRx _ => true
  | .sinkWaitCapTimer => true
  | .retransmissionTimer => true
  | .senderResponseTimer => true
  | .psTransitionTimer => true
  | .eprKeepaliveTimer => true
  | .eprEntryTimeout => true
  | .pdRequest => true
  | .pdRequestAfterRelease => true
  | .eprRequest => true
  | .getSourceCap => true
  | .eprModeEnter => true
  | .eprModeExit => true
  | .softResetCmd => true
  | .hardResetCmd => true
  | .descriptorLatch => true
  | .latchComplete => true
  | .packOvTrip _ => true
  | .packOcTrip _ => true
  | .presenceOpenDetect => true
  | .currentCollapseDetect _ => true
  | .packAbsent => true
  | .packPresence => true
  | .identifyBackstop => true
  | .recoverAttemptEnd => true
  | .taperEndBackstop => true
  | .temperatureBandChange => true
  | .suspendTempExit => true
  | .temperatureStale => true
  | .rechargeThreshold => true
  | .pkDgCloseComplete => true
  | .packCurrentRampEnd => true
  | .lampPatternStep _ => true
  | .impGroupLeadInEnd => true
  | .impGroupIntegrationEnd => true
  | .impCancel => true
  | .pktRead _ => true
  | .pkiRead _ => true
  | .presenceChange _ _ => true
  | .presenceRateWindowEnd _ => true
  | .presenceStuck _ => true
  | .pkpOwnWrite _ _ => true
  | .pkpRtempWrite _ => true
  | .sequencerPush _ _ => true
  | .sequencerPop _ => true
  | .sequencerCellEnd _ _ _ time => decide (time < 2 ^ 24)
  | .sequencerFlush _ => true
  | .sequencerDisable _ => true
  | .pkbArbRetry _ ev => ev.wf
  | .pkbClockTimeout idx => decide (idx < 128)
  | .alu _ _ => true
  | .addi _ _ => true
  | .andi _ _ => true
  | .ori _ _ => true
  | .xori _ _ => true
  | .shi _ _ => true
  | .slti _ _ => true
  | .sltiu _ _ => true
  | .lui _ _ => true
  | .li _ _ => true
  | .mulg _ _ => true
  | .divg _ _ => true
  | .ldb _ _ => true
  | .ldbu _ _ => true
  | .ldh _ _ => true
  | .ldhu _ _ => true
  | .ldw _ _ => true
  | .stb _ _ => true
  | .sth _ _ => true
  | .stw _ _ => true
  | .storeLands _ => true
  | .amo _ _ => true
  | .ldp _ _ => true
  | .br _ _ => true
  | .bf _ _ => true
  | .jal _ _ => true
  | .jalr _ _ => true
  | .j _ _ => true
  | .yield _ _ => true
  | .halt _ _ => true
  | .trap _ _ => true
  | .eret _ _ => true
  | .mfs _ _ => true
  | .mts _ _ => true
  | .post _ _ => true
  | .take _ _ => true
  | .macg _ _ => true
  | .accg _ _ => true
  | .qg _ _ => true
  | .cg _ _ => true
  | .fng _ _ => true
  | .sqg _ _ => true
  | .divag _ _ => true
  | .cpush _ _ => true
  | .cpop _ _ => true
  | .cbit _ _ => true
  | .wcls _ _ => true
  | .crc8 _ _ => true
  | .pinr _ _ _ => true
  | .lineBufferFill e _ word => word.all (fun w => (decodeRaura e w).isNone)
  | .operationDispatch _ => true
  | .thHardTrip _ => true
  | .notifyClockTimeout _ => true
  | .nop => true
  | .adcConv vals => decide (1 ≤ vals.length) && decide (vals.length ≤ 16)
  | .impSweep => true
  | .pkbXfer _ ev => ev.wf
  | .crcScan => true
  | .psWrite _ => true
  | .lnkSend => true
  | .lnkRecv => true
  | .ship _ _ => true
  | .ringConfigWrite _ _ _ => true
  | .quotaWrite _ _ => true
  | .scrubLine => true
  | .arm _ => true
  | .armVerifyDone => true
  | .disarm _ => true
  | .bankSwap => true
  | .checkWindowClose => true
  | .imageRecovery => true
  | .beaconReceived bytes _ _ _ recs => bytes.length == 16 && recs.all (fun r => r.1.length == 8)
  | .commandSlotReceived bytes _ => bytes.length == 48
  | .budgetRecord => true
  | .rollcall => true
  | .messageReceived bytes _ _ => decide (63 ≤ bytes.length) && decide (bytes.length ≤ 72)
  | .messageReturnLead bytes _ => decide (63 ≤ bytes.length) && decide (bytes.length ≤ 72)
  | .messageReturnSource bytes _ => decide (63 ≤ bytes.length) && decide (bytes.length ≤ 72)
  | .messageSend slot _ => decide (slot < 27)
  | .messageTimeout => true
  | .linkTraining _ => true
  | .claimStart => true
  | .beaconLoss => true
  | .claimAfterLoss => true
  | .leadHeaderLoss => true
  | .linkRollRequest => true
  | .linkEnableWrite _ => true
  | .pointerWrite _ _ _ => true
  | .pointerRead _ _ _ => true
  | .read8 _ _ _ => true
  | .read16 _ _ _ => true
  | .read32 _ _ _ => true
  | .readblk _ _ _ => true
  | .write8 _ => true
  | .write16 _ => true
  | .write32 _ => true
  | .writeblk _ => true
  | .status _ _ _ => true
  | .hostPost _ => true
  | .hostTake _ => true
  | .ringrst _ => true
  | .fusewr _ _ => true
  | .fuseWriteComplete _ => true
  | .fawn _ => true
  | .fawnexit _ => true
  | .fawnExit => true
  | .hostNotify _ _ => true
  | .hostNotifyRepeat => true
  | .notifyArbRetry _ _ => true
  | .startInAckSlot _ => true
  | .targetTimeout _ => true
  | .hstNsetWrite _ => true
  | .watchdogStart => true
  | .watchdogKeyWrite _ => true
  | .watchdogService _ => true
  | .watchdogCheckin _ _ => true
  | .watchdogConfigWrite _ _ => true
  | .openWindowClose => true
  | .watchdogExpiry => true
  | .thStopRelease => true
  | .thHardRelease => true
  | .escalationWindowClose _ => true
  | .fenceRelease _ _ => true
  | .faultConfigWrite _ _ => true
  | .faultInjectionArm _ => true
  | .logClear => true
  | .logSelect _ => true
  | .logPut _ _ => true
  | .timerReload _ => true
  | .timerMatch _ => true
  | .timerCapture _ _ _ => true
  | .tioStuck _ => true
  | .timerCounterWrite _ _ => true
  | .timerCompareWrite _ _ => true
  | .timerPeriodWrite _ _ => true
  | .timerCaptureRead _ => true
  | .timerStaggerLoad _ => true
  | .registerWrite _ _ _ _ => true
  | .wakePressEnd => true
  | .errToggle => true
  | .vdrvBackInBand => true
  | .aoRetentionLoss => true
  | .goodcrcReceived => true
  | .countEdge _ _ _ => true

end Sys2Proof
end

