-- ==== Sys2Proof/Tests/Slice0.lean ====
section
/-!
SUPPORT. Tests. Ill-formed commands that `Instr.wf` refuses, one for each of its checks; then, for every statement with
hypotheses, states and operands that meet them, clause by clause (`witness_…`); and beside them a few effects whose values come
from the rule that the test's comment names (`test_…`).
-/

namespace Sys2Proof.Tests

open Sys2Proof Sys2Proof.Machine

/-! ## Benches -/

/-- Frames may run and HSQ's values are in force: every register, and live value, 0 but for the fields listed. -/
def bench (fs : List (Fld × Nat)) : State :=
  fs.foldl (fun s p => let s := setF p.1 p.2 s; if isSH p.1.addr then lsetF p.1 p.2 s else s)
    { State.reset with regs := [], live := [], sup := { State.reset.sup with power := .on, hsqLive := true } }

/-- That bench with one block's state changed. -/
def clkB (f : Clk → Clk) (fs : List (Fld × Nat)) : State := let s := bench fs; { s with clk := f s.clk }
def supB (f : Sup → Sup) (fs : List (Fld × Nat)) : State := let s := bench fs; { s with sup := f s.sup }
def storeB (f : Store → Store) (fs : List (Fld × Nat)) : State := let s := bench fs; { s with store := f s.store }
def fltB (f : Flt → Flt) (fs : List (Fld × Nat)) : State := let s := bench fs; { s with flt := f s.flt }
def pwrB (f : Pwr → Pwr) (fs : List (Fld × Nat)) : State := let s := bench fs; { s with pwr := f s.pwr }
def hubB (f : Hub → Hub) (fs : List (Fld × Nat)) : State := let s := bench fs; { s with hub := f s.hub }
def chgB (f : Chg → Chg) (fs : List (Fld × Nat)) : State := let s := bench fs; { s with chg := f s.chg }
def pkB (f : Pk → Pk) (fs : List (Fld × Nat)) : State := let s := bench fs; { s with pk := f s.pk }
def tcpB (f : Tcp → Tcp) (fs : List (Fld × Nat)) : State := let s := bench fs; { s with tcp := f s.tcp }
def lnkB (f : Lnk → Lnk) (fs : List (Fld × Nat)) : State := let s := bench fs; { s with lnk := f s.lnk }
def hstB (f : Hst → Hst) (fs : List (Fld × Nat)) : State := let s := bench fs; { s with hst := f s.hst }
def wdgB (f : Wdg → Wdg) (fs : List (Fld × Nat)) : State := let s := bench fs; { s with wdg := f s.wdg }

/-- The next state that a command answers. -/
def run (c : Instr) (s : State) : State := match exec c s with | .next t => t | _ => s

/-- A legal state, by its checks. -/
theorem legalOf {s : State} (h : ramWf s.mem = true ∧ cellsWf none s.store.bytes = true ∧ s.clk.fidx < 50 ∧ s.clk.sft < 2000 ∧
    s.flt.log.length ≤ 256 ∧ s.flt.hist.length ≤ 16 ∧ (s.rng.tags.map (fun t => t.tag)).Nodup ∧ s.wback.isNone = true) : Legal s :=
  ⟨⟨h.1, h.2.1, h.2.2.1, h.2.2.2.1, h.2.2.2.2.1, h.2.2.2.2.2.1, h.2.2.2.2.2.2.1⟩, fun _ e => by simp [e] at h⟩

/-- An engine that executes at 0x0040, its line in a buffer, with x1 = 5 and x2 = 3. -/
def eng0 : Eng :=
  { Eng.reset with
    phase := .running, pc := 0x40, cstart := 0x40, cend := 0x1000, entry := 0x40, vec := 0x80, lines := [(1, 0)]
    x := ((Vector.replicate 16 0).set 1 5).set 2 3 }

/-- That engine, changed, as engine `e` of a bench. -/
def engBench (e : EngId) (f : Eng → Eng) (fs : List (Fld × Nat)) : State := putEng e (f eng0) (bench fs)

/-- The word fields of an instruction: rd, rs1, rs2 and the immediate. -/
def fields (rd rs1 rs2 imm : Nat) : BitVec 26 := BitVec.ofNat 26 (rd * 2 ^ 22 + rs1 * 2 ^ 18 + rs2 * 2 ^ 14 + imm)

/-- One tag in use: state, ring and request, the rest of its 16 bytes 0. -/
def tag (k ring : Nat) (st : TagSt) (ent : List Byte) : TagRec := ⟨k, ring, st, ent ++ List.replicate (16 - ent.length) 0, 0⟩

/-- A bench with tags in use, and ring 0 and 16 enabled at 0x4480 and 0x4800 with 4 slots. -/
def ringBench (ts : List TagRec) (fs : List (Fld × Nat)) : State :=
  putTags ts (bench ([(whole (RNG_CFG 0), 0x80024480), (whole (RNG_CFG 16), 0x80024800), (RNG_QUOTA0_CSQ, 8), (RNG_QUOTA1_HOST, 8)] ++ fs))

/-- An observation of a frame, of a microsecond, and of the ports. -/
def frameObs : FrameObs := ⟨0, 0, 0, 0, 0, List.replicate 6 0, List.replicate 4 0, 0, List.replicate 32 (0, 0), 0⟩
def fastObs (vPk vHb : Nat) : FastObs := ⟨vPk, vHb, vPk, 0, 0⟩

/-! ## Well-formed commands -/

theorem test_wf_frame : (Instr.frameTick frameObs).wf = true ∧ (Instr.frameTick { frameObs with ph := [] }).wf = false ∧
    (Instr.frameTick { frameObs with ports := [] }).wf = false ∧ (Instr.bootTick { frameObs with imp := [] }).wf = false := by decide

theorem test_wf_measured : (Instr.thermalUpdate ⟨[], List.replicate 4 ⟨0, 0, 0⟩, 0⟩).wf = false ∧
    (Instr.thermalUpdate ⟨List.replicate 7 0, [], 0⟩).wf = false ∧ (Instr.portMeasurement ⟨[], List.replicate 4 0, fastObs 0 0⟩).wf = false ∧
    (Instr.portMeasurement ⟨List.replicate 4 0, [], fastObs 0 0⟩).wf = false ∧
    (Instr.switchingCycle 0 ⟨[], ⟨0, 0⟩, ⟨0, 0⟩⟩).wf = false ∧ (Instr.adcConv []).wf = false ∧
    (Instr.adcConv (List.replicate 17 0)).wf = false := by decide

theorem test_wf_port : (Instr.sourceCapabilitiesRx false 0 []).wf = false ∧
    (Instr.sourceCapabilitiesRx false 0 (List.replicate 8 0)).wf = false ∧ (Instr.sourceCapabilitiesRx true 0 (List.replicate 8 0)).wf = true ∧
    (Instr.sourceCapabilitiesRx true 0 (List.replicate 12 0)).wf = false ∧ (Instr.eprModeRx .exit 0 []).wf = false := by decide

theorem test_wf_pack : (Instr.sequencerCellEnd 0 true true (2 ^ 24)).wf = false ∧ (Instr.pkbClockTimeout 128).wf = false ∧
    (Instr.pkbXfer false (.done (List.replicate 35 0))).wf = false ∧ (Instr.pkbXfer false (.nack 69)).wf = false ∧
    (Instr.pkbArbRetry false (.arb 69 0)).wf = false ∧ (Instr.pkbArbRetry false (.arb 0 8)).wf = false ∧
    (Instr.pkbXfer false (.arbStop 70)).wf = false ∧ (Instr.pkbXfer false (.srack 69)).wf = false ∧
    (Instr.pkbXfer false .hang).wf = true := by decide

theorem test_wf_link : (Instr.beaconReceived [] false 0 0 []).wf = false ∧
    (Instr.beaconReceived (List.replicate 16 0) false 0 0 [([], false)]).wf = false ∧ (Instr.commandSlotReceived [] false).wf = false ∧
    (Instr.messageReceived (List.replicate 62 0) false false).wf = false ∧ (Instr.messageReturnLead (List.replicate 73 0) false).wf = false ∧
    (Instr.messageReturnSource [] false).wf = false ∧ (Instr.messageSend 27 false).wf = false := by decide

/-! ## The machine -/

theorem witness_StepIdles : (bench []).pending = [] := by decide

theorem witness_CommandsAnswerNext : exec .nop (bench []) = .next (bench []) := rfl

theorem witness_StepKeepsLegal : Legal (bench []) ∧ step (bench []) = .next (bench []) := ⟨legalOf (by decide), rfl⟩

theorem witness_OnlyRowsThatMay : (∀ o, Instr.nop ≠ .frameTick o) ∧ (∀ o, Instr.nop ≠ .vccPowerOn o) ∧ (∀ a, Instr.nop ≠ .vccLoss a) ∧
    Instr.nop ≠ .aoRetentionLoss ∧ (∀ b, Instr.nop ≠ .fuseWriteComplete b) ∧ exec .nop (bench []) = .next (bench []) := by
  refine ⟨?_, ?_, ?_, ?_, ?_, rfl⟩ <;> intros <;> nofun

theorem witness_RauraRoundTrip : encodeRaura (.yield .pe0 0) = some (.pe0, 0b101000_00000000000000000000000000#32) ∧
    decodeRaura .pe0 0b101000_00000000000000000000000000#32 = some (.yield .pe0 0) := by decide

theorem test_raura_words : decodeRaura .hsq 0b000001_0111_0010_0011_00000000000001#32 = some (.alu .hsq (fields 7 2 3 1)) ∧
    decodeRaura .csq 0b100001_0001_0000_111111111111111111#32 = some (.bf .csq 0b0001_0000_111111111111111111#26) ∧
    decodeRaura .pe1 0b111010_0010_0001_0000_00000000011111#32 = some (.cbit .pe1 (fields 2 1 0 31)) ∧
    decodeRaura .csq 0 = none := by decide

/-- One event of HST_PEC, of class `c`. -/
def evBench (c : Nat) (seen : List Nat) (fs : List (Fld × Nat)) : State :=
  let s := bench ((FLT_CFG_N srcHstPec, 255) :: fs)
  { s with evq := [⟨srcHstPec, c, none, 0⟩], flt := { s.flt with seenSf := seen } }

theorem mild_bench : Mild (evBench 1 [] []) ∧ Mild (evBench 1 [srcHstPec] []) ∧ Mild (evBench 2 [] [(FLT_CFG_REACT srcHstPec, 1)]) := by
  decide

theorem witness_EventCollected : srcHstPec < 37 ∧ (evBench 1 [] []).logq = [] ∧ srcHstPec ∉ (evBench 1 [] []).flt.seenSf ∧
    srcHstPec ∈ (evBench 1 [srcHstPec] []).flt.seenSf ∧
    flag (sevBit srcHstPec) (settle (evBench 1 [srcHstPec] [])) = flag (sevBit srcHstPec) (evBench 1 [srcHstPec] []) ∧
    flag (sevBit srcHstPec) (settle (evBench 1 [] [])) = false ∧
    fld (FLT_CFG_REACT srcHstPec) (evBench 2 [] [(FLT_CFG_REACT srcHstPec, 1)]) = 1 ∧ srcHstPec ∉ [9, 26, 31, 33] := by decide

theorem witness_CompletionEntry : let r := tag 3 16 .running [1]
    let s := ringBench [r] []
    Legal s ∧ r ∈ s.rng.tags ∧ r.st ≠ .orphan ∧ r.ent.length = 16 ∧ r.tag < 128 ∧ r.ring < 32 ∧ 16 ≤ r.ring ∧ r.ring < 24 ∧
      ringBase r.ring s + 16 * (ringPtr r.ring s).1 = 0x4800 := ⟨legalOf (by decide), by decide⟩

/-- Three set points are marked, one by an engine. -/
def markBench : State := { bench [] with marks := [(PWR_FSW, true), (CHG_VSET, true), (CHG_ISET, false)] }

theorem witness_SetPointsGoLive : let s := markBench
    vccOn s = true ∧ s.flt.parBad = [] ∧ isSH PWR_FSW = true ∧ PWR_FSW ∈ dueSets s ∧ CHG_VSET ∈ dueSets s ∧ CHG_ISET ∉ dueSets s ∧ (CHG_ISET, false) ∈ s.marks := by decide

/-! ## Frames and clocks -/

theorem witness_FrameAndClockRows : let s := bench []
    s.sup.power = .on ∧ s.lnk.adopt = none ∧ (lnkB (fun x => { x with adopt := some (7, 3) }) []).lnk.adopt = some (7, 3) ∧
    (supB (fun x => { x with power := .starting }) []).sup.power = .starting ∧
    (clkB (fun c => { c with running := true }) []).clk.running = true ∧ Ready s ∧ s.clk.running = false ∧
    (clkB (fun c => { c with sfDue := true }) []).clk.sfDue = true ∧ s.clk.sfDue = false ∧
    500 ≤ fld GLB_IDLEFR_COUNT (bench [(GLB_IDLEFR_COUNT, 500)]) ∧ inFawn (bench [(GLB_IDLEFR_COUNT, 500)]) = false ∧
    fld GLB_IDLEFR_COUNT (bench [(GLB_IDLEFR_COUNT, 499)]) < 500 := by decide

theorem witness_FrameAndClockRows_clock : let s := bench [(GLB_CLKSTAT_CLKFAIL, 1)]
    vccOn (bench []) = true ∧ (195313 - 189000) * 100 > 195313 * 3 ∧ (195313 - 189000) * 100 ≤ 195313 * 5 ∧
    (206000 - 195313) * 100 > 195313 * 5 ∧ (195313 - 195313) * 100 ≤ 195313 * 3 ∧ flag GLB_CLKSTAT_CLKFAIL (bench []) = false ∧
    flag GLB_CLKSTAT_CLKFAIL s = true ∧ s.clk.hfoOkSince = none ∧ (bench []).clk.bkosc = false ∧
    Ready (clkB (fun c => { c with bkosc := true }) []) := by decide

theorem witness_FrameAndClockRows_tick : let o := engBench .csq (fun x => { x with released := true }) []
    let t := bench [(TMR_CFG_EN 2, 1), (TMR_CFG_CLK 2, 1), (TMR_CFG_EN 3, 1), (TMR_CFG_RSTF 3, 1), (TMR_PRE_DIV 2, 512)]
    let l := { lnkB id [(LNK_STAT_ROLE, 4)] with clk := { Clk.reset with fidx := 49 } }
    (bench []).flt.parBad = [] ∧ hasOverrun .csq o = true ∧ (getEng .csq o).yielded = false ∧ (getEng .csq o).released = true ∧
    (engBench .hsq (fun x => { x with yielded := true }) []).engs ≠ o.engs ∧ tmrRuns 2 t = true ∧ flag (TMR_CFG_RSTF 2) t = false ∧
    fld (TMR_CFG_CLK 2) t = 1 ∧ flag (TMR_CFG_GATE 2) t = false ∧ tmrRuns 3 t = true ∧ flag (TMR_CFG_RSTF 3) t = true ∧
    tmrRuns 4 t = false ∧ fld (TMR_CFG_CLK 3) t ≠ 1 ∧ lnkRole l = 4 ∧ l.lnk.adopt = none ∧ (l.clk.fidx + 1) % 50 = 0 := by decide

theorem witness_FrameAndClockRows_hfo : let b := clkB (fun c => { c with bkosc := true }) []
    let f := clkB (fun c => { c with bkosc := true }) [(GLB_CLKSTAT_CLKFAIL, 1), (FLT_STAT_FAWN, 1)]
    b.clk.bkosc = true ∧ vccOn b = true ∧ flag GLB_CLKSTAT_CLKFAIL b = false ∧ Ready f ∧ f.clk.bkosc = true ∧
    flag GLB_CLKSTAT_CLKFAIL f = true ∧ inFawn f = true := by decide

theorem witness_FawnEntry : let s := bench [(FLT_STAT_FAWN, 1)]
    let x := fltB (fun x => { x with exitReq := true }) [(FLT_STAT_FAWN, 1)]
    inFawn s = true ∧ s.flt.exitReq = false ∧ inFawn x = true ∧ x.flt.exitReq = true ∧ x.flt.exitAt = clockNow x ∧
    inFawn (bench []) = false ∧ (getEng .csq (engBench .csq id [])).phase ∉ [.notStarted, .halted, .fenced] ∧
    (getEng .hsq (bench [])).phase = .notStarted := by decide

/-- CSQ with an entry at 0x100 in the active bank, while its check window runs. -/
def winEng (f : Eng → Eng) : State :=
  let s := psWrite false 0x18 [0, 1] (engBench .csq f []); { s with store := { s.store with winOpen := true } }

theorem witness_EngineHaltReset : let s := engBench .hsq id []
    let at' := fun p : EngPhase => (getEng .hsq (engBench .hsq (fun o => { o with phase := p }) [])).phase
    let w := winEng id
    Ready s ∧ (getEng .hsq s).phase ∈ [.running, .stalled] ∧ eng0.excAt ≠ some eng0.cyc ∧ at' .yielded ∈ [.yielded, .waiting] ∧
    at' .halted ∈ [.notStarted, .halted] ∧ at' .fenced = .fenced ∧ Ready w ∧ w.store.winOpen = true ∧ hdrEng .csq 0x18 w ≠ 0 ∧
    (let x := engBench .hsq (fun o => { o with excAt := some 7, cyc := 7 }) []
     (getEng .hsq x).excAt = some (getEng .hsq x).cyc ∧ (getEng .hsq x).phase ∈ [.running, .stalled]) ∧ inFawn s = false ∧
    s.store.restartAt ≠ some (clockNow s) ∧ inFawn (bench [(FLT_STAT_FAWN, 1)]) = true ∧
    (let r := storeB (fun x => { x with restartAt := some 0 }) []
     Ready r ∧ r.store.restartAt = some (clockNow r) ∧ (getEng .hsq r).phase ≠ .fenced ∧ inFawn r = false) := by decide

/-- R118: in the clock of a swap the reset of an engine only sets ENGRST, and the engine starts in this frame. -/
theorem test_reset_swap : let t := run (.engineReset .csq) (storeB (fun x => { x with restartAt := some 0 }) [])
    t.flt.relEng = [] ∧ flag GLB_RSTCAUSE_ENGRST t = true := by decide

/-! ## Supplies, ship mode and WAKE -/

theorem witness_SupplyStartAndPaths : Quiet (bench []) ∧ (bench []).sup.power ≠ .ship ∧ Quiet (supB (fun x => { x with power := .ship }) []) ∧
    (supB (fun x => { x with power := .ship }) []).sup.power = .ship ∧ (supB (fun x => { x with power := .starting }) []).sup.power = .starting ∧ Ready (bench []) ∧
    (bench []).sup.power ≠ .starting ∧ (bench []).sup.power ≠ .unpowered ∧ unitOp 5 (bench []) = none := by decide

/-- Switching is stopped for the driver supply. -/
def drvBench (fs : List (Fld × Nat)) : State := let s := bench fs; { s with pwr := { s.pwr with stops := [.vdrv] } }

/-- R103: the host bus at 3.0 V carries the island, a bus below 2.2 V does not. -/
theorem witness_SupplyStartAndPaths_feeds : aoSource false ⟨0, 0, 3000, 0⟩ = some 2 ∧ aoSource false ⟨0, 0, 2100, 0⟩ = none ∧
    flag GLB_SUPSTAT_VIOOK (bench []) = false ∧ (bench []).sup.shipFlag = false ∧ inFawn (bench []) = false := by decide

/-- R103: PKD at 4 V, above VIO, carries the island. -/
theorem test_aoSource : aoSource true ⟨0, 0, 3000, 4000⟩ = some 3 := by decide

theorem witness_SupplyStartAndPaths_drv : Ready (drvBench []) ∧ .vdrv ∈ (drvBench []).pwr.stops ∧ flag GLB_SUPSTAT_VDRVEXT (drvBench []) = false ∧
    (let s := bench [(GLB_SUPSTAT_VDRVEXT, 1), (GLB_SUPSTAT_VDRVOK, 1)]
     vccOn s = true ∧ flag GLB_SUPSTAT_VDRVEXT s = true ∧ flag GLB_SUPSTAT_VDRVOK s = true) ∧
    (let s := drvBench [(GLB_SUPSTAT_VDRVEXT, 1)]
     vccOn s = true ∧ Quiet s ∧ flag GLB_SUPSTAT_VDRVEXT s = true ∧ flag GLB_SUPSTAT_VDRVOK s = false) ∧
    (3600, 3900) = (if flag GLB_SUPSTAT_VDRVLVL (bench []) then (4300, 4600) else (3600, 3900)) := by decide

theorem witness_ShipAndWake : let s := bench []
    let p := bench [(GLB_PSSTAT_PEND, 1)]
    let f := bench [(FLT_STAT_FAWN, 1)]
    s.sup.power = .on ∧ Quiet s ∧ shipBusy p = true ∧ shipBusy s = false ∧ inFawn s = false ∧ shipBusy f = false ∧ inFawn f = true ∧
    s.sup.wakeHeld = false ∧ flag GLB_WAKESTAT_STUCK s = false ∧ s.sup.wakeLast = none ∧
    (supB (fun x => { x with wakeLast := some 100 }) []).sup.wakeLast = some 100 ∧ 300 < 100 + 250 ∧
    (supB (fun x => { x with wakeHeld := true }) []).sup.wakeHeld = true := by decide

theorem witness_ShipAndWake_exit : let s := supB (fun x => { x with power := .ship }) [(GLB_SUPSTAT_AOSRC, 1)]
    let h := supB (fun x => { x with power := .ship }) [(GLB_SUPSTAT_AOSRC, 2)]
    Quiet s ∧ s.sup.power = .ship ∧ fld GLB_SUPSTAT_AOSRC s < 2 ∧ s.sup.wakeHeld = false ∧ flag GLB_WAKESTAT_STUCK s = false ∧
    s.sup.wakeLast = none ∧ Quiet h ∧ h.sup.power = .ship ∧ 2 ≤ fld GLB_SUPSTAT_AOSRC h ∧ (bench []).sup.power ≠ .unpowered := by decide


/-! ## Converter -/

/-- All phases available; those of `l` active, each changed by `f`. -/
def phB (l : List Nat) (f : Phase → Phase) (g : Pwr → Pwr) (fs : List (Fld × Nat)) : State :=
  l.foldl (fun s k => modPhase k (fun x => f { x with active := true }) s)
    (pwrB g ([(PWR_PHEN_EN, 63), (PWR_PHTH_ADD, 40), (PWR_PHTH_SHED, 20), (PWR_PHTH_NMIN, 1)] ++ fs))

theorem witness_PowerStageRows : let s := phB [0] id id []
    let c := phB [0] (fun x => { x with forcing := true }) id []
    let p := phB [0] (fun x => { x with pre := 2 }) id []
    Ready (bench []) ∧ forcingNow c = true ∧ forcingNow s = false ∧ (drvBench []).pwr.stops ≠ [] ∧ forcingNow (drvBench []) = false ∧
    preNow s = false ∧ isRunning s = true ∧ packC s = false ∧ (hubB (fun h => { h with shed := true }) []).hub.shed = true ∧
    vccOn s = true ∧ (phase 0 s).active = true ∧ (phase 0 s).pre = 0 ∧ (phase 0 s).forcing = false ∧ (phase 0 s).toZero = false ∧
    (phase 0 s).rampDn = 0 ∧ (phase 0 (phB [0] (fun x => { x with emuCnt := 63 }) id [])).emuCnt = 63 ∧
    Ready c ∧ (phase 0 c).active = true ∧ (phase 0 c).pre = 0 ∧ (phase 0 c).forcing = true ∧
    Ready s ∧ (phase 1 s).active = false ∧ (phase 1 s).rampDn = 0 ∧ (phase 0 p).pre ≠ 0 := by decide

theorem witness_PowerStageRows_legs : let s := phB [0] (fun x => { x with holdA := true }) id []
    s.pwr.leg = .none ∧ s.pwr.ratios = [] ∧ (phase 0 s).holdA = true ∧ packC s = false := by decide

/-- R165: with EN = 0 the ceiling falls while the converter stands. -/
theorem test_enFalls : (run (.selectorUpdate (fastObs 10000 12000)) (pwrB (fun p => { p with enc := some 1000000 }) [])).pwr.enc
    = some (1000000 - 4 * 65536) := by decide +kernel

theorem witness_PowerStageRows_phases : let a := phB [0] id (fun p => { p with iSel := 6000 * 65536 }) []
    let b := phB [0, 1] id (fun p => { p with iSel := 1000 * 65536, shedCnt := 1 }) []
    let l := phB [0] id (fun p => { p with iSel := 500 * 65536 }) [(PWR_CTL_LLM, 1)]
    let o := phB [2] (fun x => { x with ocIdle := true, ocAt := [0, 0] }) id []
    Ready a ∧ nAct a ≠ 0 ∧ nAct a < phCap a ∧ lfld PWR_PHTH_ADD a * 125 * nAct a < totalMa a ∧ phReady 1 a = true ∧
    (phase 1 a).active = false ∧ (∀ j : Fin 6, j < 1 → phReady j a = true → (phase j a).active = true) ∧
    Ready b ∧ hoHold b = false ∧ max 1 (nMin b) < nAct b ∧ totalMa b < (nAct b - 1) * shedThr b * 125 ∧ (phase 1 b).active = true ∧
    (∀ j : Fin 6, 1 < j → (phase j b).active = false) ∧ max 1 (lfld PWR_PHTH_SHDLY b) ≤ b.pwr.shedCnt ∧
    a.pwr.shedCnt < max 1 (lfld PWR_PHTH_SHDLY a) ∧
    Ready l ∧ lfld PWR_CTL_LLM l = 1 ∧ nAct l = 1 ∧ l.pwr.iSel.natAbs < 1000 * 65536 ∧
    vccOn o = true ∧ 2 ≤ ((phase 2 o).ocAt.filter (fun u => decide (nowUs o < u + 1000))).length ∧ Ready o ∧ (phase 2 o).ocIdle = true ∧
    (phase 2 a).ocIdle = false ∧ (phase 2 o).active = true := by decide

theorem witness_PowerStageRows_trips : let s := phB [0] (fun x => { x with imbCnt := 50 }) id [(PWR_IPK_IPK, 100), (PWR_BRD_RPH, 4)]
    (phaseMa 10000 s).natAbs * 2 < lfld PWR_IPK_IPK s * 250 * 3 ∧ lfld PWR_IPK_IPK s * 250 * 3 ≤ (phaseMa 40000 s).natAbs * 2 ∧
    Ready s ∧ (phase 0 s).active = true ∧ (phase 0 s).imbCnt = 50 ∧ (phase 1 s).active = false := by decide

/-- R129, R167: a stop takes every phase out of switching. -/
theorem test_stop : nAct (stopFor .thHard (phB [0, 1, 2] id id [])) = 0 := by decide

/-! ## Power path -/

/-- Port `k` in state `st` of window `w`. -/
def portB (k st w : Nat) (f : Hub → Hub) (fs : List (Fld × Nat)) : State :=
  hubB f ([(HUB_PSTAT_STATE k, st), (HUB_PSTAT_INWIN k, w), (HUB_STAT_CPORT, 7), (HUB_QUAL_QUAL, 5), (HUB_DETCFG_RCTH, 20),
    (HUB_DETCFG_FALL, 20), (HUB_DETCFG_SAG, 10)] ++ fs)

/-- Source-carried by port 2, with V_REF 20 V and the detectors armed. -/
def carryB (g : Hub → Hub) (fs : List (Fld × Nat)) : State :=
  portB 2 4 1 (fun h => g { h with detArmed := true, vref := 20000 }) ((HUB_STAT_CPORT, 2) :: fs)

/-- The pack reserve is there: PK_DG closed, V_PK 50 V, a phase available. -/
def reserve (s : State) : State :=
  { s with chg := { s.chg with dg := .closed }, pwr := { s.pwr with vPk := 50000 } }

theorem witness_PortRows : let q := modPort 0 (fun p => { p with qual := 500 }) (portB 0 2 1 id [])
    let h := setF PWR_STAT_HOHOLD 1 q
    let l := portB 3 6 0 id []
    let u := portB 3 5 0 (fun h => { h with lostUnfed := [1, 3] }) []
    let g := portB 3 6 0 (fun h => { h with lostUnfed := [3] }) []
    vccOn (bench []) = true ∧ Ready q ∧ portSt 0 q = 2 ∧ inWin 0 q = true ∧ cport q ≠ some 0 ∧ hubF HUB_QUAL_QUAL q * 100 ≤ (port 0 q).qual ∧
    Ready h ∧ hoHold h = true ∧ portSt 0 h = 2 ∧ hubF HUB_QUAL_QUAL h * 100 ≤ (port 0 h).qual ∧
    (port 0 (portB 0 2 1 id [])).qual < hubF HUB_QUAL_QUAL (portB 0 2 1 id []) * 100 ∧
    Ready l ∧ portSt 3 l = 6 ∧ portSt 2 l ≠ 6 ∧ Ready u ∧
    u.hub.lostUnfed.filter (fun q => portSt q u == 5) = (3 : Fin 4).val :: [] ∧ (∀ q ∈ g.hub.lostUnfed, portSt q g ≠ 5) := by decide

theorem witness_PortRows_loss : let s := carryB id []
    let r := reserve (carryB id [(PWR_PHEN_EN, 63), (HUB_CTL_PKRSV, 1)])
    vccOn s = true ∧ s.hub.hb = none ∧ portSt 2 s = 4 ∧ cport s = some 2 ∧ (-30000 : Int) < 1000 - hubF HUB_DETCFG_RCTH s * 1000 ∧
    s.hub.detArmed = true ∧ 15000 * 100 < fallThr s * 101 ∧ rsv (putFast (fastObs 50000 15000) s) = false ∧
    chosen (putFast (fastObs 50000 15000) s) = none ∧ rsv (putFast (fastObs 50000 15000) r) = true ∧ portSt 2 r = 4 ∧ cport r = some 2 ∧
    1000 - hubF HUB_DETCFG_RCTH s * 1000 ≤ 0 ∧ (armFast (fastObs 0 0) (bench [])).hub.detArmed = false ∧ fallThr s * 101 ≤ 20000 * 100 ∧
    cport (bench [(HUB_STAT_CPORT, 7)]) = none := by decide

/-- R183: HBUS_FALL looks 1 ms after the close, though HBUS never rose above the sag threshold. -/
theorem witness_PortRows_late : let s := { carryB (fun h => { h with detArmed := false, closeUs := 0 }) [] with clk := { Clk.reset with us := 1000 } }
    s.hub.detArmed = false ∧ s.hub.closeUs + 1000 ≤ nowUs s ∧ cport s = some 2 ∧ portSt 2 s = 4 := by decide

theorem witness_PortRows_hold : let h := hubB (fun h => { h with ho := some (some 2, true) }) []
    let b := hubB (fun h => { h with hb := some ⟨2, false, 20000, 0⟩ }) []
    let c := hubB (fun h => { h with hb := some ⟨2, true, 20000, 19800⟩ }) []
    vccOn h = true ∧ forcingNow h = false ∧ h.hub.ho = some (some 2, true) ∧ (bench []).hub.ho = none ∧ Ready b ∧
    b.hub.hb = some ⟨2, false, 20000, 0⟩ ∧ Ready c ∧ c.hub.hb = some ⟨2, true, 20000, 19800⟩ ∧ (bench []).hub.hb = none := by decide

theorem witness_HbusRows : let s := carryB id []
    let run := modPhase 0 (fun x => { x with active := true, iL := 2000000 }) s
    let d := carryB (fun h => { h with shed := true }) []
    vccOn s = true ∧ hbOvThr s * 99 ≤ 63000 * 100 ∧ s.sup.boot = false ∧ 60000 * 100 < hbOvThr s * 99 ∧ 50000 < vhbceil s ∧
    unfed s = false ∧ unfed (bench [(HUB_STAT_UNFED, 1)]) = true ∧ Ready run ∧ srcCarried run = true ∧
    (armFast (fastObs 50000 15000) run).hub.detArmed = true ∧ (armFast (fastObs 50000 15000) s).hub.detArmed = true ∧ isRunning s = false ∧ s.hub.shed = false ∧
    srcCarried s = true ∧ isRunning run = true ∧ run.hub.shed = false ∧ 15000 * 100 < sagThr run * 101 ∧ sagThr run * 101 ≤ 20000 * 100 ∧ (phase 0 run).active = true ∧
    Ready d ∧ d.hub.shed = true ∧ d.hub.vref * (202 - sagPct d) < 20000 * 200 ∧ 15000 * 200 ≤ d.hub.vref * (202 - sagPct d) := by decide

theorem witness_HbusRows_fawn : let f := supB (fun x => { x with boot := true }) [(FLT_STAT_FAWN, 1)]
    vccOn f = true ∧ f.sup.boot = true ∧ inFawn f = true ∧ inFawn (supB (fun x => { x with boot := true }) []) = false := by decide

theorem witness_HbusRows_pack : let u := reserve (bench [(HUB_STAT_UNFED, 1), (PWR_PHEN_EN, 63), (HUB_CTL_PKRSV, 1)])
    let p := bench [(PWR_STAT_CARRIER, 1)]
    Ready u ∧ unfed u = true ∧ rsv u = true ∧ (unfed (bench []) && rsv (bench [])) = false ∧ vccOn p = true ∧ packC p = true ∧
    p.hub.belowFloor = false ∧ 8000 < pkFloor p ∧ pkFloor p ≤ 9000 ∧ packC (bench []) = false := by decide

theorem witness_HbusRows_sid : let a := hubB (fun h => { h with sidCand := 3, sidCnt := 4 }) []
    let b := hubB (fun h => { h with sidCand := 3, sidCnt := 4, sidAt := some 0 }) []
    let m := hubB (fun h => { h with sidCand := 3, sidCnt := 5, sidMerge := true }) []
    let d := bench [(HUB_SID_DERATE, 1)]
    Ready a ∧ flag HUB_SID_STUCK a = false ∧ sidBin 3000 = a.hub.sidCand ∧ sidBin 3000 ≠ fld HUB_SID_BIN a ∧ sidBusy a = false ∧
    Ready b ∧ sidBusy b = true ∧ Ready m ∧ m.hub.sidCand ≠ fld HUB_SID_BIN m ∧ (bench []).hub.sidMerge = false ∧
    vccOn d = true ∧ flag HUB_SID_DERATE d = true := by decide

theorem witness_HbusRows_s1 : let o := portB 1 7 0 (fun h => { h with s1Opens := [0, 0] }) [(HUB_S1OUT_EN, 1), (HUB_S1OUT_ILIM, 30)]
    let r := portB 1 1 0 (fun h => { h with s1Wait := true }) [(HUB_S1OUT_EN, 1)]
    let l := modPort 1 (fun p => { p with mv := 5000 }) r
    let x := portB 1 1 0 (fun h => { h with s1Wait := true, s1Tries := 3 }) []
    Ready o ∧ portSt 1 o = 7 ∧ ((hubF HUB_S1OUT_ILIM o * max 1 (hubF (HUB_PLIM_RDS 1) o) : Nat) : Int) < -clampI (-100000) 100000 (-31) ∧
    -clampI (-100000) 100000 (-30) ≤ ((hubF HUB_S1OUT_ILIM o * max 1 (hubF (HUB_PLIM_RDS 1) o) : Nat) : Int) ∧ (-30000 : Int) < 1000 - hubF HUB_DETCFG_RCTH o * 1000 ∧
    2 ≤ (o.hub.s1Opens.filter (fun u => decide (nowUs o < u + 10000000))).length ∧
    Ready r ∧ r.hub.s1Wait = true ∧ r.hub.s1Tries < 3 ∧ portSt 1 r = 1 ∧ hubF HUB_S1OUT_EN r = 1 ∧ r.hub.s1Block = false ∧
    (port 1 r).mv < 2000 ∧ Ready l ∧ l.hub.s1Wait = true ∧ 2000 ≤ (port 1 l).mv ∧ Ready x ∧ 3 ≤ x.hub.s1Tries ∧
    (bench []).hub.s1Wait = false := by decide

/-- R187: a read of 300 mV lies in bin 3, one below 50 mV in bin 0. -/
theorem test_sid : sidBin 3000 = 3 ∧ sidBin 499 = 0 := by decide

/-! ## Engines -/

/-- The engine fetches: it runs at a pc of its region whose line a buffer holds. -/
theorem fetchedOf {e : EngId} {s : State} (h : canRun e s = true ∧ pcOk (getEng e s) = true ∧
    ((getEng e s).lines.any (fun l => l.1 == (getEng e s).pc.toNat / 64)) = true ∧
    lineBad (getEng e s) ((getEng e s).pc.toNat / 64) = false ∧ Quiet s) : Fetched e s := by
  obtain ⟨a, b, c, d, q⟩ := h
  refine ⟨a, b, ?_, d, q⟩
  obtain ⟨l, m, h⟩ := List.any_eq_true.mp c
  exact ⟨l, m, by simpa using h⟩

theorem fetched_bench : Fetched .csq (engBench .csq id []) ∧ Fetched .pe0 (engBench .pe0 id []) := ⟨fetchedOf (by decide), fetchedOf (by decide)⟩

theorem witness_AluAndImmediateResults : fImm (fields 7 1 2 5) < 64 ∧ fFn (fields 7 1 2 5) ≤ 0x10 ∧ 0x0E ≤ fFn (fields 7 1 0 14) ∧
    fRs2 (fields 7 1 0 14) = 0 ∧ fRs1 (fields 7 0 0 1) = 0 ∧ fImm (fields 7 1 0 0x1004) / 2 ^ 5 % 2 ^ 7 = 0 ∧
    fImm (fields 7 1 0 0x1004) / 2 ^ 12 = 1 := by decide

/-- R357: 5 + 3 into x7, and x0 takes nothing. -/
theorem test_alu_add : xr (getEng .csq (run (.alu .csq (fields 7 1 2 0)) (engBench .csq id []))) 7 = 8 ∧
    xr (getEng .csq (run (.alu .csq (fields 0 1 2 0)) (engBench .csq id []))) 0 = 0 := by decide

theorem witness_MulDivResults : fImm (fields 7 1 2 3) < 4 ∧ src2 (fields 7 1 0 0) eng0 = 0 ∧ src2 (fields 7 1 2 0) eng0 ≠ 0 ∧
    (let o := { eng0 with x := (eng0.x.set 1 0x80000000#32).set 2 0xFFFFFFFF#32 }
     src1 (fields 7 1 2 0) o = 0x80000000#32 ∧ src2 (fields 7 1 2 0) o = 0xFFFFFFFF#32) := by decide

/-- R359: the division that overflows. -/
theorem test_divg_overflow : xr (getEng .csq (run (.divg .csq (fields 7 1 2 0))
    (engBench .csq (fun o => { o with x := (o.x.set 1 0x80000000#32).set 2 0xFFFFFFFF#32 }) []))) 7 = 0x80000000#32 := by decide

/-- The engine with x1 = 0x4480. -/
def memB (e : EngId) : State := engBench e (fun o => { o with x := o.x.set 1 0x4480#32 }) []

theorem witness_LoadResults : Fetched .csq (memB .csq) ∧ fRs2 (fields 7 1 0 0) = 0 ∧ (getEng .csq (memB .csq)).sb = [] ∧
    dataAddr (fields 7 1 0 0) (getEng .csq (memB .csq)) = 0x4480 ∧ CleanAt 0x4480 (memB .csq) :=
  ⟨fetchedOf (by decide), by decide⟩

theorem witness_LoadResults_store : lineErrAt (actBank (memB .csq)) (0x4480 / 64) (memB .csq) = 0 ∧ flag FLT_INJ_ARM (memB .csq) = false ∧
    Quiet (memB .csq) ∧ (getEng .csq (memB .csq)).phase ∉ [.notStarted, .halted, .fenced] ∧ lineErrAt (actBank (memB .csq)) 2 (memB .csq) ≠ 1 ∧
    (∀ x ∈ (getEng .csq (memB .csq)).lines, x.1 ≠ 2) := by decide

/-- CSQ, with `x1` in x1. -/
def addrB (x1 : Word) (sb : List SbEntry) (fs : List (Fld × Nat)) : State :=
  engBench .csq (fun o => { o with x := o.x.set 1 x1, sb := sb }) fs

theorem witness_LoadResults_posted : let s := addrB 0x4480 [⟨0x4480, 4, 9⟩, ⟨0x4484, 4, 8⟩] []
    Fetched .csq s ∧ Legal s ∧ (getEng .csq s).sb.length ≤ 4 ∧ (∀ p ∈ (getEng .csq s).sb, p.size = 4 ∧ ramLo ≤ p.addr ∧ p.addr ≤ ramHi ∧ p.addr % 4 = 0) ∧
    dataAddr (fields 7 1 0 0) (getEng .csq s) = 0x4480 ∧ CleanAt 0x4480 s :=
  ⟨fetchedOf (by decide), legalOf (by decide), by decide⟩

theorem witness_LoadResults_registers : let s := addrB 0xD28 [] []
    let c := addrB 0x1614 [] []
    let w := addrB 0x8040 [] []
    Fetched .csq s ∧ dataAddr (fields 7 1 0 0) (getEng .csq s) = PKP_SEQRX 0 ∧ s.flt.parBad = [] ∧ flag FLT_INJ_ARM s = false ∧
    dataAddr (fields 7 1 0 0) (getEng .csq c) = TMR_CAP 0 ∧ dataAddr (fields 7 1 0 0) (getEng .csq w) = 0x8040 ∧ Fetched .csq w ∧
    lineErrAt (winBank w) (winAddr 0x8040 w / 64) w = 0 :=
  ⟨fetchedOf (by decide), by decide, by decide, by decide, by decide, by decide, fetchedOf (by decide), by decide⟩

/-- R325, R350: a load of PKP_SEQRX0 gives its head, pops it and takes 4 cycles. -/
theorem test_load_pop : let s := { addrB 0xD28 [] [] with pk := (putSeq 0 { getSeq 0 (bench []) with rx := [7, 8] } (bench [])).pk }
    let t := run (.ldw .csq (fields 7 1 0 0)) s
    xr (getEng .csq t) 7 = 7 ∧ (getSeq 0 t).rx = [8] ∧ (getEng .csq t).cyc = 4 := by decide +kernel

theorem witness_StoreResults_registers : let s := addrB 0x1600 [⟨0x1608, 4, 9⟩] []
    let m := addrB 0xC10 [⟨CHG_ISET, 2, 9⟩] []
    let f := addrB 0x4480 [⟨0x4480, 4, 9⟩, ⟨0x4484, 4, 9⟩, ⟨0x4488, 4, 9⟩, ⟨0x448C, 4, 9⟩] []
    engStoreOk .csq 0x1600 4 = true ∧ dataAddr (fields 0 1 2 0) (getEng .csq s) = 0x1600 ∧ Fetched .csq s ∧ (getEng .csq s).sb.length < 4 ∧
    (getEng .csq s).sb = ⟨0x1608, 2 ^ (2 : Fin 3).val, 9⟩ :: [] ∧ engRights .csq 0x1608 = true ∧
    (findRow 0x1608).any (fun r => !r.sh && decide (r.width ≤ 32)) = true ∧ ownEffect 0x1608 = false ∧ isBuffer 0x1608 = false ∧
    (getEng .csq m).sb = ⟨CHG_ISET, 2 ^ (1 : Fin 3).val, 9⟩ :: [] ∧ engRights .csq CHG_ISET = true ∧
    (findRow CHG_ISET).any (fun r => r.sh && decide (r.width ≤ 16) && openMask r m != 0) = true ∧ Quiet m ∧ (getEng .csq m).phase = .running ∧
    Fetched .csq f ∧ (getEng .csq f).sb = ⟨0x4480, 4, 9⟩ :: [⟨0x4484, 4, 9⟩, ⟨0x4488, 4, 9⟩, ⟨0x448C, 4, 9⟩] ∧ engStoreOk .csq 0x4480 4 = true :=
  ⟨by decide, by decide, fetchedOf (by decide), by decide, by decide, by decide, by decide, by decide, by decide, by decide, by decide,
    by decide, by decide, by decide, fetchedOf (by decide), by decide⟩

theorem witness_StoreResults : Legal (memB .csq) ∧ Fetched .csq (memB .csq) ∧ fRd (fields 0 1 2 0) = 0 ∧ fImm (fields 7 1 2 1) < 4 ∧
    (src1 (fields 7 1 2 1) (getEng .csq (memB .csq))).toNat % 2 ^ 16 = 0x4480 ∧
    (let s := engBench .csq (fun o => { o with sb := [⟨0x4480, 4, 9⟩] }) []
     Legal s ∧ Quiet s ∧ (getEng .csq s).sb = ⟨0x4480, 4, 9⟩ :: []) :=
  ⟨legalOf (by decide), fetchedOf (by decide), by decide, by decide, by decide, legalOf (by decide), by decide, by decide⟩

/-- R6, R350: a posted word lands with its lowest byte at its address. -/
theorem test_store_lands : ramByte 0x4480 (run (.storeLands .csq) (engBench .csq (fun o => { o with sb := [⟨0x4480, 4, 0x01020304⟩] }) [])) = 4 := by
  decide

theorem witness_JumpAndControlResults : (fRd (fields 0 1 2 0), false) ∈ [(0, src1 (fields 0 1 2 0) eng0 == src2 (fields 0 1 2 0) eng0)] ∧
    fRs1 (fields 1 0 0 0) = 0 ∧ (fRd (fields 1 0 0 0), true) ∈ [(1, !flZ eng0)] ∧ fRd (fields 0 0 0 5) = 0 ∧ fRs2 (fields 7 1 0 0) = 0 ∧ eng0.sb = [] ∧
    (engBench .csq id []).store.winOpen = false ∧ (fields 0 0 0 5).toNat < 2 ^ 14 ∧ eng0.exh = false ∧ eng0.vec ≠ 0 ∧
    ({ eng0 with exh := true } : Eng).exh = true := by decide

/-- R354: J goes to its own address plus four times its offset. -/
theorem test_jump : (getEng .csq (run (.j .csq 3) (engBench .csq id []))).pc = 0x4C := by decide

theorem witness_ExceptionEntry : 64 ≤ fImm (fields 7 1 2 64) ∧ fRs2 (fields 7 1 2 0) ≠ 0 ∧ fRs1 (fields 7 1 0 0) ≠ 0 ∧ 6 ≤ fRd (fields 6 1 2 0) ∧
    EngId.pe0 ≠ .csq ∧ isPe .csq = false ∧ dataAddr (fields 7 1 0 0) eng0 % 4 ≠ 0 ∧ dataAddr (fields 7 1 0 0) eng0 % 2 ≠ 0 ∧
    (let o := { eng0 with x := eng0.x.set 1 0xFFF0#32 }; dataAddr (fields 0 1 2 0) o % 4 = 0 ∧ ramHi < dataAddr (fields 0 1 2 0) o) ∧
    eng0.vec ≠ 0 ∧ ({ eng0 with vec := 0 } : Eng).vec = 0 := by decide

/-- An illegal instruction of each kind, and one that meets each condition of the causes 0x02 to 0x04. -/
theorem witness_ExceptionEntry_causes : 0x10 < fImm (fields 7 1 2 0x11) ∧ fFn (fields 7 1 2 0x0E) = 0x0E ∧ 3 ≤ fImm (fields 7 1 0 0x3000) / 2 ^ 12 ∧
    4 ≤ fImm (fields 7 1 2 4) ∧ fRd (fields 1 1 0 0) ≠ 0 ∧ 13 ≤ fRd (fields 13 0 0 0) ∧ fields 1 0 0 0 ≠ 0 ∧ eng0.exh = false ∧
    2 ^ 14 ≤ (fields 1 0 0 0).toNat ∧ 16 ≤ fImm (fields 7 0 0 16) ∧ 12 ≤ fImm (fields 7 0 0 12) ∧ fImm (fields 0 1 0 7) ∉ [5, 6, 9, 10, 12, 13, 14, 15] ∧
    7 ≤ fImm (fields 7 1 2 7) ∧ 2 ≤ fImm (fields 7 1 0 2) ∧ 32 ≤ fImm (fields 7 1 0 32) ∧ (fun (_ : EngId) => decodeRaura .csq 0) .csq = none ∧
    (1 : Fin 1024).val = eng0.pc.toNat / 64 ∧
    (let o := { eng0 with x := (eng0.x.set 1 0x4A02#32).set 2 0#32 }
     (src1 (fields 7 1 2 0) o).toNat % 2 ^ 16 % 4 ≠ 0 ∧ (src2 (fields 7 1 2 0) o).toNat % 32 / 4 = engNo .csq ∧ fImm (fields 7 1 2 0) = 0) ∧
    (let o := { eng0 with x := (eng0.x.set 1 0x0#32).set 2 4#32 }
     dataAddr (fields 0 1 2 0) o % 4 = 0 ∧ engRights .csq (dataAddr (fields 0 1 2 0) o) = false ∧
     (src1 (fields 7 1 2 0) o).toNat % 2 ^ 16 < ramLo ∧ (src2 (fields 7 1 2 0) o).toNat % 32 / 4 ≠ engNo .csq) := by decide

/-- The engine with its line marked uncorrectable, first found or reported, and with a pc outside its region. -/
def badLine (m : Nat) (fs : List (Fld × Nat)) : State := engBench .csq (fun o => { o with lines := [(1, m)] }) fs

theorem witness_ExceptionEntry_fetch : let n := engBench .csq (fun o => { o with cstart := 0x80 }) []
    encodeRaura (.yield .csq 0) = some (.csq, 0b101000_00000000000000000000000000#32) ∧ canRun .csq n = true ∧ Quiet n ∧
    pcOk (getEng .csq n) = false ∧ canRun .csq (badLine 1 []) = true ∧ pcOk (getEng .csq (badLine 1 [])) = true ∧
    lineBad (getEng .csq (badLine 1 [])) 1 = true ∧ lineBad (getEng .csq (badLine 2 [])) 1 = true := by decide

/-- Two bits of lane 0 of the line of 0x4480, and of the word there. -/
theorem witness_ExceptionEntry_ecc : let f := { memB .csq with store := { (memB .csq).store with flips := [(0x4480 / 64, 0), (0x4480 / 64, 32)] } }
    let r := { memB .csq with ramErr := [(0x4480, 2)] }
    Fetched .csq f ∧ 2 ≤ lineErrAt (actBank f) (dataAddr (fields 7 1 0 0) (getEng .csq f) / 64) f ∧ fRs2 (fields 7 1 0 0) = 0 ∧
    flag FLT_INJ_ARM f = false ∧ Fetched .csq r ∧ 2 ≤ ramErrAt (dataAddr (fields 7 1 0 0) (getEng .csq r)) r ∧ (getEng .csq r).sb = [] :=
  ⟨fetchedOf (by decide), by decide, by decide, by decide, fetchedOf (by decide), by decide⟩

/-- R354, R356: TRAP sign-extends its imm14. -/
theorem test_trap : (getEng .csq (run (.trap .csq 0x2000) (engBench .csq id []))).bad = 0xE000#16 := by decide

theorem witness_SpecialRegisters : fRs1 (fields 7 0 0 1) = 0 ∧ fRs2 (fields 7 0 0 1) = 0 ∧
    (fImm (fields 7 0 0 1), BitVec.ofNat 32 (200 + eng0.cyc)) ∈ [(1, BitVec.ofNat 32 (200 + eng0.cyc))] ∧ fRd (fields 0 1 0 5) = 0 ∧
    fImm (fields 0 1 0 5) = 5 ∧ fImm (fields 0 1 0 6) = 6 ∧ fImm (fields 0 1 0 12) = 12 ∧ fImm (fields 0 1 0 14) = 14 ∧
    fImm (fields 0 1 0 15) = 15 := by decide

/-- The engine of a bench of rings: x1 the address 0x4A00, x2 the ring 0. -/
def postB (ts : List TagRec) (fs : List (Fld × Nat)) : State :=
  putEng .csq { eng0 with x := (eng0.x.set 1 0x4A00#32).set 2 0#32 } (ringBench ts fs)

/-- A tag DONE in slot 0 of ring 0. -/
def doneTag : TagRec := tag 5 0 .done [1]

theorem witness_PostAndTakeResults : Legal (postB [] []) ∧ Legal (postB [doneTag] []) ∧ Fetched .csq (postB [] []) ∧
    Fetched .csq (postB [doneTag] []) ∧ Fetched .csq (postB [] [(RNG_QUOTA0_CSQ, 0)]) ∧ Fetched .csq (putEng .csq
      { eng0 with x := (eng0.x.set 1 0x4A00#32).set 2 0#32 } (bench [])) :=
  ⟨legalOf (by decide), legalOf (by decide), fetchedOf (by decide), fetchedOf (by decide), fetchedOf (by decide), fetchedOf (by decide)⟩

theorem witness_PostAndTakeResults_rings : let s := postB [] []
    let o := getEng .csq s
    fImm (fields 7 1 2 0) = 0 ∧ o.sb = [] ∧ (src2 (fields 7 1 2 0) o).toNat % 32 / 4 = engNo .csq ∧
    (src1 (fields 7 1 2 0) o).toNat % 2 ^ 16 = 0x4A00 ∧ (∀ k < 4, CleanAt (0x4A00 + 4 * k) s) ∧ ringEn 0 (bench []) = false ∧
    ringEn 0 s = true ∧ ringOut 0 s < ringDepth 0 s ∧ tagsHeld (ringOwner 0) s < quota (ringOwner 0) s ∧
    quota (ringOwner 0) (postB [] [(RNG_QUOTA0_CSQ, 0)]) ≤ tagsHeld (ringOwner 0) (postB [] [(RNG_QUOTA0_CSQ, 0)]) ∧
    ringHead 9 0 s = none ∧ ringHead 9 0 (postB [doneTag] []) = some (5, 0x4480) ∧ (∀ j < 4, CleanAt (0x4480 + 4 * j) (postB [doneTag] [])) := by
  decide

theorem witness_PostAndTakeResults_pool : let s := postB [] []
    let r : CfgWas := ⟨0, 7, 0x80024480, (0, 0)⟩
    RingsBefore (clockOf (some .csq) s) s ∧ LowestFree 0 s ∧ postTag 7 0 s = some 0 ∧
    r ∈ (modSame (fun x => { x with cfgs := [r] }) s).rng.same.cfgs ∧ r.cfg < 2 ^ 32 := by
  refine ⟨⟨by decide, by decide, by decide, by decide⟩, ⟨by decide, ?_, by omega⟩, by decide, by decide, by decide⟩
  have none_ : (postB [] []).rng.tags = [] := by decide
  rintro ⟨r, h, -⟩; rw [none_] at h; cases h

/-- R390: POST takes the lowest free tag, and answers it. -/
theorem test_post : xr (getEng .csq (run (.post .csq (fields 7 1 2 0)) (postB [tag 0 0 .queued [1]] []))) 7 = 1 := by decide

theorem witness_AccumulatorResults : Fetched .csq (engBench .csq id []) ∧ fImm (fields 0 1 2 3) < 4 ∧ fRd (fields 0 1 2 3) = 0 ∧
    fImm (fields 7 1 2 6) < 64 ∧ fRs2 (fields 7 1 0 1) = 0 ∧ src1 (fields 7 1 0 1) eng0 ≠ 0 ∧ src1 (fields 7 0 0 1) eng0 = 0 ∧
    fRs1 (fields 7 0 0 1) = 0 ∧ (let o := { eng0 with x := eng0.x.set 1 0x00200000#32 }; 16 * 65536 ≤ (src1 (fields 7 1 0 0) o).toInt) ∧
    (let o := { eng0 with x := eng0.x.set 1 0xFFE00000#32 }; (src1 (fields 7 1 0 0) o).toInt < -(16 * 65536)) ∧
    fImm (fields 0 1 0 0x1003) = 2 ^ 12 + 3 ∧ fImm (fields 0 1 0 0x2003) = 2 ^ 13 + 3 :=
  ⟨fetched_bench.1, by decide⟩

/-- R362: 5 · 3 into an accumulator of 0, and RDA by 1 rounds 7.5 up. -/
theorem test_macg : (getEng .csq (run (.macg .csq (fields 0 1 2 3)) (engBench .csq id []))).acc = 15 ∧
    xr (getEng .csq (run (.accg .csq (fields 7 0 0 1)) (engBench .csq (fun o => { o with acc := 15 }) []))) 7 = 8 := by decide

/-- R364: the square root of 26 is 5. -/
theorem test_sqrt : isqrtBits 4 26 0 = 5 := by decide

theorem witness_PinResults : Fetched .pe0 (engBench .pe0 id []) ∧ fRs2 (fields 7 1 0 31) = 0 ∧ fImm (fields 7 1 0 31) < 32 ∧
    fImm (fields 7 0 0 1) < 2 ∧ fRs1 (fields 7 0 0 1) = 0 ∧ fRd (fields 0 1 0 0) = 0 ∧
    32 ≤ (getSeq 0 (pkB (fun p => { p with seq0 := ⟨List.replicate 31 0, [], some 0⟩ }) [])).tx.length + b2n true ∧
    (getSeq 0 (bench [])).tx.length + b2n (getSeq 0 (bench [])).run.isSome < 32 ∧ flag (PKP_SEQCTL_EN 0) (bench []) = false ∧
    (let s := bench [(PKP_SEQCTL_EN 0, 1), (PKP_OWN_PKD, 1)]
     (getSeq 0 s).tx = [] ∧ (getSeq 0 s).run = none ∧ flag (PKP_SEQCTL_EN 0) s = true ∧ padsOff s = false ∧ (getSeq 0 s).rx.length < 16 ∧
     (if bitOf (0xA0000000#32).toNat 28 then fld PKP_OWN_PKC s else fld PKP_OWN_PKD s) = 0 + 1) :=
  ⟨fetched_bench.2, by decide⟩

/-- R365: the CRC-8 of 0x01 from 0 is 0x07 (x^8 + x^2 + x + 1). -/
theorem test_crc8 : crc8 [1] = 7 := by decide

/-! ## USB-C port -/

/-- Attached, in a contract where `ct`. -/
def ttB (f : Tcp → Tcp) (fs : List (Fld × Nat)) : State := tcpB f ((TCP_STAT_ATT, 1) :: fs)

theorem witness_TypecRows : let s := bench []
    let a := ttB id []
    let r := ttB (fun c => { c with rpCand := rpBand 1000, rpCnt := 9 }) []
    let i := ttB (fun c => { c with rxId := some 3 }) []
    Ready s ∧ Ready a ∧ flag TCP_STAT_ATT s = false ∧ flag TCP_STAT_ATT a = true ∧ flag TCP_STAT_CONTRACT (ttB id [(TCP_STAT_CONTRACT, 1)]) = true ∧
    flag TCP_STAT_CONTRACT a = false ∧ flag TCP_STAT_BUSY (ttB id [(TCP_STAT_BUSY, 1)]) = true ∧
    rpBand 1000 = r.tcp.rpCand ∧ r.tcp.rpCnt = 9 ∧ r.tcp.held = [] ∧ rpBand 0 ≠ r.tcp.rpCand ∧
    tcpHears s = false ∧ tcpHears i = true ∧ i.tcp.rxId = some (3 : BitVec 3).toNat ∧ i.tcp.rxId ≠ some (4 : BitVec 3).toNat := by decide

theorem witness_TypecRows_messages : let w := ttB (fun c => { c with wait := .reply, asked := some (⟨false, 1, 300, 500⟩, true) }) [(TCP_STAT_BUSY, 1)]
    let p := ttB (fun c => { c with trans := some (⟨false, 1, 300, 500⟩, true) }) [(TCP_STAT_PSTRANS, 1), (TCP_STAT_BUSY, 1)]
    let t := ttB (fun c => { c with tx := some (.getSourceCap, 0) }) [(TCP_RXSTAT_RDY, 1)]
    tcpHears w = true ∧ w.tcp.wait = .reply ∧ w.tcp.asked.any (·.2) = true ∧ flag TCP_STAT_BUSY w = true ∧ w.tcp.rxId ≠ some 0 ∧
    tcpHears p = true ∧ flag TCP_STAT_PSTRANS p = true ∧ p.tcp.trans = some (⟨false, 1, 300, 500⟩, true) ∧ p.tcp.tx = none ∧ t.tcp.tx.isSome = true ∧
    flag TCP_RXSTAT_RDY t = true ∧ t.tcp.rxId ≠ some (hdrId 0) ∧ t.tcp.txq = [] ∧ tcpFixed t = false ∧
    (ttB (fun c => { c with rxId := some 0 }) []).tcp.rxId = some (hdrId 0) := by decide

/-- R228: a message of no use is answered with Not_Supported. -/
theorem test_unsupported : (run (.unsupportedMessageRx 0) (ttB id [])).tcp.tx = some (.notSupported, 0) := by decide

theorem witness_TypecTimersAndCommands : let w := ttB (fun c => { c with waitCap := true }) []
    let x := ttB (fun c => { c with waitCap := true, hrCnt := 2 }) []
    let e := ttB id [(TCP_STAT_EPR, 1)]
    let k := ttB (fun c => { c with held := [(.keepAlive, false)] }) [(TCP_STAT_EPR, 1)]
    vccOn w = true ∧ tcpHears w = true ∧ w.tcp.waitCap = true ∧ w.tcp.hrCnt < 2 ∧ tcpHears x = true ∧ 2 ≤ x.tcp.hrCnt ∧
    (ttB (fun c => { c with wait := .reply }) []).tcp.wait ≠ .none ∧ (ttB (fun c => { c with kaWait := true }) []).tcp.kaWait = true ∧
    flag TCP_STAT_PSTRANS (ttB id [(TCP_STAT_PSTRANS, 1)]) = true ∧ Quiet e ∧ tcpHears e = true ∧ flag TCP_STAT_EPR e = true ∧
    kaPending e = false ∧ e.tcp.tx = none ∧ kaPending k = true ∧ flag TCP_STAT_EPR w = false := by decide

theorem witness_TypecTimersAndCommands_waits : let r := ttB (fun c => { c with wait := .request }) []
    let e := ttB (fun c => { c with enterWait := true }) []
    let h := ttB (fun c => { c with tx := some (.getSourceCap, 0), txq := [(.getSourceCap, true)] }) [(TCP_STAT_CONTRACT, 1)]
    r.tcp.wait = .request ∧ r.tcp.enterWait = false ∧ r.tcp.kaWait = false ∧ e.tcp.enterWait = true ∧ (ttB id []).tcp.wait = .none ∧
    tcpHolds h = true ∧ TcpMsg.isRequest .getSourceCap = false ∧ h.tcp.txq = (.getSourceCap, true) :: [] ∧
    rdoOk (txObj h) false h = false ∧ flag TCP_STAT_BUSY h = false ∧ flag TCP_STAT_EPR (ttB id [(TCP_STAT_EPR, 1)]) = true := by decide

theorem witness_TypecTimersAndCommands_sent : let r := ttB (fun c => { c with tx := some (.request 0, 0), txCmd := true }) [(TCP_STAT_BUSY, 1)]
    let f := ttB (fun c => { c with tx := some (.request 0, 2), txCmd := true }) [(TCP_STAT_BUSY, 1)]
    let g := ttB (fun c => { c with tx := some (.eprExit, 2) }) [(TCP_STAT_CONTRACT, 1)]
    let h := ttB (fun c => { c with tx := some (.softReset, 2) }) []
    let q := ttB (fun c => { c with tx := some (.getSourceCap, 0), txq := [(.accept, false)] }) []
    vccOn r = true ∧ tcpSends r = true ∧ Quiet r ∧ r.tcp.tx = some (.request 0, 0) ∧ r.tcp.txq = [] ∧ TcpMsg.isRequest (.request 0) = true ∧
    r.tcp.txCmd = true ∧ flag TCP_STAT_BUSY r = true ∧ tcpSends f = true ∧ f.tcp.tx = some (.request 0, 2) ∧ tcpHolds f = false ∧
    tcpHolds g = true ∧ g.tcp.tx = some (.eprExit, 2) ∧ h.tcp.tx = some (.softReset, 2) ∧ (ttB id []).tcp.tx = none ∧
    q.tcp.tx = some (.getSourceCap, 0) ∧ q.tcp.txq = (.accept, false) :: [] := by decide

/-- The source offers 5 V at 3 A, EPR capable, and S3's window ends at 20 V. -/
def capB (f : Tcp → Tcp) (fs : List (Fld × Nat)) : State :=
  tcpB (fun c => f { c with caps := [0x0081912C#32] })
    ([(TCP_STAT_ATT, 1), (whole (HUB_WIN 3), 2000 * 65536 + 400), (whole (TCP_TXBUF 0), 0x1001912C)] ++ fs)

theorem witness_TypecTimersAndCommands_request : let s := capB id []
    let h := capB id [(TCP_STAT_CONTRACT, 1)]
    Ready s ∧ flag TCP_STAT_BUSY (capB id [(TCP_STAT_BUSY, 1)]) = true ∧ flag TCP_STAT_BUSY s = false ∧ tcpSends s = true ∧
    rdoOk (txObj (ttB id [])) false (ttB id []) = false ∧ rdoOk (txObj s) false s = true ∧ rdoDeal (txObj s) s = some ⟨false, 1, 100, 500⟩ ∧
    tcpHolds s = false ∧ lowersS3 ⟨false, 1, 100, 500⟩ s = false ∧ s.tcp.tx = none ∧ tcpHolds h = true ∧ rdoOk (txObj h) true h = true ∧
    h.tcp.wait ≠ .request ∧ flag TCP_STAT_CONTRACT h = true ∧ flag TCP_CONTRACT_AVS h = false ∧ flag TCP_STAT_EPR h = false ∧
    capsEprOk h = true ∧ flag TCP_STAT_CONTRACT s = false := by decide

theorem witness_TypecTimersAndCommands_release : let s := ttB (fun c => { c with defer := some (.request 0, true) }) []
    Ready s ∧ s.tcp.defer = some (.request 0, true) ∧ TcpMsg.isRequest (.request 0) = true ∧ tcpHolds s = false ∧
    tcpHolds (ttB (fun c => { c with defer := some (.request 0, true) }) [(TCP_STAT_CONTRACT, 1)]) = true ∧ portSt 3 s ≠ 4 ∧ tcpSends s = true ∧ s.tcp.tx = none ∧ (bench []).tcp.defer = none ∧
    portSt 3 (bench [(HUB_PSTAT_STATE 3, 4)]) = 4 := by decide

/-! ## Charge control -/

/-- Charge state `n`. -/
def stB (n : Nat) (f : Chg → Chg) (fs : List (Fld × Nat)) : State := chgB f ((CHG_STATE_STATE, n) :: fs)

/-- A descriptor that R248 accepts: 4 cells of 4.2 V, 3 A both ways, bands from 0 to 55 °C, with its CRC. -/
def packDesc : List Byte :=
  let d : List Byte := [1, 1, 4, 1, 0, 0, 0x68, 0x10, 0xF4, 1, 0xB8, 0xB, 0xB8, 0xB, 0, 10, 45, 55] ++ List.replicate 106 0
  d ++ leBytes 4 (crc32c d).toNat

theorem witness_LatchAndChargeRows : let s := stB 2 id []
    let l := stB 2 (fun c => { c with latPend := true }) []
    Ready s ∧ latchState s = true ∧ latchState (bench []) = false ∧ s.chg.latPend = false ∧ l.chg.latPend = true ∧ latchState l = true ∧
    l.chg.latGone = false ∧ (stB 2 (fun c => { c with latPend := true, latGone := true }) []).chg.latGone = true ∧
    (∀ i < 32, CleanAt (0x4400 + 4 * i) l) := by decide

set_option maxRecDepth 100000 in
theorem witness_LatchAndChargeRows_check : let l := stB 2 (fun c => { c with latPend := true }) []
    latchCheck (ramBytes 0x4400 128 l) (vpkceil l) = 1 ∧
    latchCheck (ramBytes 0x4400 128 (ramWrite 0x4400 packDesc l)) (vpkceil l) = 0 := by decide +kernel

theorem witness_LatchAndChargeRows_rows : let p := stB 1 id [(PKP_STAT_PREST, 1)]
    packPresent (bench []) = false ∧ packPresent (pkB (fun x => { x with pkt := { x.pkt with filt := true } }) []) = true ∧
    chgSt (stB 2 id []) = 2 ∧ chgSt (stB 3 id []) = 3 ∧ fld CHG_REC_ATT (stB 3 id []) < 5 ∧ 5 ≤ fld CHG_REC_ATT (stB 3 id [(CHG_REC_ATT, 5)]) ∧
    chgSt (stB 8 id []) = 8 ∧ chgSt (stB 11 id [(CHG_STAT_BAND, 2)]) = 11 ∧ band (stB 11 id [(CHG_STAT_BAND, 2)]) ∈ [1, 2, 3] ∧ chgSt p = 1 ∧
    (chgB (fun c => { c with bandRaw := 2 }) [(CHG_STAT_BAND, 1)]).chg.bandRaw = 2 ∧ band (chgB (fun c => { c with bandRaw := 2 }) [(CHG_STAT_BAND, 1)]) = 1 ∧
    (chgB (fun c => { c with bandRaw := 1 }) [(CHG_STAT_BAND, 3)]).chg.bandRaw = 1 ∧ band (chgB (fun c => { c with bandRaw := 1 }) [(CHG_STAT_BAND, 3)]) = 3 ∧
    (bench []).chg.bandRaw ≠ 2 ∧ (bench []).chg.bandRaw ≠ 1 := by decide

/-- The descriptor's bands are in force, with the pack at 25 °C. -/
theorem witness_LatchAndChargeRows_inside : let b := [(CHG_STAT_DVALID, 1), (CHG_DLAT3_T1, 0), (CHG_DLAT3_T2, 10), (CHG_DLAT3_T3, 45),
      (CHG_DLAT3_T4, 55), (CHG_PKTEMP_TEMP, 200)]
    insideBy 1 2 (chgB id b) = true ∧ insideBy 2 2 (chgB id b) = true ∧ insideBy 1 1 (chgB id (b ++ [(CHG_PKTEMP_TEMP, 72)])) = true ∧
    insideBy 2 1 (chgB id (b ++ [(CHG_PKTEMP_TEMP, 72)])) = false ∧ insideBy 1 2 (bench [(CHG_PKTEMP_TEMP, 0x8000)]) = false := by decide

theorem witness_LatchAndChargeRows_times : let t := { chgB (fun c => { c with rtFresh := true }) [] with clk := { Clk.reset with us := 1000000 } }
    let u := { chgB (fun c => { c with rtFresh := true }) [(CHG_STAT_DVALID, 1), (CHG_DLAT0_TSRC, 1)] with clk := { Clk.reset with us := 1000000 } }
    let r := stB 10 id [(CHG_DLAT1_VAL, 16800)]
    Ready t ∧ t.chg.rtFresh = true ∧ t.chg.rtUs + 1000000 ≤ nowUs t ∧ rtUsed t = false ∧ u.chg.rtUs + 1000000 ≤ nowUs u ∧ rtUsed u = true ∧
    (bench []).chg.rtFresh = false ∧ chgSt r = 10 ∧ r.chg.vAvg < vRch r ∧ vRch (stB 10 id []) ≤ (stB 10 id []).chg.vAvg ∧
    (stB 6 (fun c => { c with dg := .gating }) [(CHG_CTL_DGEN, 1)]).chg.dg = .gating ∧
    dgPermit (stB 6 (fun c => { c with dg := .gating }) [(CHG_CTL_DGEN, 1)]) = true ∧ dgPermit (chgB (fun c => { c with dg := .gating }) []) = false ∧
    (chgB (fun c => { c with dg := .opening }) []).chg.dg = .opening ∧ (bench []).chg.dg ≠ .gating ∧ (bench []).chg.dg ≠ .opening := by decide

theorem witness_PackTrips : let s := chgB (fun c => { c with vov := 20000 }) [(PWR_SNS_RPK, 100)]
    let g := stB 6 (fun c => { c with vov := 20000, dg := .closed }) [(CHG_STAT_DGCL, 1), (PWR_SNS_RPK, 100)]
    let lo := fastObs 10000 0
    let oc : FastObs := ⟨20000, 20000, 20000, 90000, 0⟩
    Ready s ∧ (putFast lo s).pwr.vPk * 1000 < s.chg.vov * 995 ∧ vccOn s = true ∧ s.chg.vov * 995 ≤ (putFast (fastObs 20000 0) s).pwr.vPk * 1000 ∧
    dgOn s = false ∧ dgOn g = true ∧ g.chg.ocUs ≠ some (nowUs g) ∧
    (putFast lo s).pwr.iPk.natAbs * 1000 < ocThr (decide (0 ≤ (putFast lo s).pwr.iPk)) (putFast lo s) * 985 ∧
    ocThr (decide (0 ≤ (putFast oc g).pwr.iPk)) (putFast oc g) * 985 ≤ (putFast oc g).pwr.iPk.natAbs * 1000 ∧
    chgSt g ∉ [0, 1, 2, 12, 13] ∧ chgSt s ∈ [0, 1, 2, 12, 13] := by decide

/-- The pack current falls from 5 A to 0.5 A while its voltage rises by 1 %. -/
def collB : State :=
  { stB 6 (fun c => { c with dg := .closed }) [(CHG_STAT_DGCL, 1), (PWR_SNS_RPK, 100)] with pwr := { Pwr.reset with hist := [(20000, 5000)] } }

theorem witness_PackTrips_collapse : let o : FastObs := ⟨20200, 20000, 20200, 500, 0⟩
    vccOn collB = true ∧ (dgOn collB && !packC collB && collapsed (putFast o collB)) = true ∧
    (dgOn (bench []) && !packC (bench []) && collapsed (putFast o (bench []))) = false ∧ dgOn collB = true ∧ dgOn (bench []) = false := by decide

/-! ## Impedance unit and ADC -/

/-- A sweep of one point in its lead-in or integration: lead-in of 2 periods, 4 cycles, of 5 frames. -/
def job0 : ImpJob :=
  { tag := 3, pts := [⟨0, 1, 5, 100, 4, 2⟩], retryEn := false, cont := false, resAddr := 0x5000, startPend := false, first := 0
    amps := [100], sums := [⟨0, 0, 0, 0⟩], ieff := 0, temp0 := 0, step := false, intr := false, clip := false, us := 0, govUs := 0
    retried := false, nDone := 0, nRetry := 0, bad := false, cancel := false }

/-- Its state: tag 3 runs in ring 16, `f` frames since F_g. -/
def sweepB (j : Option ImpJob) (fs : List (Fld × Nat)) : State :=
  { ringBench [tag 3 0 .running [0x10, 0, 0, 0, 0, 0, 0, 0, 0x00, 0x50]] fs with imp := { Imp.reset with job := j, apk := 1000 } }

/-- A descriptor of one point: NPT 1, results at 0x6000; GRP 1, H 1, D 10, AMP 100 mA, NCYC 4, LEAD 2. -/
def sweepDesc : List Byte := [1, 0, 0, 0, 0, 0x60, 0, 0] ++ leBytes 4 (2 ^ 28 + 2 ^ 20 + 10) ++ [100, 0, 4, 2]

theorem witness_SweepRows : let s := sweepB none []
    Legal s ∧ vccOn s = true ∧ Runs 2 (tag 3 0 .running [0x10, 0, 0, 0, 0, 0, 0, 0, 0x00, 0x50]) s ∧ s.imp.job = none ∧
    (sweepCheck 0x5000 s).1 = none ∧ Quiet s ∧ unitOp 2 (bench []) = none ∧ (sweepB (some job0) []).imp.job ≠ none :=
  ⟨legalOf (by decide), by decide, ⟨by decide, by decide⟩, by decide⟩

theorem witness_SweepRows_runs : let s := ramWrite 0x5000 sweepDesc (sweepB none [(IMP_CTL_EN, 1), (CHG_STATE_STATE, 5)])
    (sweepCheck 0x5000 s).1 = some (false, false, 0x6000, [⟨1, 1, 10, 100, 4, 2⟩]) ∧ flag IMP_CTL_EN s = true ∧ chgSt s ∈ [4, 5, 6] ∧
    flag IMP_CTL_EN (sweepB none []) = false := by decide +kernel

theorem witness_SweepRows_group : let s := sweepB (some job0) [(IMP_STAT_LEADIN, 1), (whole IMP_ELAP, 10)]
    let e := sweepB (some job0) [(IMP_STAT_INTEG, 1), (whole IMP_ELAP, 30)]
    let w := sweepB (some job0) []
    Quiet s ∧ s.imp.job = some job0 ∧ flag IMP_STAT_LEADIN s = true ∧ (groupSpan job0).1 ≤ rd IMP_ELAP s ∧ flag IMP_STAT_LEADIN w = false ∧
    rd IMP_ELAP w < (groupSpan job0).1 ∧ flag IMP_STAT_INTEG w = false ∧ tag 3 0 .running [0x10, 0, 0, 0, 0, 0, 0, 0, 0x00, 0x50] ∈ e.rng.tags ∧
    flag IMP_STAT_INTEG e = true ∧ (groupSpan job0).1 + (groupSpan job0).2 ≤ rd IMP_ELAP e ∧ job0.pts.length ≤ job0.first + job0.amps.length ∧
    job0.retryEn = false ∧ job0.cont = false := by decide

/-- R299: an amplitude of less than half the asked one marks the record, as a current below 5 mA does. -/
theorem test_vflags : vflags job0 100 (0, 0, 0) (bench []) ≠ 0 ∧ vflags job0 100 (1000, 0, 100) (bench []) = 0 := by decide

theorem witness_SweepRows_adc : let t := tag 3 0 .running [0x08, 0, 0, 0, 0, 0, 0, 0, 1, 4]
    Runs 1 t (ringBench [t] []) ∧ ([1, 2] : List Int).length < entB t.ent 9 ∧ entB t.ent 9 ≤ ([1, 2, 3, 4] : List Int).length ∧ Quiet (bench []) ∧ unitOp 1 (bench []) = none := ⟨⟨by decide, by decide⟩, by decide⟩

/-- R387: an HBUS reading below 0 is over range. -/
theorem test_adcOver : adcOver 0 (-1) = true ∧ adcOver 5 (-1) = false := by decide

/-! ## Rings and operations -/

theorem witness_OperationRows : let n := tag 0 0 .queued [1]
    let x := tag 0 0 .queued [2]
    let q := tag 1 0 .queued [0x18, 0, 0, 0, 0, 0, 0, 0, 0x10, 1, 1, 0, 0, 0x50, 0, 0x51]
    let b := tag 2 0 .running [0x18, 0, 0, 0, 0, 0, 0, 0, 0x10, 1, 1, 0, 0, 0x50, 0, 0x51]
    Ready (ringBench [n] []) ∧ nextOp 0 (ringBench [] []) = none ∧ nextOp 0 (ringBench [n] []) = some n ∧ opCode n (ringBench [n] []) = 0 ∧
    nextOp 0 (ringBench [x] []) = some x ∧ opCode x (ringBench [x] []) ≠ 0 ∧ entB x.ent 0 ≠ 1 ∧ entB n.ent 0 = 1 ∧
    nextOp 3 (ringBench [{ q with ring := 8 }] []) = some { q with ring := 8 } ∧
    unitOp 3 (ringBench [{ q with ring := 8 }] []) = none ∧ unitOp 3 (ringBench [b] []) = some b := by decide

theorem witness_OperationRows_checks : let s := ringBench [] []
    let l := tag 0 0 .queued [0x30]
    entB (tag 0 0 .queued [2]).ent 0 ∉ [0x01, 0x08, 0x10, 0x18, 0x20, 0x28, 0x30, 0x31, 0x38] ∧ entB l.ent 0 = 0x30 ∧
    ringOwner l.ring ∉ [1, 4] ∧ opCode l s = 1 ∧ ringOwner 8 = 2 ∧
    opCode (tag 0 8 .queued [0x18, 0, 0, 0, 0, 0, 0, 0, 0x10, 1, 1, 0, 0x00, 0x50, 0x00, 0x51])
      (ringBench [] [(⟨FLT_FENCE, uPkb, uPkb⟩, 1)]) ∈ [3, 4] := by decide

/-- CRC-SCAN of 16 bytes of shared RAM at 0x4480, and SHIP. -/
def scanTag : TagRec := tag 0 0 .running [0x20, 0, 0, 0, 0, 0, 0, 0, 0, 0, 0x80, 0x44, 16, 0]
def shipTag : TagRec := tag 0 16 .running [0x38]

theorem witness_OperationRows_units : Legal (ringBench [scanTag] []) ∧ vccOn (ringBench [scanTag] []) = true ∧ Runs 4 scanTag (ringBench [scanTag] []) ∧
    Legal (ringBench [shipTag] []) ∧ Runs 6 shipTag (ringBench [shipTag] []) ∧ Runs 6 shipTag (ringBench [shipTag] [(FLT_STAT_FAWN, 1)]) ∧
    Runs 6 shipTag (ringBench [shipTag] [(GLB_PSSTAT_PEND, 1)]) :=
  ⟨legalOf (by decide), by decide, ⟨by decide, by decide⟩, legalOf (by decide), ⟨by decide, by decide⟩, ⟨by decide, by decide⟩, ⟨by decide, by decide⟩⟩

theorem witness_OperationRows_scan : let s := ringBench [scanTag] []
    entB scanTag.ent 8 = 0 ∧ entH scanTag.ent 14 = 0 ∧ entH scanTag.ent 10 = 4 * 0x1120 ∧ entH scanTag.ent 12 = 4 * 4 ∧
    (∀ i < 4, CleanAt (4 * 0x1120 + 4 * i) s) ∧ unitOp 4 (bench []) = none ∧ unitOp 6 (bench []) = none ∧
    shipBusy (ringBench [shipTag] [(GLB_PSSTAT_PEND, 1)]) = true ∧ shipBusy (ringBench [shipTag] []) = false ∧
    inFawn (ringBench [shipTag] []) = false := by decide

/-- R562: the CRC-32C of an empty string is 0. -/
theorem test_crc_empty : crc32c [] = 0 := by decide

theorem witness_RingConfig : Ready (ringBench [] []) ∧ Writes none (RNG_CFG 16) (ringBench [] []) ∧ Writes (some .csq) (RNG_CFG 0) (engBench .csq id []) ∧
    ringOut 0 (ringBench [tag 0 0 .queued [1]] []) ≠ 0 ∧ ringOut 0 (ringBench [] []) = 0 ∧ flag LNK_CTL_EN (bench [(LNK_CTL_EN, 1)]) = true ∧
    flag RNG_LOCK_LOCK (bench [(RNG_LOCK_LOCK, 1)]) = true ∧ flag RNG_LOCK_LOCK (bench []) = false ∧
    ((List.range 5).map (fun o => quota o (wr RNG_QUOTA0 0x20202020 (bench [])))).sum ≤ 128 ∧
    128 < ((List.range 5).map (fun o => quota o (wr RNG_QUOTA0 0xFFFFFFFF (bench [])))).sum ∧
    Writes none RNG_QUOTA0 (bench []) := by decide

theorem witness_RegisterWrites_rows : let s := bench []
    let h := engBench .hsq id []
    (findRow HST_NEN).any (fun r => !r.sh && openMask r s != 0) = true ∧ ownEffect HST_NEN = false ∧ Writes none HST_NEN s ∧
    (findRow HUB_STAT).any (fun r => !r.sh && openMask r s == 0 && r.w1c != 0) = true ∧ ownEffect HUB_STAT = false ∧
    (findRow HUB_VREF).any (fun r => !r.sh && openMask r s == 0 && r.w1c == 0) = true ∧ ownEffect HUB_VREF = false ∧
    (findRow HUB_PKFLOOR).any (fun r => r.sh && openMask r h != 0) = true ∧ Writes (some .hsq) HUB_PKFLOOR h ∧
    engDown (shOwner HUB_PKFLOOR) h = false ∧
    engDown (shOwner HUB_PKFLOOR) (engBench .hsq (fun o => { o with phase := .halted }) []) = true ∧ Writes none (TCP_TXBUF 1 + 2) s ∧
    Writes (some .hsq) (TCP_TXBUF 1 + 2) h ∧ (TCP_TXBUF 1 + 2) % 2 ^ (1 : Fin 3).val = 0 ∧
    (regOf CHG_TMRCFG).any (fun p => p.1 == CHG_TMRCFG && decide (8 * 2 ^ (1 : Fin 3).val < p.2.width)) = true ∧ isBuffer CHG_TMRCFG = false ∧
    (regOf (CHG_TMRCFG + 2)).any (fun p => p.1 != CHG_TMRCFG + 2) = true ∧ Writes (some .csq) CHG_TMRCFG (engBench .csq id []) := by decide

theorem witness_RegisterWrites : Ready (bench []) ∧ Writes none 0x4480 (bench []) ∧
    (getEng .hsq (engBench .hsq id [])).phase = .running ∧ (0x4481 : BitVec 16).toNat % 2 ^ (2 : Fin 3).val ≠ 0 ∧
    engRights .csq 0 = false ∧ (getEng .csq (bench [])).phase ≠ .running ∧
    (let l := engBench .hsq id [(whole PWR_LOCK, 0xFFFFFFFF)]
     (findRow PWR_DT).any (fun r => r.sh && openMask r l == 0) = true ∧ engRights .hsq PWR_DT = true ∧ PWR_DT % 4 = 0 ∧
     (getEng .hsq l).phase = .running) := by decide

theorem witness_PendingClear : let s := chgB (fun c => { c with ovOn := true }) [(pendBit srcPkOv, 1)]
    Ready s ∧ Writes none FLT_PEND0 s ∧ condOn srcPkOv s = true ∧ srcPkOv < 37 ∧ (false = decide (32 ≤ srcPkOv)) := by decide

/-- R527: 1 clears a pending bit, and not while its condition is in force. -/
theorem test_pend : flag (pendBit srcPkOv) (pendClear false 0xFFFFFFFF (bench [(pendBit srcPkOv, 1)])) = false ∧
    flag (pendBit srcPkOv) (pendClear false 0xFFFFFFFF (chgB (fun c => { c with ovOn := true }) [(pendBit srcPkOv, 1)])) = true := by
  decide +kernel

/-! ## Pack port and pack bus -/

theorem witness_PackPresence : let t := pkB (fun p => { p with pkt := { p.pkt with stuck := true, outUs := some 0 } }) []
    let m := pkB (fun p => { p with pkt := { p.pkt with lastUs := some 0, merge := true, filt := true, openNow := true } }) []
    Ready (bench []) ∧ t.pk.pkt.stuck = true ∧ (getPin false (bench [])).filt = false ∧
    (getPin false (bench [])).lastUs.any (fun u => decide (nowUs (bench []) < u + 10000)) = false ∧
    (getPin false m).filt = true ∧ (getPin false m).lastUs.any (fun u => decide (nowUs m < u + 10000)) = true ∧ (getPin false m).merge = true ∧
    (getPin false m).filt = (getPin false m).openNow ∧ (getPin false (bench [])).stuck = false ∧
    fld PKP_STAT_TBAND (bench [(PKP_STAT_TBAND, 3)]) = 3 ∧ fld PKP_STAT_IBAND (bench [(PKP_STAT_IBAND, 2)]) = 2 := by decide

theorem witness_PackOwnership : let s := bench []
    let o := bench [(PKP_OWN_PKD, 2)]
    let l := pkB (fun p => { p with ownLast := some (1, engClock .pe1 (bench []), 0) }) []
    let m := pkB (fun p => { p with ownLast := some (2, engClock .pe0 (bench []), 0) }) []
    Ready s ∧ s.pk.ownLast.any (fun l => l.2.1 == engClock .pe0 s) = false ∧ fld PKP_OWN_PKD s = 0 ∧ fld PKP_OWN_PKC s = 0 ∧
    (∀ c : Fin 4, c = 1 ∨ c = 3 → c.val = 0 ∨ c.val = engNo .pe0 - 1 ∨ c.val = 3) ∧
    o.pk.ownLast.any (fun l => l.2.1 == engClock .pe0 o) = false ∧ fld PKP_OWN_PKD o = 3 - (engNo .pe0 - 1) ∧
    (1 : BitVec 8).toNat % 4 ≠ fld PKP_OWN_PKD o ∧ l.pk.ownLast = some (1, engClock .pe1 l, 0) ∧ m.pk.ownLast = some (2, engClock .pe0 m, 0) ∧
    engDown .pe0 (engBench .pe0 (fun o => { o with phase := .halted }) []) = true ∧ flag PKB_STAT_BUSY s = false := by decide

theorem witness_PackPresence_late : let s := { chgB (fun c => { c with rtFresh := true }) [(CHG_STAT_DVALID, 1), (CHG_DLAT0_TSRC, 1), (CHG_STAT_TSTALE, 1)] with
      clk := { Clk.reset with us := 1000000 } }
    (flag CHG_STAT_TSTALE s && s.chg.rtUs + 1000000 == nowUs s && rtUsed s) = true ∧
    (flag CHG_STAT_TSTALE (bench []) && (bench []).chg.rtUs + 1000000 == nowUs (bench []) && rtUsed (bench [])) = false := by decide

/-- R320: PE1 is not given a pin of PE0. -/
theorem test_own : fld PKP_OWN_PKD (run (.pkpOwnWrite (some .pe1) 2) (bench [(PKP_OWN_PKD, 1)])) = 1 := by decide

/-- A sequencer 0 that owns PKD, with FIFOs and a running cell. -/
def seqB (q : Seq) (fs : List (Fld × Nat)) : State := pkB (fun p => { p with seq0 := q }) ([(PKP_OWN_PKD, 1), (PKP_SEQCTL_EN 0, 1)] ++ fs)

theorem witness_PinSequencers : let s := seqB ⟨[], [], none⟩ []
    let f := seqB ⟨List.replicate 31 0, [], some 0⟩ []
    Ready s ∧ 32 ≤ (getSeq 0 f).tx.length + b2n (getSeq 0 f).run.isSome ∧ (getSeq 0 s).tx.length + b2n (getSeq 0 s).run.isSome < 32 ∧ (getSeq 0 f).run.isSome = true ∧
    flag (PKP_SEQCTL_EN 0) (bench []) = false ∧ padsOff (bench [(FLT_STAT_FAWN, 1)]) = true ∧ (getSeq 0 s).tx = [] ∧ (getSeq 0 s).run = none ∧
    flag (PKP_SEQCTL_EN 0) s = true ∧ padsOff s = false ∧ (0x00000005#32).toNat / 2 ^ 29 < 5 ∧ (0xA0000000#32).toNat / 2 ^ 29 = 5 ∧
    6 ≤ (0xC0000000#32).toNat / 2 ^ 29 ∧ (getSeq 0 s).rx.length < 16 ∧ bitOf (0xA0000000#32).toNat 28 = false ∧ fld PKP_OWN_PKD s = (0 : Fin 2).val + 1 ∧
    (seqB ⟨[], [], some 0x60010005#32⟩ []).pk.seq0.run = some 0x60010005#32 ∧ (0x60010005#32).toNat / 2 ^ 29 = 3 ∧
    bitOf (0x60010005#32).toNat 16 = true ∧ (0x00000005#32).toNat / 2 ^ 29 = 0 ∧ (0x40000005#32).toNat / 2 ^ 29 = 2 := by decide

/-- The pack bus: tag 0 of ring 0 runs a WRITE of one byte from 0x5000. -/
def pkbTag : TagRec := tag 0 0 .running [0x18, 0, 0, 0, 0, 0, 0, 0, 0x0B, 0, 1, 0, 0, 0x50, 0, 0]
/-- A BLKRD with PEC, one byte written and at most 4 read to 0x5100; a READ of 2 bytes there. -/
def blkTag : TagRec := tag 0 0 .running [0x18, 0, 0, 0, 0, 0, 0, 0, 0x0B, 7, 1, 4, 0, 0x50, 0, 0x51]
def readTag : TagRec := tag 0 0 .running [0x18, 0, 0, 0, 0, 0, 0, 0, 0x0B, 1, 0, 2, 0, 0, 0, 0x51]
def pkbB (f : Pkb → Pkb) (fs : List (Fld × Nat)) : State := let s := ringBench [pkbTag] fs; { s with pkb := f s.pkb }

theorem witness_PackBus : let own := [(PKP_OWN_PKD, 3), (PKP_OWN_PKC, 3)]
    Legal (pkbB id []) ∧ vccOn (pkbB id []) = true ∧ Runs 3 pkbTag (pkbB id []) ∧ Runs 3 pkbTag (pkbB id own) ∧
    Runs 3 pkbTag (pkbB (fun p => { p with retries := 2 }) own) ∧
    (pkbB id []).pkb.retries = 0 ∧ (pkbB (fun p => { p with retries := 2 }) own).pkb.retries ≠ 0 ∧
    (pkbB (fun p => { p with retries := 2 }) own).pkb.retries < 3 ∧ PkbEv.nack 0 ≠ .free ∧ pkbOwns (pkbB id []) = false ∧
    pkbOwns (pkbB id own) = true ∧ opParamOk pkbTag.ent = true ∧ (∀ i < 1, CleanAt (0x5000 + i) (pkbB id own)) ∧
    3 ≤ (pkbB (fun p => { p with retries := 3 }) own).pkb.retries :=
  ⟨legalOf (by decide), by decide, ⟨by decide, by decide⟩, ⟨by decide, by decide⟩, ⟨by decide, by decide⟩, by decide⟩

theorem witness_PackBus_reads : let own := [(PKP_OWN_PKD, 3), (PKP_OWN_PKC, 3)]
    let s := putTags [blkTag] (pkbB id own)
    let r := putTags [readTag] (pkbB id own)
    Runs 3 blkTag s ∧ Runs 3 readTag r ∧ opParamOk blkTag.ent = true ∧ opParamOk readTag.ent = true ∧ pkbOwns s = true ∧ pkbOwns r = true ∧
    entB blkTag.ent 9 % 4 = 3 ∧ bitOf (entB blkTag.ent 9) 2 = true ∧ entB readTag.ent 9 % 4 = 1 ∧ (∀ i < 4, CleanAt (0x5100 + i) s) ∧
    (∀ i < 2, CleanAt (0x5100 + i) r) ∧ 4 < (([5] : List Byte).getD 0 0xFF).toNat ∧ 0 < (([2, 8, 9, 0] : List Byte).getD 0 0xFF).toNat :=
  ⟨⟨by decide, by decide⟩, ⟨by decide, by decide⟩, by decide⟩

/-- R328: a BLKRD of 2 bytes leaves them at RBUF. -/
theorem test_blkrd : ramBytes 0x5100 2 (run (.pkbXfer false (.done [2, 8, 9, 0])) (putTags [blkTag] (pkbB id [(PKP_OWN_PKD, 3), (PKP_OWN_PKC, 3)]))) = [8, 9] := by
  decide +kernel

theorem witness_PackBus_free : let b := bench [(PKB_STAT_BUS, 2)]
    let u := pkbB (fun p => { p with unknown := true, arbUs := some 0 }) [(PKB_STAT_BUS, 3)]
    Quiet b ∧ fld PKB_STAT_BUS b = 2 ∧ Quiet u ∧ fld PKB_STAT_BUS u = 3 ∧ u.pkb.unknown = true ∧ nowUs u ≤ 0 + 35000 ∧ u.pkb.arbUs = some 0 ∧
    unitOp 3 (bench []) = none := by decide

/-! ## Program store -/

/-- PS-WRITE of one line from 0x4500 to 0x0040. -/
def psTag : TagRec := tag 0 16 .running [0x28, 0, 0, 0, 0, 0, 0, 0, 0x00, 0x45, 0x40, 0x00, 1]

theorem witness_StoreWriteAndScrub : Legal (ringBench [psTag] []) ∧ vccOn (ringBench [psTag] []) = true ∧ Runs 5 psTag (ringBench [psTag] []) ∧
    Runs 5 psTag (ringBench [psTag] [(GLB_PSSTAT_PEND, 1)]) ∧ armBusy (ringBench [psTag] [(GLB_PSSTAT_PEND, 1)]) = true ∧
    armBusy (ringBench [psTag] []) = false ∧ entH psTag.ent 8 = 64 * 276 ∧ entH psTag.ent 10 = 64 * 1 ∧ entB psTag.ent 12 = 1 ∧
    (∀ i < 16, CleanAt (64 * 276 + 4 * i) (ringBench [psTag] [])) ∧ unitOp 5 (bench []) = none ∧
    65536 < entH (tag 0 16 .running [0x28, 0, 0, 0, 0, 0, 0, 0, 0, 0x45, 0xC0, 0xFF, 2]).ent 10 + 64 * 2 :=
  ⟨legalOf (by decide), by decide, ⟨by decide, by decide⟩, ⟨by decide, by decide⟩, by decide⟩

/-- Line 5 of bank 1 with some changed physical bits, under the scrub. -/
def flipB (l : List Nat) (fs : List (Fld × Nat)) : State :=
  storeB (fun x => { x with scrubPos := 1029, flips := l.map (fun p => (1029, p)) }) fs

theorem witness_StoreWriteAndScrub_scrub : let s := flipB [0, 1] []
    let d := flipB [0, 32] [(GLB_PSSTAT_PEND, 1)]
    vccOn s = true ∧ flag FLT_INJ_ARM s = false ∧ s.store.scrubPos < 2048 ∧ lineErrAt true 5 (flipB [] []) = 0 ∧ Quiet (flipB [] []) ∧
    lineErrAt true 5 s = 1 ∧ 2 ≤ lineErrAt true 5 d ∧ true ≠ actBank d ∧ flag GLB_PSSTAT_PEND d = true ∧ (lineFlips true 5 s).Nodup ∧
    (∀ p ∈ lineFlips true 5 s, 0 ≤ p ∧ p < 0 + 32) ∧ (∀ p ∈ lineFlips true 5 d, 0 ≤ p ∧ p < 0 + 64) := by decide

/-- The scrub at copy `c` of the marker, with the changed physical bits `l`. -/
def markB (c : Nat) (l : List Nat) : State :=
  storeB (fun x => { x with scrubPos := 2048 + c, mk0 := { x.mk0 with flips := l }, mk1 := { x.mk1 with flips := l } }) []

theorem witness_StoreWriteAndScrub_marker : let s := markB 1 [3]
    vccOn s = true ∧ flag FLT_INJ_ARM s = false ∧ s.store.scrubPos = 2048 + (1 : Fin 2) ∧ markerLevel 1 0 s.store = 1 ∧
    lineWild s.store.mk1.flips = false ∧ markerLevel 0 0 (markB 0 []).store = 0 ∧ 2 ≤ markerLevel 0 0 (markB 0 [3, 35]).store := by decide

/-- R399, R400: 32 physical bits in a row touch each lane once; two bits of one lane are beyond correction. -/
theorem test_lanes : (List.range 32).map laneOf = List.range 32 ∧ laneOf 40 = 8 ∧ lineLevel 0 [3, 35] 0 = 2 := by decide

theorem witness_UpdateRows : let s := bench []
    let f := bench [(psFail true, 1)]
    let v := storeB (fun x => { x with verifying := true }) []
    let p := bench [(GLB_PSSTAT_PEND, 1)]
    let r := clkB (fun c => { c with swDue := true }) [(GLB_PSSTAT_PEND, 1)]
    let i := clkB (fun c => { c with swDue := true }) [(GLB_PSSTAT_PEND, 1), (FLT_STAT_FAWN, 1), (FLT_FAWN_CAUSE, 1)]
    Ready s ∧ armBusy s = false ∧ psWritePending s = false ∧ s.sup.shipBegun = false ∧ inFawn s = false ∧ entryFenced (!actBank s) s = false ∧
    flag (psFail (!actBank f)) f = true ∧ flag (psFail (!actBank s)) s = false ∧ armBusy p = true ∧ s.store.verifying = false ∧
    v.store.verifying = true ∧ flag GLB_PSSTAT_PEND p = true ∧ s.clk.swDue = false ∧ Ready r ∧ r.clk.swDue = true ∧ inFawn r = false ∧
    entryFenced (!actBank r) r = false ∧ Ready i ∧ inFawn i = true ∧ fld FLT_FAWN_CAUSE i ∈ [1, 8] := by decide

/-- A check window at its end: no engine has an entry in the header, so none fails; or CSQ has, with no check word. -/
def winB (rec entry : Bool) : State :=
  psWrite false 0x18 [0, b2n entry] { storeB (fun x => { x with winOpen := true, winRecovery := rec, oldBank := true }) [] with
    clk := { Clk.reset with swDue := true } }

theorem witness_UpdateRows_window : let s := winB false false
    let f := winB false true
    Ready s ∧ s.clk.swDue = true ∧ s.store.winOpen = true ∧ (windowMask s).1 = 0 ∧ (windowMask f).1 = 1 ∧ f.store.winRecovery = false ∧
    (windowMask (winB true true)).1 ≠ 0 ∧ (winB true true).store.winRecovery = true ∧ inFawn (winB true true) = false := by decide

/-! ## Herd Link -/

/-- A node of role `r` at address 9, index 2 of 4 nodes, with the link enabled; its last beacon was of frame index 1. -/
def nodeB (r : Nat) (f : Lnk → Lnk) (fs : List (Fld × Nat)) : State :=
  lnkB (fun l => f { l with bidx := 1 }) ([(LNK_CTL_EN, 1), (LNK_STAT_ROLE, r), (LNK_ADDR_ADDR, 9), (LNK_POS_INDEX, 2), (LNK_POS_NN, 4)] ++ fs)

theorem witness_LinkRolesAndBeacons : let s := nodeB 3 id []
    let k := { nodeB 1 id [(GLB_CLKSTAT_XIOK, 1)] with clk := { Clk.reset with running := true } }
    let c := nodeB 3 (fun l => { l with lost := true }) [(GLB_CLKSTAT_XIOK, 1)]
    let d := nodeB 4 (fun l => { l with rollDue := true }) []
    Ready s ∧ s.lnk.txq = [] ∧ k.clk.running = true ∧ s.clk.running = false ∧ flag LNK_STAT_LOCK (nodeB 3 id [(LNK_STAT_LOCK, 1)]) = true ∧ flag LNK_STAT_LOCK s = false ∧ lnkMay k = true ∧
    lnkRole k = 1 ∧ lnkRole d = 4 ∧ k.clk.bkosc = false ∧ flag LNK_STAT_LOCK k = false ∧ lnkEligible k = true ∧ lnkRole c = 3 ∧ c.lnk.lost = true ∧
    lnkRole s ∉ [0, 1, 4] ∧ lnkMay d = true ∧ lnkRole (nodeB 5 (fun l => { l with lost := true }) []) = 5 ∧ d.lnk.rollSend = false ∧ d.lnk.roll = 0 ∧
    (nodeB 4 id []).lnk.rollDue = false ∧ lnkMay c = true ∧ lnkEligible c = true ∧ lnkEligible s = false ∧ s.lnk.lost = false ∧ lnkRole s = 3 ∧ d.lnk.rollDue = true ∧
    flag LNK_CTL_EN s = true ∧ flag LNK_CTL_EN (bench []) = false ∧ fencedU uLnk (bench []) = false ∧ (bench []).sup.shipBegun = false := by decide

/-- A beacon of the lead at 1, frame 7, index 7, HOPC 4; and a claim of the key 7. -/
def beacon (claim : Bool) : List Byte := mkBeacon (if claim then 0 else 1) (if claim then 2 else 0) 7 7 4 0

theorem witness_LinkRolesAndBeacons_beacon : (beacon false).length = 16 ∧ bitOf (lb (beacon false) 1) 1 = false ∧
    (lnkCrc (foldLead 1) (((beacon false).drop 1).take 7)).toNat = lw (beacon false) 12 ∧ bitOf (lb (beacon true) 1) 1 = true ∧
    (lnkCrc (foldLead 0) (((beacon true).drop 1).take 7)).toNat = lw (beacon true) 12 ∧
    (lnkCrc (foldLead 1) (((beacon true).drop 1).take 7)).toNat ≠ lw (beacon true) 12 := by decide +kernel

/-- A measured node whose turn in the list of arrivals has come. -/
theorem witness_LinkRolesAndBeacons_trained : let s := nodeB 3 (fun l => { l with trained := true }) [(LNK_TIME_HOPD, 40), (LNK_SEG_SEG, 8)]
    lnkRole s = 3 ∧ s.lnk.trained = true ∧ lh (mkBeacon 1 0 7 7 2 0) 8 % 512 = 2 ∧ fld LNK_POS_INDEX s = 2 ∧
    (-160 : Int) ≤ 150 - (fld LNK_TIME_HOPD s + fld LNK_SEG_SEG s : Nat) ∧ ¬ ((400 : Int) - (fld LNK_TIME_HOPD s + fld LNK_SEG_SEG s : Nat) ≤ 160) := by
  decide +kernel

/-- The tick of a running node moves in this frame, by a beacon that comes before tick 190, and else in the next. -/
theorem witness_LinkRolesAndBeacons_tick : let s := { nodeB 3 (fun l => { l with trained := true }) [] with clk := { Clk.reset with running := true } }
    s.clk.running = true ∧ max ((150 : Int) % (32000 + s.lnk.stretch)) (16 * s.clk.sft : Nat) + 512 < 3040 ∧
    3040 ≤ max ((3000 : Int) % (32000 + s.lnk.stretch)) (16 * s.clk.sft : Nat) + 512 ∧ flag GLB_CLKSTAT_TALIGN s = false ∧
    (nodeB 3 id []).clk.running = false ∧ flag GLB_CLKSTAT_TALIGN (nodeB 3 id [(GLB_CLKSTAT_TALIGN, 1)]) = true ∧
    (nodeB 3 (fun l => { l with readopt := true }) []).lnk.readopt = true ∧ s.lnk.readopt = false ∧ s.lnk.lead = 0 ∧ (0 : BitVec 12).toNat = 0 := by decide

/-- R440: of a move of 100 taps the frame that opens next makes 32, and 36 are left after the two. -/
theorem test_lnkMove : (lnkMove 0 100 Lnk.reset).stretch = 32 ∧ (lnkMove 0 100 Lnk.reset).moveOn.stretch = 32 ∧
    (lnkMove 0 100 Lnk.reset).moveOn.moveLeft = 36 := by decide

/-- R441: a node that heard the beacon of frame index 0 leaves slot 0. -/
theorem test_slot0 : slotOpen 0 (nodeB 3 (fun l => { l with bidx := 0 }) []) = false ∧ slotOpen 0 (nodeB 3 id []) = true ∧
    slotOpen 1 (nodeB 3 (fun l => { l with bidx := 0 }) []) = true := by decide +kernel

/-- A claiming node of key 7 with UID `uid`. -/
def claimB (back : Bool) (n uid : Nat) : State :=
  nodeB 2 (fun l => { l with claims := n, claimBack := back }) [(LNK_CTL_LPRI, 7), (whole LNK_UID, uid)]

theorem witness_LinkRolesAndBeacons_claim : let key := lb (beacon true) 6 % 16 * 2 ^ 32 + lw (beacon true) 2
    let own := fun (s : State) => fld LNK_CTL_LPRI s * 2 ^ 32 + rd LNK_UID s
    lnkRole (claimB false 0 9) = 2 ∧ lnkMay (claimB false 0 9) = true ∧ flag FLT_INJ_ARM (claimB false 0 9) = false ∧ lnkRole (bench []) = 0 ∧
    key < own (claimB false 0 9) ∧ own (claimB false 0 3) < key ∧ key = own (claimB false 6 7) ∧ (claimB false 6 7).lnk.claims < 7 ∧
    key = own (claimB true 7 7) ∧ (claimB true 7 7).lnk.claimBack = true ∧ (claimB true 7 7).lnk.claims < 8 ∧
    7 ≤ (claimB false 7 7).lnk.claims := by decide +kernel

theorem witness_LinkBudget : let s := nodeB 3 id []
    let r := nodeB 3 (fun l => { l with cad := 2, cph := 1 }) []
    Ready s ∧ flag FLT_INJ_ARM s = false ∧ lnkMay s = true ∧ lnkRole s ∉ [0, 4] ∧ lnkRole (bench []) ∈ [0, 4] ∧
    fld LNK_POS_INDEX s % max 1 s.lnk.cad = s.lnk.cph ∧ fld LNK_POS_INDEX s < 400 ∧ s.lnk.roll = 0 ∧
    fld LNK_POS_INDEX r % max 1 r.lnk.cad ≠ r.lnk.cph ∧ lnkRole (bench []) ∉ [3, 4, 5] := by decide

/-- A command slot with no order, and its CRC under address 0 and frame 0. -/
def cmdSlot : List Byte :=
  let b : List Byte := [0x5C, 1, 4, 0, 1, 0, 0, 0] ++ List.replicate 36 0
  b ++ leBytes 4 (lnkCrc (foldFrm 0 0) ((b.drop 1).take 0x2B)).toNat

theorem witness_LinkBudget_slot : let s := nodeB 3 id []
    cmdSlot.length = 48 ∧ (lnkCrc (foldFrm s.lnk.lead (lnkFrm s)) ((cmdSlot.drop 1).take 0x2B)).toNat = lw cmdSlot 0x2C ∧
    lb cmdSlot 0x10 = 0 ∧ lnkRole (nodeB 4 id []) = 4 ∧ lnkMay (nodeB 4 id []) = true ∧
    (lnkCrc (foldFrm (nodeB 4 id []).lnk.lead (nodeB 4 id []).lnk.bfrm) ((cmdSlot.drop 1).take 0x2B)).toNat = lw cmdSlot 0x2C := by decide +kernel

/-- A command slot with the order ROLLCALL. -/
def rollSlot : List Byte :=
  let b : List Byte := [0x5C, 1, 4, 0, 1, 0, 0, 0] ++ List.replicate 8 0 ++ [1, 5] ++ List.replicate 26 0
  b ++ leBytes 4 (lnkCrc (foldFrm 0 0) ((b.drop 1).take 0x2B)).toNat

theorem witness_LinkBudget_order : let s := nodeB 3 id []
    rollSlot.length = 48 ∧ (lnkCrc (foldFrm s.lnk.lead (lnkFrm s)) ((rollSlot.drop 1).take 0x2B)).toNat = lw rollSlot 0x2C ∧
    lb rollSlot 0x10 = 1 ∧ s.lnk.oseq ≠ some (lb rollSlot 0x11) := by decide +kernel

/-- A message of class 1 from 5 to `dst`, relayed or not, as the node of address 9 hears it. -/
def msg (dst src : Nat) (relayed : Bool) : List Byte :=
  let b : List Byte := [0xFB, if relayed then 0x11 else 1] ++ leBytes 2 dst ++ leBytes 2 src ++ List.replicate 52 0
  b ++ leBytes 4 (lnkCrc (foldLead 0) (msgCov b)).toNat ++ [0xFD]

theorem witness_LinkMessages : let s := nodeB 3 id []
    vccOn s = true ∧ flag FLT_INJ_ARM s = false ∧ Quiet s ∧ lnkRole (nodeB 5 id []) = 5 ∧ 62 ≤ (msg 9 5 false).length ∧ msgMine (msg 9 5 false) s = true ∧
    msgMine (msg 8 5 false) s = false ∧ bitOf (lb (msg 8 9 true) 1) 4 = true ∧ bitOf (lb (msg 8 9 false) 1) 4 = false ∧
    msgSrc (msg 8 5 true) ≠ lnkAddr s ∧ s.lnk.relay.length < 32 ∧ slotOpen 0 s = true ∧ slotOpen 26 s = false ∧ msgNext s = none := by
  decide +kernel

theorem witness_LinkMessages_check : let ok := fun (bs : List Byte) (s : State) => (lnkCrc (foldLead s.lnk.lead) (msgCov bs)).toNat = lw bs 0x3A
    let t : LnkTx := ⟨1, 0, 0, 8, 0, some 0⟩
    let own := nodeB 3 (fun l => { l with txq := [t] }) []
    ok (msg 9 5 false) (nodeB 3 id []) ∧ ok (msg 9 5 false) (nodeB 1 id []) ∧ lnkRole (nodeB 1 id []) ∈ [1, 2] ∧ ok (msg 8 5 false) (nodeB 5 id []) ∧ ok (msg 8 5 true) (nodeB 4 id []) ∧ ok (msg 8 9 true) own ∧ ok (msg 8 9 false) own ∧
    ¬ ok (msg 9 5 false) (nodeB 3 (fun l => { l with lead := 1 }) []) ∧ msgOwn (msg 8 9 true) own = some t := by decide +kernel

theorem witness_LinkMessages_send : let t : LnkTx := ⟨1, 0, 0, 8, 0, none⟩
    let s := nodeB 3 (fun l => { l with txq := [t] }) []
    let r := nodeB 4 (fun l => { l with relay := [msg 8 5 false] }) []
    msgNext s = some t ∧ slotOpen 0 s = true ∧ Quiet r ∧ lnkRole r = 4 ∧ slotOpen 0 r = true ∧ relayNext r = some (msg 8 5 false) ∧
    32 ≤ (List.replicate 32 (msg 8 5 false)).length ∧ (s.clk.frm - 0).toNat < (if flag LNK_STAT_DBL s then 8 else 4) := by decide +kernel

/-- Operations of the link: LNK-SEND of class 1 with 4 bytes to 8, and LNK-RECV of class 1. -/
def sendTag (n : Nat) : TagRec := tag 0 4 .running [0x30, 0, 0, 0, 0, 0, 0, 0, 1, BitVec.ofNat 8 n, 8, 0, 0, 0x50]
def recvTag : TagRec := tag 0 4 .running [0x31, 0, 0, 0, 0, 0, 0, 0, 1, 4, 0, 0, 0, 0x50]
/-- An order of the lead to 8, of `n` bytes. -/
def orderTag (n : Nat) : TagRec := tag 0 4 .running [0x30, 0, 0, 0, 0, 0, 0, 0, 1, BitVec.ofNat 8 n, 8, 0x80, 0, 0x50]
def lopB (t : TagRec) (f : Lnk → Lnk) (fs : List (Fld × Nat)) : State :=
  let s := putTags [t] (nodeB 3 id fs); { s with lnk := f s.lnk }

theorem witness_LinkOperations : let en := [(whole (RNG_CFG 25), 0x80024480), (whole (RNG_CFG 29), 0x80024800)]
    let x := lopB recvTag (fun l => { l with rxq := [(1, 0, false)] }) en
    Legal (lopB (sendTag 4) id en) ∧ Runs 8 (sendTag 4) (lopB (sendTag 4) id en) ∧ Runs 8 (sendTag 49) (lopB (sendTag 49) id []) ∧
    Runs 12 recvTag x ∧ (∀ d < 4, d ≠ 1 → unitOp (7 + d) (lopB (sendTag 4) id en) = none) ∧
    (∀ d < 4, d ≠ 1 → unitOp (11 + d) x = none) ∧ lnkRole (lopB (sendTag 4) id en) ∈ [3, 4] ∧ 48 < entB (sendTag 49).ent 9 ∧
    ringEn 25 (lopB (sendTag 4) id []) = false ∧ ringEn 25 (lopB (sendTag 4) id en) = true ∧ lnkFree 25 (lopB (sendTag 4) id en) = some 0 ∧
    x.lnk.rxq.find? (fun y => y.1 == 1) = some (1, 0, false) ∧ ringEn 29 x = true ∧ (∀ d < 4, unitOp (7 + d) (bench []) = none) ∧
    (∀ d < 4, unitOp (11 + d) (bench []) = none) :=
  ⟨legalOf (by decide), ⟨by decide, by decide⟩, ⟨by decide, by decide⟩, ⟨by decide, by decide⟩, by decide⟩

theorem witness_LinkOperations_copies : let en := [(whole (RNG_CFG 25), 0x80024480), (whole (RNG_CFG 29), 0x80024800)]
    let s := lopB (sendTag 4) id en
    let x := lopB recvTag (fun l => { l with rxq := [(1, 0, false)] }) en
    opParamOk (sendTag 4).ent = true ∧ (∀ i < 4, CleanAt (0x5000 + i) s) ∧ lnkSlot 25 0 s % 4 = 0 ∧ ramLo ≤ lnkSlot 25 0 s ∧
    lnkSlot 25 0 s + 64 ≤ ramHi + 1 ∧ opParamOk recvTag.ent = true ∧ ramLo ≤ lnkSlot 29 0 x ∧ lnkSlot 29 0 x + 64 ≤ ramHi + 1 ∧
    (∀ i < 64, CleanAt (lnkSlot 29 0 x + i) x) ∧ (∀ i < 4, CleanAt (0x5000 + i) x) ∧ bitOf (entH (orderTag 4).ent 10) 15 = true ∧
    entB (orderTag 4).ent 9 ≤ 22 ∧ 22 < entB (orderTag 23).ent 9 ∧ lnkRole (nodeB 4 id []) = 4 := by decide +kernel

/-- R455, R460: LNK-SEND leaves STATUS 0x01, LEN and the bytes of BUF in the slot; a longer message is truncated to MAXLEN. -/
theorem test_lnkSend : let s := run .lnkSend (ramWrite 0x5000 [1, 2, 3, 4] (lopB (sendTag 4) id [(whole (RNG_CFG 25), 0x80024480)]))
    ramBytes 0x4480 4 s = [1, 4, 8, 0] ∧ ramBytes 0x4490 4 s = [1, 2, 3, 4] := by decide +kernel

/-! ## Host interface -/

theorem witness_HostReads : let r := supB (fun x => { x with power := .aoOnly }) []
    let s := bench []
    Quiet s ∧ (0x50 : BitVec 7).toNat ≠ 0x50 + s.sup.nAddr ∧ (0x57 : BitVec 7).toNat = 0x50 + s.sup.nAddr ∧
    (supB (fun x => { x with power := .unpowered }) []).sup.power = .unpowered ∧ r.sup.power ≠ .on ∧ r.sup.power ≠ .unpowered ∧ s.sup.power = .on ∧
    (0x5F : BitVec 7).toNat = 0x58 + s.sup.nAddr ∧ (0x99 : Byte).toNat ∉ cmdCodes ∧ (∀ c ∈ ([0x20] : List Byte).head?, c.toNat ∈ cmdCodes) ∧
    ([0x80, 0x44] : List Byte).length = 2 ∧ inRam (argAddr [0x80, 0x44]) 4 = true ∧ (∀ i < 4, CleanAt (argAddr [0x80, 0x44] + i) s) ∧
    (let p := hstB (fun h => { h with ptr := 0xFF }) [(GLB_PAGE_PAGE, 0x44)]
     (p.hst.ptr + 1) % 256 = 0 ∧ inRam (fld GLB_PAGE_PAGE p * 256 + 0xFF) 1 = true ∧ CleanAt (fld GLB_PAGE_PAGE p * 256 + 0xFF) p) := by decide

/-- R470: from the end of page 0x44 a read wraps to GLB_PAGE. -/
theorem test_pageWrap : (run (.pointerRead 0x57 false 2) (ramWrite 0x44FF [9] (hstB (fun h => { h with ptr := 0xFF }) [(GLB_PAGE_PAGE, 0x44)]))).hst.out
    = [9, 0x44] := by decide +kernel

theorem witness_HostWrites : let s := bench []
    let f := supB (fun x => { x with fuseBusy := some (0, 1) }) []
    let p := bench [(HST_CFG_PECREQ, 1)]
    let d := ringBench [tag 5 16 .done [1]] []
    Legal s ∧ Quiet s ∧ s.sup.power = .on ∧ s.sup.fuseBusy = none ∧ f.sup.fuseBusy ≠ none ∧ inFawn s = false ∧ flag HST_CFG_PECREQ p = true ∧
    flag HST_CFG_PECREQ s = false ∧ flag FLT_INJ_ARM s = false ∧ (0 : Byte) ≠ crc8 (cmdW s :: BitVec.ofNat 8 0x11 :: [0x80, 0x44, 7]) ∧
    inRam (argAddr [0x80, 0x44, 7]) 1 = true ∧ inRam (argAddr [0, 0]) 1 = false ∧ hostRing 16 = true ∧ hostRing 3 = false ∧
    ringEn 16 s = false ∧ ringEn 16 d = true ∧ ringOut 16 d < ringDepth 16 d ∧ tagsHeld 4 d < quota 4 d ∧
    ringHead 9 16 s = none ∧ ringHead 9 16 d = some (5, 0x4800) ∧ (∀ w < 4, CleanAt (0x4800 + 4 * w) d) :=
  ⟨legalOf (by decide), by decide +kernel⟩

theorem witness_HostWrites_ring : let d := { ringBench [tag 5 16 .done [1]] [] with clk := { Clk.reset with us := 1 } }
    RingsBefore (clockNow d) d ∧ LowestFree 0 d ∧ (supB (fun x => { x with power := .aoOnly }) []).sup.power ≠ .on := by
  refine ⟨⟨by decide, by decide, by decide, by decide⟩, ⟨by decide, ?_, by omega⟩, by decide⟩
  rintro ⟨r, h, e⟩
  have h' : r = tag 5 16 .done [1] := List.mem_singleton.mp h
  subst h'; exact absurd e (by decide)

theorem witness_HostWrites_closed : let a := fun (w : Nat) => argAddr (leBytes 2 w ++ [0, 0, 0, 0])
    (leBytes 2 WDG_KEY ++ [0, 0, 0, 0]).length = 6 ∧ a WDG_KEY = WDG_KEY ∧ flag WDG_STAT_KEYLK (bench [(WDG_STAT_KEYLK, 1)]) = true ∧
    a WDG_TASK ∈ [WDG_PER, WDG_TASK] ∧ flag WDG_STAT_RUN (bench [(WDG_STAT_RUN, 1)]) = true ∧ flag WDG_STAT_OPEN (bench []) = false ∧
    a TCP_TXCMD = TCP_TXCMD ∧ flag TCP_STAT_BUSY (bench [(TCP_STAT_BUSY, 1)]) = true := by decide

/-- R478, R481: a write that its register's own condition closes ends with RES 0x05. -/
theorem test_closed : fld HST_RES_RES (run (.write32 (leBytes 2 WDG_KEY ++ [1, 0, 0, 0])) (bench [(WDG_STAT_KEYLK, 1)])) = 5 ∧
    fld HST_RES_RES (run (.write32 (leBytes 2 WDG_PER ++ [1, 0, 0, 0])) (bench [(WDG_STAT_RUN, 1)])) = 5 ∧
    fld HST_RES_RES (run (.write32 (leBytes 2 TCP_TXCMD ++ [1, 0, 0, 0])) (bench [(TCP_STAT_BUSY, 1)])) = 5 := by decide +kernel

/-- R481: WRITE8 of 7 to 0x4480 puts it there, with RES 0. -/
theorem test_write8 : ramByte 0x4480 (run (.write8 [0x80, 0x44, 7]) (bench [])) = 7 ∧ fld HST_RES_RES (run (.write8 [0x80, 0x44, 7]) (bench [])) = 0 := by
  decide +kernel

theorem witness_FuseWrites : let s := bench []
    let m := supB (fun x => { x with fuses := x.fuses.set 3 ⟨5, true, 5, true⟩ }) []
    let t := bench [(whole THM_DIE, 200)]
    let b := supB (fun x => { x with fuseBusy := some (3, 5) }) []
    Quiet s ∧ s.sup.power = .on ∧ s.sup.fuseBusy = none ∧ inFawn s = false ∧ flag HST_CFG_PECREQ s = false ∧ fuseRange 3 0 = false ∧
    fuseRange 3 5 = true ∧ ((fuseCell 3 m).mark0 || (fuseCell 3 m).mark1) = true ∧ ((fuseCell 3 s).mark0 || (fuseCell 3 s).mark1) = false ∧
    fuseMay 11000 t = false ∧ fuseMay 20000 t = true ∧ b.sup.fuseBusy = some (3, 5) := by decide

theorem witness_HostNotify : let s := bench []
    let n := bench [(HST_CFG_NOTEN, 1), (GLB_SUPSTAT_VIOOK, 1), (⟨HST_NPEND, 0, 0⟩, 1), (⟨HST_NEN, 0, 0⟩, 1), (HST_CFG_NRPT, 1)]
    let l := hstB (fun h => { h with tries := 3 }) []
    Ready s ∧ notifyDue s = false ∧ s.hst.tries = 0 ∧ Ready n ∧ notifyDue n = true ∧ l.hst.tries ≠ 0 ∧ 3 ≤ l.hst.tries ∧
    (hstB (fun h => { h with tries := 2 }) []).hst.tries < 3 ∧ flag HST_CFG_NOTEN n = true ∧ fld HST_CFG_NRPT n ≠ 0 ∧
    rd HST_NPEND n &&& rd HST_NEN n ≠ 0 ∧ NotifyEv.done ≠ .free ∧ flag HST_CFG_NOTEN s = false ∧ s.sup.power = .on ∧ s.sup.fuseBusy = none := by decide

/-! ## Watchdog and thermal management -/

/-- The watchdog runs a period of 3,277 cycles with task 0 of CSQ, `us` after its start. -/
def wdB (us : Nat) (fs : List (Fld × Nat)) : State :=
  { wdgB (fun w => { w with cyc := 3277, task := 8, key := 5 }) ((WDG_STAT_RUN, 1) :: fs) with clk := { Clk.reset with us := us } }

/-- A record of clock `c` for the state `s`. -/
def wdNote (c : Nat) (s : State) (f : WdgBack → WdgBack) : State :=
  { s with wback := some (f ⟨c, s.toBlock, [], [], false, false, 0, 0, none⟩) }

theorem witness_WatchdogSetup : Ready (bench []) ∧ flag WDG_STAT_RUN (bench []) = false ∧ inFawn (bench []) = false ∧
    flag WDG_STAT_KEYLK (bench []) = false ∧ flag WDG_STAT_KEYLK (bench [(WDG_STAT_KEYLK, 1)]) = true ∧
    flag WDG_STAT_OPEN (wdB 0 [(WDG_STAT_OPEN, 1)]) = true ∧ flag WDG_STAT_RUN (wdB 0 []) = true ∧ flag WDG_STAT_OPEN (wdB 0 []) = false ∧
    servedOpen 0 (wdNote 0 (wdB 0 [(WDG_STAT_OPEN, 1)]) (fun b => { b with valid := true })) = true ∧ clockNow (wdB 0 []) = 0 ∧
    lfoMay ((wdB 13000 []).wdg.cyc / 8) (wdB 13000 []) = true ∧ lfoMay ((wdB 1000 []).wdg.cyc / 8) (wdB 1000 []) = false := by decide

theorem witness_WatchdogService : let s := wdB 0 []
    let d := wdB 0 [(WDG_CHKD_MASK, 1)]
    Ready s ∧ flag WDG_STAT_RUN s = true ∧ vccOn s = true ∧ wdgMissing d = 0 ∧ wdgMissing s ≠ 0 ∧ fld WDG_STAT_BADCNT s < 2 ∧
    wdgToken 5 0 = 5 ∧ s.wdg.endAt ≠ some (clockNow s) ∧ s.wback = none ∧
    (let x := { s with wdg := { s.wdg with endAt := some 0 } }; x.wdg.endAt = some (clockNow x)) ∧ (0 : Word) ≠ wdgToken 5 0 ∧
    wdgOwner 0 s = some ((some EngId.csq).map engNo |>.getD 4) ∧ bitOf (fld WDG_CHKD_MASK s) 0 = false ∧ bitOf (fld WDG_CHKD_MASK d) 0 = true ∧
    wdgOwner 0 s ≠ some ((none : Option EngId).map engNo |>.getD 4) := by decide

/-- A third bad service, one of the third expiry, and a check-in in the clock of a service. -/
theorem witness_WatchdogService_third : let s := wdB 0 [(WDG_STAT_BADCNT, 2)]
    let t := { s with wdg := { s.wdg with exps := [0, 0] } }
    let x := wdNote 0 s (fun b => { b with svcs := [5] })
    2 ≤ fld WDG_STAT_BADCNT s ∧ inFawn s = false ∧ s.store.commitAt = none ∧ s.clk.swDue = false ∧ (wdgExps s).length < 2 ∧
    s.store.winOpen = false ∧ s.store.restartAt = none ∧ 2 ≤ (wdgExps t).length ∧ vccOn x = true ∧ (x.wback.map (fun b => b.svcs)) = some [5] ∧
    (x.wback.map (fun b => b.clk)) = some (clockNow x) := by decide

theorem witness_WatchdogExpiry : let s := wdB 100100 []
    let t := { wdB 100100 [] with wdg := { (wdB 100100 []).wdg with exps := [0, 0] } }
    vccOn s = true ∧ flag WDG_STAT_RUN s = true ∧ inFawn s = false ∧ lfoMay s.wdg.cyc s = true ∧ (wdgExps s).length < 2 ∧
    s.store.winOpen = false ∧ lfoMay (wdB 50000 []).wdg.cyc (wdB 50000 []) = false ∧ Quiet (wdB 50000 []) ∧ t.wdg.exps = [0, 0] ∧
    s.wback = none ∧ s.clk.swDue = false ∧ s.store.commitAt = none ∧ s.store.restartAt = none := by decide

theorem witness_WatchdogExpiry_swap : let s := { wdB 100100 [(GLB_PSSTAT_PEND, 1)] with clk := { Clk.reset with us := 100100, swDue := true } }
    lfoMay s.wdg.cyc s = true ∧ s.clk.sft = 0 ∧ s.clk.swDue = true ∧ flag GLB_PSSTAT_PEND s = true ∧ s.wback = none ∧
    entryFenced (!actBank s) s = false := by decide

/-- A bad service of the clock of the expiry: it changed the watchdog alone, raised an event, or was the third. -/
theorem witness_WatchdogExpiry_back : let s := wdB 100100 []
    let far := fun (x : State) => x.wback.map (fun b => wdgFar b x)
    let a := wdNote 10010000 s id
    let v := wdNote 10010000 s (fun b => { b with ev := some ⟨false, false, false, false, false, 0, none, false⟩ })
    let d := wdNote 10010000 s (fun b => { b with done := true })
    clockNow s = 10010000 ∧ vccOn s = true ∧ far a = some false ∧ far v = some false ∧ far d = some true ∧ (a.wback.map (fun b => b.ev.isNone)) = some true ∧
    (a.wback.map (fun b => let u := wdgTakeBack b a; (flag WDG_STAT_RUN u, inFawn u, lfoMay u.wdg.cyc u))) = some (true, false, true) := by decide

/-- R503: a check-in of task 0 in the clock of the service before it, which was judged bad without it, makes that service valid; also where
it was the third bad one. -/
theorem test_sameClock : ∀ n ∈ [0, 2], let s := run (.watchdogCheckin (some .csq) 0) (run (.watchdogService (wdgToken 5 0)) (wdB 0 [(WDG_STAT_BADCNT, n)]))
    flag WDG_STAT_SVCEVT s = true ∧ fld WDG_STAT_BADCNT s = 0 ∧ flag WDG_STAT_BADEVT s = false ∧ flag (pendBit srcWdgBad) s = false ∧
    flag WDG_STAT_EXPEVT s = false := by decide +kernel

/-- R498, R501: the third bad service expires the watchdog at once; R501: an expiry in the clock of a bad service, which made Fawn mode be
entered, undoes the entry. -/
theorem test_third : flag WDG_STAT_EXPEVT (run (.watchdogService 0) (wdB 0 [(WDG_STAT_BADCNT, 2)])) = true ∧
    (let s := run .watchdogExpiry (run (.watchdogService 0) (wdB 100100 [(FLT_CFG_REACT srcWdgBad, 4)]))
     inFawn s = false ∧ flag WDG_STAT_EXPEVT s = true ∧ flag WDG_STAT_BADEVT s = false) := by decide +kernel

/-- R424: an expiry in the clock of a commit; R118: one in the clock of a swap. -/
theorem witness_WatchdogExpiry_clock : let w := wdB 100100 []
    let c := { w with store := { w.store with commitAt := some (10010000, false, false), bytes := [(0x18, 0x40)] } }
    let r := { w with store := { w.store with restartAt := some 10010000 } }
    c.store.commitAt = some (clockNow c, false, false) ∧ lfoMay c.wdg.cyc c = true ∧ c.clk.swDue = false ∧ startedMask c ≠ 0 ∧
    (wdgExps c).length < 2 ∧ c.wback = none ∧ r.store.restartAt = some (clockNow r) ∧ r.store.commitAt = none := by decide

/-- Thermal management changed. -/
def thmB (f : Thm → Thm) (us : Nat) (fs : List (Fld × Nat)) : State :=
  { bench fs with thm := f Thm.reset, clk := { Clk.reset with us := us } }

theorem witness_ThermalRows : let d := thmB (fun t => { t with due := true }) 0 []
    let c := thmB (fun t => { t with coolHard := some 0 }) 1000000 [(THM_STAT_HARD, 1)]
    Ready (bench []) ∧ (bench []).thm.due = false ∧ vccOn d = true ∧ d.thm.due = true ∧ fld (THM_TRCFG_MODE 0) d ∉ [1, 2] ∧
    flag THM_STAT_HARD d = false ∧ (1176 : Int) < ((fld THM_JTH_HARD (bench [(THM_JTH_HARD, 150)]) : Int) * 8 - 24) + 1 ∧
    (fld THM_JTH_HARD (bench [(THM_JTH_HARD, 150)]) : Int) * 8 - 24 ≤ 1176 ∧ Ready c ∧ flag THM_STAT_HARD c = true ∧ c.thm.coolHard = some 0 ∧ 0 + 1000000 ≤ nowUs c := by decide

/-! ## Timer array -/

theorem witness_TimerWrites : let g := bench [(TMR_CFG_STAGE 2, 1), (TMR_CFG_EN 2, 1)]
    Ready g ∧ flag (TMR_CFG_STAGE 2) (bench []) = false ∧ flag (TMR_CFG_STAGE 2) g = true ∧ flag (TMR_CFG_EN 2) g = true ∧
    ((List.range 8).filter (fun k => (1 : BitVec 8).getLsbD k)).length < 2 ∧ 2 ≤ ((List.range 8).filter (fun k => (6 : BitVec 8).getLsbD k)).length ∧
    (∀ k ∈ [1, 2], ∀ l ∈ [1, 2], rd (TMR_PER k) (bench []) = rd (TMR_PER l) (bench [])) ∧
    rd (TMR_PER 1) (bench [(whole (TMR_PER 1), 7)]) ≠ rd (TMR_PER 2) (bench [(whole (TMR_PER 1), 7)]) := by decide

/-- R558: two channels of period 8 start 4 counts apart. -/
theorem test_stagger : rd (TMR_CNT 2) (run (.timerStaggerLoad 6) (bench [(whole (TMR_PER 1), 7), (whole (TMR_PER 2), 7)])) = 4 := by decide

theorem witness_TimerCounts : let s := bench [(TMR_CFG_EN 2, 1), (TMR_PRE_DIV 2, 512), (whole (TMR_PER 2), 9), (whole (TMR_CMP 2), 1)]
    let e := bench [(TMR_CFG_EN 2, 1), (whole (TMR_PER 2), 9), (whole (TMR_CNT 2), 9), (TMR_CFG_CLK 2, 3), (TMR_CFG_GATE 2, 1), (TMR_CFG_GLVL 2, 1)]
    let c := bench [(TMR_CFG_EN 2, 1), (TMR_CFG_CAPEN 2, 1), (TMR_CFG_EDGE 2, 1), (TMR_CFG_STUCK 2, 1)]
    Ready s ∧ tmrRuns 2 s = true ∧ fld (TMR_CFG_CLK 2) s ≠ 1 ∧ (tmrCh 2 s).acc + 256 < fld (TMR_PRE_DIV 2) s ∧ fld (TMR_CFG_CLK 2) e = 3 ∧
    flag (TMR_CFG_GATE 2) e = true ∧ flag (TMR_CFG_GLVL 2) e = true ∧ rd (TMR_PER 2) e ≤ rd (TMR_CNT 2) e ∧ rd (TMR_CNT 2) s < rd (TMR_PER 2) s ∧
    rd (TMR_CNT 2) s + 1 = rd (TMR_CMP 2) s ∧ Ready c ∧ tmrRuns 2 c = true ∧ flag (TMR_CFG_CAPEN 2) c = true ∧ flag (TMR_CAPSTAT_STUCK 2) c = false ∧
    (tmrCh 2 e).stage = none ∧ fld (TMR_CFG_EDGE 2) c = 1 ∧ fld (TMR_CFG_STUCK 2) c ≠ 0 := by decide

/-! ## Faults, Fawn mode and the log -/

theorem witness_FaultCommands : let s := bench []
    let x := bench [(FLT_STAT_FAWN, 1), (FLT_FAWN_CAUSE, 5), (psValid false, 1)]
    let e := fltB (fun f => { f with exitReq := true }) [(FLT_STAT_FAWN, 1), (FLT_FAWN_CAUSE, 5)]
    let p := bench [(FLT_STAT_FAWN, 1), (FLT_FAWN_CAUSE, 4), (FLT_FAWN_SRC, 9), (psValid false, 1)]
    let k := bench [(FLT_STAT_FAWN, 1), (FLT_FAWN_CAUSE, 7), (psValid false, 1), (GLB_CLKSTAT_CLKFAIL, 1)]
    Quiet s ∧ s.sup.power = .on ∧ s.sup.fuseBusy = none ∧ flag HST_CFG_PECREQ s = false ∧ inFawn s = false ∧ Quiet x ∧ exitOk x = true ∧
    (∀ c, x.flt.causeAt = some c → c.1 ≠ clockNow x) ∧
    (let y := { x with flt := { x.flt with causeAt := some (0, 3, 0xFF) } }; exitOk y = true ∧ y.flt.causeAt = some (clockNow y, 3, 0xFF)) ∧
    exitOk s = false ∧ exitOk p = true ∧ exitOk (setF (pendBit 9) 1 p) = false ∧ exitOk k = false ∧ vccOn e = true ∧ e.flt.exitReq = true ∧ inFawn e = true ∧ Ready s ∧ s.flt.exitReq = false := by
  refine ⟨by decide, by decide, by decide, by decide, by decide, by decide, by decide, fun c h => (nomatch h), by decide⟩

theorem witness_FaultCommands_fence : let f := bench [(⟨FLT_FENCE, 2, 2⟩, 1)]
    let g := bench [(⟨FLT_FENCE, 2, 2⟩, 1), (FLT_STAT_FAWN, 1)]
    fencedU 2 (bench []) = false ∧ fencedU 2 f = true ∧ inFawn f = false ∧ fencedU 2 g = true ∧ inFawn g = true ∧ engNo .pe0 = 2 ∧
    engNo .csq ≠ 2 ∧ flag LOG_CTL_MODE (bench []) = false ∧ fuseErrmode (bench [(GLB_FUSE1_ERRMODE, 2)]) = 2 ∧
    fuseErrmode (bench []) ≠ 2 ∧ (clkB (fun c => { c with running := true }) [(GLB_FUSE1_ERRMODE, 2)]).clk.running = true ∧
    errCond (bench []) = false := by decide

/-- In the clock of an event of a severe source that fences PE0 the release comes first; one that the event alone has fenced stays. -/
def fenceB (was : Bool) : State := fltB (fun f => { f with last := [⟨9, 0, 1, none, some (2, was)⟩] }) [(⟨FLT_FENCE, 2, 2⟩, 1)]

theorem witness_FaultCommands_clock : (∀ was : Bool, fencedU 2 (fenceB was) = true ∧ inFawn (fenceB was) = false ∧
    ∃ x ∈ (fenceB was).flt.last, x.clk = clockNow (fenceB was) ∧ x.unit = some (2, was)) ∧ Ready (bench []) ∧ (bench []).flt.last = [] := by
  refine ⟨fun was => ⟨by cases was <;> decide, by cases was <;> decide, ⟨9, 0, 1, none, some (2, was)⟩, by simp [fenceB, fltB], rfl, rfl⟩, by decide, rfl⟩

/-- R543: a pending bit written 1 in the clock of its source's event stays, and the fence of such an event is set again. -/
theorem test_clock : flag (pendBit 9) (pendClear false 0xFFFFFFFF (fltB (fun f => { f with last := [⟨9, 0, 1, none, none⟩] }) [(pendBit 9, 1)])) = true ∧
    (∀ was : Bool, fencedU 2 (run (.fenceRelease none 4) (fenceB was)) = true) ∧
    fencedU 2 (run (.fenceRelease none 4) (bench [(⟨FLT_FENCE, 2, 2⟩, 1)])) = false := by decide +kernel

theorem witness_FaultConfig : Ready (bench []) ∧ srcTable[0]? = some ⟨1, true, false, false⟩ ∧ flag FLT_LOCK_LOCK (bench []) = false ∧
    (0 : Word).toNat % 8 < 1 ∧ ¬ ((0x11 : Word).toNat % 8 < 1) := by decide


end Sys2Proof.Tests
end

section
/-!
PROOFS. Multiplication and division (R359). First the rules on which the proof for any instruction of one engine rests: a flag that is
set, a register that is written, and the completion of an instruction that ends in `fin`. Then the values of MULG and DIVG.
-/

namespace Sys2Proof.Machine

open Sys2Proof

/-! ## Flags -/

/-- A bit that was clear is set by adding its weight: no carry leaves it. -/
theorem bitOf_add_two_pow {v i : Nat} (h : bitOf v i = false) (j : Nat) :
    bitOf (v + 2 ^ i) j = if j = i then true else bitOf v j := by
  rcases lt_trichotomy j i with hj | rfl | hj
  · obtain ⟨k, rfl⟩ := Nat.exists_eq_add_of_lt hj
    have hsplit : (2 : Nat) ^ (j + k + 1) = 2 ^ j * (2 * 2 ^ k) := by ring
    have hdiv : (v + 2 ^ (j + k + 1)) / 2 ^ j = v / 2 ^ j + 2 * 2 ^ k := by
      rw [hsplit, Nat.add_mul_div_left _ _ (by positivity)]
    simp [bitOf, hdiv, hj.ne]
  · have hdiv : (v + 2 ^ j) / 2 ^ j = v / 2 ^ j + 1 := Nat.add_div_right _ (by positivity)
    simp only [bitOf, beq_eq_false_iff_ne, if_true, hdiv, beq_iff_eq] at h ⊢
    omega
  · obtain ⟨k, rfl⟩ := Nat.exists_eq_add_of_lt hj
    have hdiv : ∀ w : Nat, w / 2 ^ (i + k + 1) = w / 2 ^ i / 2 / 2 ^ k := fun w => by
      rw [Nat.div_div_eq_div_mul, Nat.div_div_eq_div_mul]; congr 1; ring
    have hcarry : (v + 2 ^ i) / 2 ^ i / 2 = v / 2 ^ i / 2 := by
      rw [Nat.add_div_right _ (by positivity)]
      simp only [bitOf, beq_eq_false_iff_ne] at h
      omega
    simp only [bitOf, hdiv, hcarry, if_neg hj.ne']

/-- `putBit` sets its bit and leaves the others. -/
@[simp] theorem bitOf_putBit {v i j : Nat} {b : Bool} : bitOf (putBit v i b) j = if j = i then b else bitOf v j := by
  by_cases hsame : bitOf v i = b
  · rw [putBit, if_pos hsame]
    split
    · next hj => rw [hj, hsame]
    · rfl
  · cases b with
    | true => simpa [putBit, hsame] using bitOf_add_two_pow (by simpa using hsame) j
    | false =>
      have hset : v / 2 ^ i % 2 = 1 := by simpa [bitOf] using hsame
      obtain ⟨u, rfl⟩ : ∃ u, v = u + 2 ^ i :=
        ⟨v - 2 ^ i, (Nat.sub_add_cancel (Nat.le_of_not_lt fun h => by simp [Nat.div_eq_of_lt h] at hset)).symm⟩
      have hclear : bitOf u i = false := by
        rw [Nat.add_div_right _ (by positivity)] at hset
        simp only [bitOf, beq_eq_false_iff_ne]
        omega
      have hput : putBit (u + 2 ^ i) i false = u := by simp [putBit, hsame]
      rw [hput, bitOf_add_two_pow hclear]
      split
      · next hj => rw [hj, hclear]
      · rfl

/-! ## The result of an instruction -/

theorem fRd_lt {b : BitVec 26} : fRd b < 16 := Nat.mod_lt _ (by decide)

/-- What a general register reads after a write to one: x0 takes none (R342). -/
theorem xr_xw {o : Eng} {d r : Nat} {v : Word} (hd : d < 16) (hr : r < 16) :
    xr (xw d v o) r = if r = d ∧ d ≠ 0 then v else xr o r := by
  by_cases hd0 : d = 0
  · simp [xw, hd0]
  · by_cases hrd : r = d
    · simp [xr, xw, hrd, hd0, vAt_vPut_same]
    · have hmod : r % 16 ≠ d % 16 := by rwa [Nat.mod_eq_of_lt hr, Nat.mod_eq_of_lt hd]
      simp [xr, xw, hrd, hd0, vAt_vPut_ne hmod]

/-- From `o` to `o'` register `d` takes `v` and the flags are as listed; nothing else of the engine changes. It is `Gives` before the
end of the instruction (`fin`), which moves pc and counts the cycles. -/
structure ResultOf (d : Nat) (v : Word) (fl : List (Nat × Bool)) (o o' : Eng) : Prop where
  frame : o' = { o with x := o'.x, flags := o'.flags }
  regs : ∀ r < 16, xr o' r = if r = d ∧ d ≠ 0 then v else xr o r
  flags : FlagsAre fl o o'

theorem resultOf_xw {d : Nat} {v : Word} {o : Eng} (hd : d < 16) : ResultOf d v [] o (xw d v o) where
  frame := by unfold xw; split <;> rfl
  regs _ hr := xr_xw hd hr
  flags _ := by unfold xw; split <;> rfl

/-- One more flag is set. -/
theorem ResultOf.setFl {d i : Nat} {v : Word} {fl : List (Nat × Bool)} {w : Bool} {o o' : Eng} (h : ResultOf d v fl o o')
    (hi : ∀ p ∈ fl, p.1 ≠ i) : ResultOf d v (fl ++ [(i, w)]) o (setFl i w o') where
  frame := by rw [h.frame]; rfl
  regs := h.regs
  flags j := by
    have hput : bitOf (Machine.setFl i w o').flags j = if j = i then w else bitOf o'.flags j := bitOf_putBit
    rw [hput, List.find?_append]
    by_cases hj : j = i
    · have hnone : fl.find? (fun p => p.1 == i) = none := by simpa using hi
      simp [hj, hnone]
    · have hij : (i == j) = false := by simpa using Ne.symm hj
      simp [hj, hij, h.flags j]

theorem resultOf_putZN {b : BitVec 26} {v : Word} {o : Eng} : ResultOf (fRd b) v [(0, v == 0), (1, v.msb)] o (putZN b v o) :=
  ((resultOf_xw fRd_lt).setFl (by simp)).setFl (by simp)

theorem resultOf_setV_putZN {b : BitVec 26} {v : Word} {w : Bool} {o : Eng} :
    ResultOf (fRd b) v [(0, v == 0), (1, v.msb), (3, w)] o (setV w (putZN b v o)) :=
  resultOf_putZN.setFl (by simp)

/-! ## Completion -/

@[simp] theorem getEng_atTick {d e : EngId} {s : State} : getEng d (atTick e s) = getEng d s := by cases d <;> rfl

@[simp] theorem atTick_evq {e : EngId} {s : State} : (atTick e s).evq = s.evq := rfl
@[simp] theorem atTick_logq {e : EngId} {s : State} : (atTick e s).logq = s.logq := rfl

@[simp] theorem putEng_putEng {e : EngId} {x y : Eng} {s : State} : putEng e x (putEng e y s) = putEng e x s := by cases e <;> rfl

/-- A line that a buffer holds is not filled again (R345). -/
theorem fillLine_held {e : EngId} {l : Nat} {s : State} (h : ∃ x ∈ (getEng e s).lines, x.1 = l) : fillLine e l s = s := by
  have hany : (getEng e s).lines.any (fun x => x.1 == l) = true := by simpa using h
  simp [fillLine, hany]

/-- A legal instruction that is fetched does its own effect at its tick. -/
theorem runInstr_fetched {e : EngId} {s : State} {body : State → State} (h : Fetched e s) :
    runInstr e true body s = body (atTick e s) := by
  obtain ⟨hrun, hpc, hline, hgood, -⟩ := h
  have hheld : fillLine e ((getEng e s).pc.toNat / 64) (atTick e s) = atTick e s := fillLine_held (by simpa using hline)
  have htick : { s with clk := { s.clk with sft := max s.clk.sft (engTickNow (getEng e s)) } } = atTick e s := rfl
  simp [runInstr, htick, hrun, hpc, hheld, hgood]

/-- An instruction whose effect on its engine is `f`, in `n` cycles, completes with the result of `f`. -/
theorem completes_of_fin {e : EngId} {i : Instr} {d n : Nat} {v : Word} {fl : List (Nat × Bool)} {f : Eng → Eng} {s : State}
    (hf : Fetched e s) (hexec : exec i s = asInstr e true (fin e n f) s) (hres : ResultOf d v fl (getEng e s) (f (getEng e s))) :
    Completes e i d v fl n s := by
  obtain ⟨hframe, hregs, hflags⟩ := hres
  have ⟨_, _, _, _, hevq, hlogq⟩ := hf
  have hnext : exec i s = .next (fin e n f (atTick e s)) := by
    rw [hexec, asInstr, runInstr_fetched hf, settle_quiet (by simpa [fin] using hevq) (by simpa [fin] using hlogq)]
  have heng : getEng e (fin e n f (atTick e s)) =
      { f (getEng e s) with pc := (f (getEng e s)).pc + 4, cyc := (f (getEng e s)).cyc + n } := by simp [fin]
  refine ⟨_, hnext, ⟨?_, ?_, ?_⟩, ?_⟩
  · rw [heng, hframe]
  · rw [heng]; exact hregs
  · rw [heng]; exact hflags
  · rw [heng]; simp [fin, modEng]

/-! ## Products -/

/-- Limiting to 32 bits signed changes an integer exactly where taking its low word does. -/
theorem satS_ne_iff {p : Int} : p ≠ satS 32 p ↔ p ≠ (BitVec.ofInt 32 p).toInt := by
  rw [BitVec.toInt_ofInt, Int.bmod_def, satS]
  omega

theorem mulFn_zero {x y : Word} : mulFn 0 x y = x * y := by
  simp [mulFn, mulExact, BitVec.ofInt_mul]

/-- The high word of the signed product. -/
theorem toInt_mulFn_one {x y : Word} : (mulFn 1 x y).toInt = x.toInt * y.toInt / 2 ^ 32 := by
  have hfn : mulFn 1 x y = BitVec.ofInt 32 (x.toInt * y.toInt / 2 ^ 32) := rfl
  have hle := BitVec.toInt_mul_toInt_le (x := x) (y := y)
  have hge := BitVec.le_toInt_mul_toInt (x := x) (y := y)
  rw [hfn, BitVec.toInt_ofInt_eq_self (by decide) (by omega) (by omega)]

/-- The high word of the unsigned product. -/
theorem toNat_mulFn_two {x y : Word} : (mulFn 2 x y).toNat = x.toNat * y.toNat / 2 ^ 32 := by
  have hlt : x.toNat * y.toNat < 2 ^ 32 * 2 ^ 32 := Nat.mul_lt_mul'' x.isLt y.isLt
  have hfn : mulFn 2 x y = BitVec.ofInt 32 ((x.toNat * y.toNat / 2 ^ 32 : Nat) : Int) := by simp [mulFn, mulExact]
  rw [hfn, BitVec.ofInt_natCast, BitVec.toNat_ofNat]
  omega

/-- The high word of the product of a signed and an unsigned factor. -/
theorem toInt_mulFn_three {x y : Word} : (mulFn 3 x y).toInt = x.toInt * y.toNat / 2 ^ 32 := by
  have hfn : mulFn 3 x y = BitVec.ofInt 32 (x.toInt * y.toNat / 2 ^ 32) := rfl
  have hx : -2 ^ 31 ≤ x.toInt := BitVec.le_toInt x
  have hx' : x.toInt < 2 ^ 31 := BitVec.toInt_lt
  have hy : (y.toNat : Int) < 2 ^ 32 := by exact_mod_cast y.isLt
  have hlow : -(2 ^ 31 * 2 ^ 32) ≤ x.toInt * (y.toNat : Int) := by nlinarith
  have hhigh : x.toInt * (y.toNat : Int) < 2 ^ 31 * 2 ^ 32 := by nlinarith
  rw [hfn, BitVec.toInt_ofInt_eq_self (by decide) (by omega) (by omega)]

/-! ## Quotients and remainders -/

/-- The division that overflows: DIV and REM of the least integer by -1. -/
def divOverflows (fn : Nat) (x y : Word) : Prop := x = 0x80000000#32 ∧ y = 0xFFFFFFFF#32 ∧ fn % 2 = 0

/-- A division by 0. -/
theorem divFn_zero {fn : Nat} {x : Word} : divFn fn x 0 = (if fn ≤ 1 then 0xFFFFFFFF#32 else x, true) := if_pos rfl

theorem divFn_overflow {fn : Nat} {x y : Word} (h : divOverflows fn x y) :
    divFn fn x y = (if fn = 0 then 0x80000000#32 else 0, true) := by
  have hy : y ≠ 0 := by rw [h.2.1]; decide
  exact (if_neg hy).trans (if_pos h)

/-- Any other division clears V. -/
theorem divFn_regular_V {fn : Nat} {x y : Word} (hy : y ≠ 0) (h : ¬divOverflows fn x y) : (divFn fn x y).2 = false :=
  congrArg Prod.snd ((if_neg hy).trans (if_neg h))

theorem toInt_divFn_zero {x y : Word} (hy : y ≠ 0) (h : ¬divOverflows 0 x y) : (divFn 0 x y).1.toInt = x.toInt.tdiv y.toInt := by
  have hfn : (divFn 0 x y).1 = BitVec.ofInt 32 (x.toInt.tdiv y.toInt) := congrArg Prod.fst ((if_neg hy).trans (if_neg h))
  have hne : x ≠ BitVec.intMin 32 ∨ y ≠ -1#32 := not_and_or.mp fun ⟨hx, hy'⟩ => h ⟨hx, hy', rfl⟩
  rw [hfn, ← BitVec.toInt_sdiv_of_ne_or_ne x y hne, BitVec.ofInt_toInt]

theorem toNat_divFn_one {x y : Word} (hy : y ≠ 0) (h : ¬divOverflows 1 x y) : (divFn 1 x y).1.toNat = x.toNat / y.toNat := by
  have hfn : (divFn 1 x y).1 = BitVec.ofNat 32 (x.toNat / y.toNat) := congrArg Prod.fst ((if_neg hy).trans (if_neg h))
  rw [hfn, ← BitVec.toNat_udiv, BitVec.ofNat_toNat, BitVec.setWidth_eq]

theorem toInt_divFn_two {x y : Word} (hy : y ≠ 0) (h : ¬divOverflows 2 x y) : (divFn 2 x y).1.toInt = x.toInt.tmod y.toInt := by
  have hfn : (divFn 2 x y).1 = BitVec.ofInt 32 (x.toInt.tmod y.toInt) := congrArg Prod.fst ((if_neg hy).trans (if_neg h))
  rw [hfn, ← BitVec.toInt_srem, BitVec.ofInt_toInt]

theorem toNat_divFn_three {x y : Word} (hy : y ≠ 0) (h : ¬divOverflows 3 x y) : (divFn 3 x y).1.toNat = x.toNat % y.toNat := by
  have hfn : (divFn 3 x y).1 = BitVec.ofNat 32 (x.toNat % y.toNat) := congrArg Prod.fst ((if_neg hy).trans (if_neg h))
  rw [hfn, ← BitVec.toNat_umod, BitVec.ofNat_toNat, BitVec.setWidth_eq]

/-! ## The instructions -/

/-- The fn field of a word whose immediate holds nothing else. -/
theorem fFn_eq_fImm {b : BitVec 26} (h : fImm b < 64) : fFn b = fImm b := by
  unfold fFn fImm at *
  omega

/-- A word of MULG or DIVG is legal where its immediate holds one of the four functions (R352). -/
theorem okRR_fn_le_three {b : BitVec 26} (h : fImm b < 4) : (okRR b && decide (fFn b ≤ 3)) = true := by
  have hfn : fFn b = fImm b := fFn_eq_fImm (by omega)
  simp only [okRR, hfn, Bool.and_eq_true, decide_eq_true_eq]
  omega

/-- The flags of a product: MUL alone sets V, where the low word is not the product. -/
def mulFlags (fn : Nat) (x y v : Word) : List (Nat × Bool) :=
  if fn = 0 then [(0, v == 0), (1, v.msb), (3, decide (x.toInt * y.toInt ≠ v.toInt))] else [(0, v == 0), (1, v.msb)]

theorem resultOf_mulEff {b : BitVec 26} {o : Eng} (h : fImm b < 4) :
    let v := mulFn (fImm b) (src1 b o) (src2 b o)
    ResultOf (fRd b) v (mulFlags (fImm b) (src1 b o) (src2 b o) v) o (mulEff b o) := by
  have hfn : fFn b = fImm b := fFn_eq_fImm (by omega)
  by_cases h0 : fImm b = 0
  · have hv : decide (mulExact 0 (src1 b o) (src2 b o) ≠ satS 32 (mulExact 0 (src1 b o) (src2 b o))) =
        decide ((src1 b o).toInt * (src2 b o).toInt ≠ (mulFn 0 (src1 b o) (src2 b o)).toInt) := decide_eq_decide.mpr satS_ne_iff
    simpa only [mulEff, mulFlags, hfn, h0, if_true, hv] using resultOf_setV_putZN
  · simpa only [mulEff, mulFlags, hfn, h0, if_false] using resultOf_putZN

theorem completes_mulg {e : EngId} {b : BitVec 26} {s : State} (hf : Fetched e s) (h : fImm b < 4) :
    let x := src1 b (getEng e s)
    let y := src2 b (getEng e s)
    let v := mulFn (fImm b) x y
    Completes e (.mulg e b) (fRd b) v (mulFlags (fImm b) x y v) 2 s :=
  completes_of_fin hf (congrArg (asInstr e · (fin e 2 (mulEff b)) s) (okRR_fn_le_three h)) (resultOf_mulEff h)

theorem completes_divg {e : EngId} {b : BitVec 26} {s : State} (hf : Fetched e s) (h : fImm b < 4) :
    let r := divFn (fImm b) (src1 b (getEng e s)) (src2 b (getEng e s))
    Completes e (.divg e b) (fRd b) r.1 [(0, r.1 == 0), (1, r.1.msb), (3, r.2)] 34 s := by
  have hfn : fFn b = fImm b := fFn_eq_fImm (by omega)
  rw [← hfn]
  exact completes_of_fin hf (congrArg (asInstr e · (fin e 34 (divEff b)) s) (okRR_fn_le_three h)) resultOf_setV_putZN

/-- Settles O21: every word completes with `mulFn` or `divFn`, whose values the lemmas above give function by function. -/
theorem mulDivResults : Obligations.MulDivResults := by
  intro e b s hf hfn x y
  refine ⟨⟨mulFn (fImm b) x y, completes_mulg hf hfn, fun h => ?_, fun h => ?_, fun h => ?_, fun h => ?_⟩,
    ⟨(divFn (fImm b) x y).1, (divFn (fImm b) x y).2, completes_divg hf hfn, fun hy => ?_, fun hx hy => ⟨fun h => ?_, fun h => ?_⟩,
      fun hy hov => ?_⟩⟩
  · rw [h, mulFn_zero]
  · rw [h, toInt_mulFn_one]
  · rw [h, toNat_mulFn_two]
  · rw [h, toInt_mulFn_three]
  · rw [hy, divFn_zero]
    exact ⟨rfl, if_congr Nat.lt_succ_iff.symm rfl rfl⟩
  · simp [h, divFn_overflow (fn := 0) ⟨hx, hy, rfl⟩]
  · simp [h, divFn_overflow (fn := 2) ⟨hx, hy, rfl⟩]
  · refine ⟨divFn_regular_V hy hov, fun h => ?_, fun h => ?_, fun h => ?_, fun h => ?_⟩ <;> rw [h] at hov ⊢
    · exact toInt_divFn_zero hy hov
    · exact toNat_divFn_one hy hov
    · exact toInt_divFn_two hy hov
    · exact toNat_divFn_three hy hov

end Sys2Proof.Machine
end

section
/-!
PROOFS. The configuration of the sources (R526). First the rule of a command that raises nothing and that of the ERR condition; then
what a write of FLT_CFG leaves, refused or taken.
-/

namespace Sys2Proof.Machine

open Sys2Proof

/-! ## A command that raises nothing -/

/-- With VCC a command that leaves no event and no log entry answers its own effect. -/
theorem run_quiet {f : State → State} {s : State} (hvcc : vccOn s = true) (hevq : (f s).evq = []) (hlogq : (f s).logq = []) :
    run f s = .next (f s) := by
  rw [run, if_pos hvcc, settle_quiet hevq hlogq]

/-! ## The ERR condition -/

/-- The ERR condition is read from registers. -/
theorem errCond_congr {s t : State} (h : t.regs = s.regs) : errCond t = errCond s := by
  simp only [errCond, inFawn, flag_congr h]

/-- `errSync` ends a toggle under the ERR condition and does nothing else. -/
theorem errSync_eq {s : State} :
    errSync s = { s with sup := { s.sup with errSwap := s.sup.errSwap && !errCond s } } := by
  unfold errSync
  cases hswap : s.sup.errSwap <;> cases hcond : errCond s <;> simp [← hswap]

@[simp] theorem errSync_regs {s : State} : (errSync s).regs = s.regs := by rw [errSync_eq]

/-! ## What FLT_CFG takes -/

theorem exec_faultConfigWrite {n : Fin 64} {v : Word} {s : State} :
    exec (.faultConfigWrite n v) s = run (faultCfgOp n v.toNat) s := rfl

/-- The reaction `x` may not be selected for a source of row `r` (R526). -/
def ReactBad (r : SrcRow) (x : Nat) : Prop :=
  x < r.min ∨ 5 ≤ x ∨ x = 2 ∧ r.unit = false ∨ x = 3 ∧ r.ss = false

theorem reactBad_iff {r : SrcRow} {x : Nat} :
    (decide (r.min ≤ x) && decide (x ≤ 4) && (x != 2 || r.unit) && (x != 3 || r.ss)) = false ↔ ReactBad r x := by
  simp only [Bool.and_eq_false_iff, Bool.or_eq_false_iff, decide_eq_false_iff_not, bne_eq_false_iff_eq, Nat.not_le, or_assoc]
  rfl

theorem faultCfgOk_eq_false_iff {n v : Nat} {r : SrcRow} (hr : srcRow n = some r) :
    faultCfgOk n v = false ↔ ReactBad r (v % 8) ∨ ReactBad r (v / 16 % 8) := by
  simp only [faultCfgOk, hr]
  exact Bool.and_eq_false_iff.trans (or_congr reactBad_iff reactBad_iff)

/-- A source with a row is one of the 37. -/
theorem lt_of_srcRow {n : Nat} {r : SrcRow} (hr : srcRow n = some r) : n < 37 := (List.getElem?_eq_some_iff.mp hr).1

/-- The register and the parity of FLT_CFG after a write that is taken. -/
def faultCfgPut (n v : Nat) (s : State) : State :=
  parWrite (FLT_CFG n) 0x1FFFF77 s |> setF (FLT_CFG_REACT n) (v % 8) |> setF (FLT_CFG_SEVR n) (v / 16 % 8)
    |> setF (FLT_CFG_N n) (v / 256 % 256) |> setF (FLT_CFG_W n) (v / 65536 % 256) |> setF (FLT_CFG_ERRM n) (v / 2 ^ 24 % 2)

section
variable {n v : Nat} {s : State}

theorem faultCfgOp_refused (hn : n < 37) (hlock : flag FLT_LOCK_LOCK s = false) (hok : faultCfgOk n v = false) :
    faultCfgOp n v s = setF FLT_STAT_CFGREF 1 s := by
  simp [faultCfgOp, Nat.not_le.mpr hn, hlock, hok]

theorem faultCfgOp_taken (hn : n < 37) (hlock : flag FLT_LOCK_LOCK s = false) (hok : faultCfgOk n v = true) :
    faultCfgOp n v s = errSync (faultCfgPut n v s) := by
  simp [faultCfgOp, Nat.not_le.mpr hn, hlock, hok, faultCfgPut, bitsOf]

theorem fld_faultCfgPut :
    fld (FLT_CFG_REACT n) (faultCfgPut n v s) = v % 8 ∧ fld (FLT_CFG_SEVR n) (faultCfgPut n v s) = v / 16 % 8 ∧
      fld (FLT_CFG_N n) (faultCfgPut n v s) = v / 256 % 256 ∧ fld (FLT_CFG_W n) (faultCfgPut n v s) = v / 65536 % 256 ∧
      fld (FLT_CFG_ERRM n) (faultCfgPut n v s) = v / 2 ^ 24 % 2 := by
  simp [faultCfgPut, fld_setF_ne, fld_setF_same]

theorem fieldsBut_faultCfgPut :
    FieldsBut [FLT_CFG_REACT n, FLT_CFG_SEVR n, FLT_CFG_N n, FLT_CFG_W n, FLT_CFG_ERRM n] s (faultCfgPut n v s) := by
  have hpar : FieldsBut [FLT_CFG_REACT n, FLT_CFG_SEVR n, FLT_CFG_N n, FLT_CFG_W n, FLT_CFG_ERRM n] s
      (parWrite (FLT_CFG n) 0x1FFFF77 s) := FieldsBut.refl.regs rfl
  exact ((((hpar.setF (by simp) (by simp) (by simp)).setF (by simp) (by simp) (by simp)).setF (by simp) (by simp) (by simp)).setF
    (by simp) (by simp) (by simp)).setF (by simp) (by simp) (by simp)

end

/-- Settles O60: a write is refused exactly where one of its two reactions may not be selected (`faultCfgOk_eq_false_iff`). -/
theorem faultConfig : Obligations.FaultConfig := by
  intro n v r s ⟨hvcc, hevq, hlogq⟩ hr hlock react sevr bad
  have hn : n.val < 37 := lt_of_srcRow hr
  have hok : faultCfgOk n v.toNat = false ↔ bad := by
    rw [faultCfgOk_eq_false_iff hr]
    simp only [ReactBad, bad, react, sevr]
    tauto
  constructor
  · intro hbad
    have hop : faultCfgOp n v.toNat s = setF FLT_STAT_CFGREF 1 s := faultCfgOp_refused hn hlock (hok.mpr hbad)
    refine ⟨setF FLT_STAT_CFGREF 1 s, ?_, ?_, ?_, ?_, rfl⟩
    · rw [exec_faultConfigWrite, run_quiet hvcc (by rw [hop]; exact hevq) (by rw [hop]; exact hlogq), hop]
    · exact rd_setF_ne (by change 0x1B00 + 4 * n.val ≠ 0x1A04; omega)
    · simp [flag, fld_setF_same]
    · exact FieldsBut.refl.setF (by simp) (by simp) (by simp)
  · intro hgood
    have hop : faultCfgOp n v.toNat s = errSync (faultCfgPut n v.toNat s) :=
      faultCfgOp_taken hn hlock (Bool.of_not_eq_false fun h => hgood (hok.mp h))
    obtain ⟨hreact, hsevr, hcount, hwindow, herrm⟩ := fld_faultCfgPut (n := n) (v := v.toNat) (s := s)
    refine ⟨errSync (faultCfgPut n v.toNat s), ?_, ?_, ?_, ?_, ?_, ?_, ?_, ?_⟩
    · rw [exec_faultConfigWrite, run_quiet hvcc (by rw [hop, errSync_eq]; exact hevq) (by rw [hop, errSync_eq]; exact hlogq), hop]
    · rw [fld_congr errSync_regs, hreact]
    · rw [fld_congr errSync_regs, hsevr]
    · rw [fld_congr errSync_regs, hcount]
    · rw [fld_congr errSync_regs, hwindow]
    · rw [fld_congr errSync_regs, herrm]
    · exact fieldsBut_faultCfgPut.regs errSync_regs
    · rw [errCond_congr errSync_regs, errSync_regs, errSync_eq]
      rfl

end Sys2Proof.Machine
end

section
/-!
PROOFS. The pending bits of the collector (R527): a write of FLT_PEND reaches `pendClear` from the host and from any engine, and
`pendClear` clears one bit after the other.
-/

namespace Sys2Proof.Machine

open Sys2Proof

/-! ## The write reaches the collector -/

theorem exec_registerWrite {who : Option EngId} {a : BitVec 16} {k : Fin 3} {v : Word} {s : State} :
    exec (.registerWrite who a k v) s = run (busStoreOp who a.toNat (2 ^ k.val) v.toNat) s := rfl

/-- A number's little-endian bytes give it back, but for what lies above them (R6). -/
theorem leNat_leBytes : ∀ {n v : Nat}, leNat (leBytes n v) = v % 256 ^ n
  | 0, v => by simp [leNat, leBytes, Nat.mod_one]
  | n + 1, v => by
    rw [leBytes, leNat, leNat_leBytes, BitVec.toNat_ofNat, pow_succ' 256, Nat.mod_mul]

/-- The register that holds the pending bits of the sources below 32, or of those from 32 on. -/
def pendAddr (hi : Bool) : Nat := if hi then FLT_PEND1 else FLT_PEND0

/-- Its row: 32 bits that a 1 clears. -/
def pendRow (hi : Bool) : RegRow := ⟨pendAddr hi, 0, 1, 32, 0, 0xFFFFFFFF, 0, 0, false, 0, 0⟩

theorem regOf_pendAddr {hi : Bool} : regOf (pendAddr hi) = some (pendAddr hi, pendRow hi) := by cases hi <;> decide

theorem findRow_pendAddr {hi : Bool} : findRow (pendAddr hi) = some (pendRow hi) := by cases hi <;> decide

theorem isBuffer_pendAddr {hi : Bool} : isBuffer (pendAddr hi) = false := by cases hi <;> decide

theorem pendRow_width_le {hi : Bool} : (pendRow hi).width ≤ 32 := le_rfl

theorem regWrite_pend {who : Option EngId} {hi : Bool} {v : Nat} {s : State} :
    regWrite who (pendRow hi) (pendAddr hi) v s = (.done, pendClear hi v s) := by cases hi <;> rfl

theorem engStore_pend {e : EngId} {hi : Bool} {v : Word} {s : State} (h : engRights e (pendAddr hi) = true) :
    engStore e (pendAddr hi) 4 v.toNat s = (.done, pendClear hi v.toNat s) := by
  have hram : ¬ramLo ≤ pendAddr hi := by cases hi <;> decide
  have hv : v.toNat % 2 ^ (pendRow hi).width = v.toNat := Nat.mod_eq_of_lt v.isLt
  simp [engStore, h, hram, isBuffer_pendAddr, regOf_pendAddr, pendRow_width_le, hv, regWrite_pend]

theorem hostWrite_pend {hi : Bool} {v : Word} {s : State} :
    hostWrite (pendAddr hi) (leBytes 4 v.toNat) s = (.done, pendClear hi v.toNat s) := by
  have hlen : (leBytes 4 v.toNat).length = 4 := rfl
  have hregs : regsTouched (pendAddr hi) 4 = [pendAddr hi] := by cases hi <;> decide
  have hv : leNat (leBytes 4 v.toNat) % 2 ^ (pendRow hi).width = v.toNat := by
    rw [leNat_leBytes]
    exact (Nat.mod_mod _ _).trans (Nat.mod_eq_of_lt v.isLt)
  have hmay : hostMay (pendRow hi) (pendAddr hi) s = true := by cases hi <;> simp [hostMay, pendRow, pendAddr, openMask]
  have hopen : ownClosed (pendAddr hi) v.toNat s = false := by cases hi <;> rfl
  have hram : ¬(pendAddr hi + 4 > ramLo ∧ pendAddr hi ≤ ramHi) := by cases hi <;> decide
  have hwin : ¬ramHi < pendAddr hi + 3 := by cases hi <;> decide
  simp [hostWrite, hlen, hregs, hwin, hram, findRow_pendAddr, isBuffer_pendAddr, pendRow_width_le, hmay, hopen, hv, regWrite_pend]

/-- A word that the host, or an engine with rights, writes to FLT_PEND is what `pendClear` takes. -/
theorem busStoreOp_pend {who : Option EngId} {hi : Bool} {v : Word} {s : State} (h : Writes who (pendAddr hi) s) :
    busStoreOp who (pendAddr hi) 4 v.toNat s = pendClear hi v.toNat s := by
  cases who with
  | none =>
    obtain ⟨hon, hfawn⟩ := h
    have hopen : (inFawn s && !fawnWritable (pendAddr hi)) = false := by
      cases hf : inFawn s
      · rfl
      · rw [hfawn hf]; rfl
    simp [busStoreOp, reduced, hon, busStore, hopen, hostWrite_pend]
  | some e =>
    obtain ⟨hrun, hrights⟩ := h
    have haligned : pendAddr hi % 4 = 0 := by cases hi <;> rfl
    simp [busStoreOp, hrun, busStore, haligned, engStore_pend hrights]

/-! ## The conditions -/

/-- The sources whose condition keeps their pending bit (R527). -/
theorem condOn_iff {n : Nat} {s : State} : condOn n s = true ↔
    n = srcPkOv ∧ s.chg.ovOn = true ∨ n = srcPkOc ∧ s.chg.ocOn = true ∨ n = srcHbusOv ∧ s.hub.ovOn = true ∨
      n = srcHbusUv ∧ s.hub.uvOn = true ∨ n = srcThWarn ∧ flag THM_STAT_WARN s = true ∨ n = srcThStop ∧ s.chg.tstopOn = true ∨
      n = srcThHard ∧ s.chg.thardOn = true := by
  unfold condOn
  split_ifs <;> simp_all [srcPkOv, srcPkOc]

/-! ## The bits -/

theorem forN_succ {σ : Type} {n : Nat} {f : Nat → σ → σ} {s : σ} : forN (n + 1) f s = f n (forN n f s) := by
  simp [forN, List.range_succ]

/-- The source whose bit is bit `i` of FLT_PEND0 or FLT_PEND1. -/
def pendSrc (hi : Bool) (i : Nat) : Nat := if hi then 32 + i else i

theorem pendBit_pendSrc {hi : Bool} {i : Nat} (h : i < 32) : pendBit (pendSrc hi i) = ⟨pendAddr hi, i, i⟩ := by
  cases hi <;> simp [pendBit, pendSrc, pendAddr, h]

theorem pendSrc_mod {hi : Bool} {n : Nat} (hn : n < 64) (h : hi = decide (32 ≤ n)) : pendSrc hi (n % 32) = n := by
  by_cases h32 : 32 ≤ n
  · simp only [h, pendSrc, h32, decide_true, if_true]
    omega
  · simp only [h, pendSrc, h32, decide_false, Bool.false_eq_true, if_false]
    omega

/-- A write of `v` clears bit `i` where it has a 1 there, unless the source's condition is in force (R527) or the source has an event
in this clock (R543). -/
def clearsPendBit (hi : Bool) (v i : Nat) (s : State) : Bool :=
  bitOf v i && !condOn (pendSrc hi i) s && (evNow (pendSrc hi i) s).isNone

/-- The step of `pendClear` for bit `i`. -/
def pendClearBit (hi : Bool) (v i : Nat) (s : State) : State :=
  if clearsPendBit hi v i s then setF (pendBit (pendSrc hi i)) 0 s else s

theorem pendClear_eq {hi : Bool} {v : Nat} {s : State} :
    pendClear hi v s =
      modFlt (fun f => { f with stops := f.stops.filter fun n => flag (pendBit n) (forN 32 (pendClearBit hi v) s) })
        (forN 32 (pendClearBit hi v) s) := rfl

/-- From `s` to `t` at most the register of the pending bits has changed. -/
structure PendOnly (hi : Bool) (s t : State) : Prop where
  frame : t = { s with regs := t.regs }
  fields : FieldsBut [whole (pendAddr hi)] s t

theorem PendOnly.clearsPendBit_eq {hi : Bool} {v i : Nat} {s t : State} (h : PendOnly hi s t) :
    clearsPendBit hi v i t = clearsPendBit hi v i s := by
  have hwarn : fld THM_STAT_WARN t = fld THM_STAT_WARN s := h.fields _ (by cases hi <;> simp [pendAddr])
  have hcond : condOn (pendSrc hi i) t = condOn (pendSrc hi i) s := by simp only [condOn, flag, hwarn]; rw [h.frame]
  have hev : evNow (pendSrc hi i) t = evNow (pendSrc hi i) s := by rw [h.frame]; rfl
  rw [clearsPendBit, hcond, hev, clearsPendBit]

theorem PendOnly.step {hi : Bool} {v i : Nat} {s t : State} (hilt : i < 32) (h : PendOnly hi s t) :
    PendOnly hi s (pendClearBit hi v i t) := by
  unfold pendClearBit
  split
  · rw [pendBit_pendSrc hilt]
    exact ⟨by rw [h.frame]; rfl, h.fields.wr (by simp)⟩
  · exact h

theorem pendOnly_forN_pendClearBit {hi : Bool} {v : Nat} {s : State} :
    ∀ {k : Nat}, k ≤ 32 → PendOnly hi s (forN k (pendClearBit hi v) s)
  | 0, _ => ⟨rfl, FieldsBut.refl⟩
  | k + 1, hk => by
    rw [forN_succ]
    exact (pendOnly_forN_pendClearBit (by omega)).step (by omega)

/-- A step clears its own bit where the write clears it, and no other. -/
theorem flag_pendClearBit {hi : Bool} {v i j : Nat} {s : State} (hilt : i < 32) (hjlt : j < 32) :
    flag (pendBit (pendSrc hi j)) (pendClearBit hi v i s) =
      (flag (pendBit (pendSrc hi j)) s && !(decide (j = i) && clearsPendBit hi v i s)) := by
  unfold pendClearBit
  rw [pendBit_pendSrc hilt, pendBit_pendSrc hjlt]
  split
  · next hclears =>
    by_cases hji : j = i
    · simp [hji, hclears, flag, fld_setF_same, hilt]
    · have hne : fld ⟨pendAddr hi, j, j⟩ (setF ⟨pendAddr hi, i, i⟩ 0 s) = fld ⟨pendAddr hi, j, j⟩ s :=
        fld_setF_ne le_rfl hilt (.inr (by simp only; omega))
      simp [hji, flag, hne]
  · next hkeeps => simp [hkeeps]

/-- After the first `k` steps those bits below `k` are cleared that the write clears. -/
theorem flag_forN_pendClearBit {hi : Bool} {v j : Nat} {s : State} (hjlt : j < 32) : ∀ {k : Nat}, k ≤ 32 →
    flag (pendBit (pendSrc hi j)) (forN k (pendClearBit hi v) s) =
      (flag (pendBit (pendSrc hi j)) s && !(decide (j < k) && clearsPendBit hi v j s))
  | 0, _ => by simp [forN]
  | k + 1, hk => by
    rw [forN_succ, flag_pendClearBit (by omega) hjlt, flag_forN_pendClearBit hjlt (by omega),
      (pendOnly_forN_pendClearBit (by omega)).clearsPendBit_eq]
    rcases lt_trichotomy j k with h | rfl | h
    · simp [h, h.ne, Nat.lt_succ_of_lt h]
    · simp
    · simp [h.ne', Nat.not_lt_of_gt h, show ¬j < k + 1 by omega]

theorem flag_pendClear {hi : Bool} {v j : Nat} {s : State} (hjlt : j < 32) :
    flag (pendBit (pendSrc hi j)) (pendClear hi v s) = (flag (pendBit (pendSrc hi j)) s && !clearsPendBit hi v j s) := by
  rw [pendClear_eq, flag_congr (modFlt_regs ..), flag_forN_pendClearBit hjlt le_rfl]
  simp [hjlt]

/-- Only registers and the collector's own record change. -/
theorem pendClear_frame {hi : Bool} {v : Nat} {s : State} :
    pendClear hi v s = { s with regs := (pendClear hi v s).regs, flt := (pendClear hi v s).flt } := by
  have honly : PendOnly hi s (forN 32 (pendClearBit hi v) s) := pendOnly_forN_pendClearBit le_rfl
  rw [pendClear_eq, honly.frame]
  rfl

theorem fieldsBut_pendClear {hi : Bool} {v : Nat} {s : State} : FieldsBut [whole (pendAddr hi)] s (pendClear hi v s) :=
  (pendOnly_forN_pendClearBit le_rfl).fields.regs (by rw [pendClear_eq, modFlt_regs])

/-- A source without an event in this clock (R543). -/
theorem evNow_eq_none {n : Nat} {s : State} (h : ∀ x ∈ s.flt.last, x.src = n → x.clk ≠ clockNow s) : evNow n s = none := by
  simpa [evNow] using h

/-- Settles O38: the write is `pendClear` (`busStoreOp_pend`), which clears the bits that `clearsPendBit` names (`flag_pendClear`). -/
theorem pendingClear : Obligations.PendingClear := by
  intro who hi v s ⟨hvcc, hevq, hlogq⟩ a hw
  have haddr : (BitVec.ofNat 16 a).toNat = pendAddr hi := by cases hi <;> rfl
  have hop : busStoreOp who (BitVec.ofNat 16 a).toNat (2 ^ (2 : Fin 3).val) v.toNat s = pendClear hi v.toNat s := by
    rw [haddr]
    exact busStoreOp_pend hw
  have hevq' : (pendClear hi v.toNat s).evq = [] := (congrArg (fun t : State => t.evq) pendClear_frame).trans hevq
  have hlogq' : (pendClear hi v.toNat s).logq = [] := (congrArg (fun t : State => t.logq) pendClear_frame).trans hlogq
  refine ⟨fun n _ => condOn_iff, pendClear hi v.toNat s, ?_, ?_, fieldsBut_pendClear, ?_, ?_, ?_, ?_⟩
  · rw [exec_registerWrite, run_quiet hvcc (by rw [hop, hevq']) (by rw [hop, hlogq']), hop]
  · intro n hn hhi hlast
    have hsrc : pendSrc hi (n % 32) = n := pendSrc_mod (by omega) hhi
    have hbit := flag_pendClear (hi := hi) (v := v.toNat) (s := s) (Nat.mod_lt n (by decide : 0 < 32))
    rw [clearsPendBit, hsrc, evNow_eq_none hlast] at hbit
    rw [hbit, Option.isNone_none, Bool.and_true, Bool.not_and, Bool.not_not, Bool.or_comm]
  all_goals rw [pendClear_frame]

end Sys2Proof.Machine
end
